-- ==== Sys2Proof/Word.lean ====
section
/-!
DEFINITION. The word types of the SZ-1640: what the manual counts, addresses or carries as bits.
Nothing is computed here; the modular arithmetic of chapter 4 stands in Machine/Arith.lean.
-/
namespace Sys2Proof

/-- A byte of a cell's payload, of a frame or of a strap reading. -/
abbrev Byte := BitVec 8

/-- A 36-bit count of microseconds modulo 2^36: a stamp, a splice time, a return point, an offset or a station timer
value (R18, R50). Its subtraction and addition wrap as R50 says. -/
abbrev Time := BitVec 36

/-- One of the part's 16-bit counts (section 0.4, Counters). -/
abbrev Count := BitVec 16

/-- A cue id or an alert id, 0000h to FFFFh. -/
abbrev Ident := BitVec 16

/-- A set of channels, one bit for each slot; the bit of slot n has the value 2^n (R169). -/
abbrev ChanMask := BitVec 16

/-- A station number as its six bits (R140, R162). -/
abbrev StationNo := BitVec 6

/-- A slot, 0 to 15: the position of a channel in the station's block. -/
abbrev Slot := Fin 16

/-- An insert port, 0 to 3. -/
abbrev PortId := Fin 4

/-- A position of the alert ring, 0 to 95. -/
abbrev RingPos := Fin 96

end Sys2Proof
end

