-- ==== Sys2Proof/Config.lean ====
section
/-!
DEFINITION. What is fixed for the whole part and never changes as it runs: the number of its channels, ports and ring
positions as lists to walk over. The manual leaves no value of the part to the implementation and no instruction of it
writes an undefined value, so this file holds no free value. The limits of the rules stand in Machine/Arith.lean.
-/
namespace Sys2Proof.Config

/-- The 16 slots in ascending order (section 0.2). -/
def slots : List Slot := [0, 1, 2, 3, 4, 5, 6, 7, 8, 9, 10, 11, 12, 13, 14, 15]

/-- The four insert ports in ascending order (section 0.2). -/
def ports : List PortId := [0, 1, 2, 3]

end Sys2Proof.Config
end

