-- ==== Sys2Proof/Syntax.lean ====
section
/-!
DEFINITION. The commands the block takes: one constructor of Instr for each row of spec/opcode_table.json, with the
operands the event brings. A command that happens while the station timer runs brings the timer value t at which it is
taken (R4, R19, R52; log entry 2). A received frame brings its header as read and its payload as the bits of its bytes,
first byte most significant (R169).
-/
namespace Sys2Proof

/-- A cell at a stream port (section 1.1, R169). The payload is carried unchanged and never looked at. -/
structure StreamCell where
  mark    : Byte
  tag     : BitVec 12
  seq     : BitVec 4
  unit    : Bool
  stamp   : Bool
  disc    : Bool
  fill    : Bool
  /-- The stamp field, meaningful when `stamp` is set. -/
  time    : Time
  payload : List Byte
  deriving DecidableEq, Repr

/-- The header of a received frame as its three bytes read (R140, R169): the priority is bits 7 to 5 of byte 0, whose
lower bits the command's own kind gives; destination and source are the whole bytes 1 and 2. -/
structure FrameHeader where
  priority    : BitVec 3
  destination : Byte
  source      : Byte
  deriving DecidableEq, Repr

/-- What the part finds when a reset ends: the levels of the strap pins STN5 to STN0 and BASE7 to BASE0 (R162), and whether the cue
line is dominant (R163). -/
structure ReleaseLevels where
  number       : StationNo
  base         : Byte
  lineDominant : Bool
  deriving DecidableEq, Repr

/-- The first edge of a response byte came `gap` µs after the end of the byte before it, and the byte's first `slots` bit slots, all
eight or up to where it broke off, have passed and read as those of `bits` (R134). -/
structure PassedByte where
  gap   : Nat
  slots : Nat
  bits  : Byte
  deriving DecidableEq, Repr

/-- What the receiver measured on the line (R125, R126, R134), in whole microseconds. Most of these are errors; which are, and
what the others do, follows from the receive state (log entry 10). -/
inductive LineObservation where
  /-- A dominant run of this length has ended: a start mark, the run of a bit slot, or neither (R125, R126). -/
  | run (us : Nat)
  /-- A falling edge this long after the previous edge (R126). -/
  | earlyEdge (us : Nat)
  /-- No edge within 9 µs after this many slots of a byte (R126), with the last dominant run ended this long ago. -/
  | pause (slots sinceRun : Nat)
  /-- A falling edge this long after the previous edge and this long after the end of the last complete byte
  (R126, R134). -/
  | lateEdge (sinceEdge sinceByte : Nat)
  /-- The first edge of a 25th byte of a frame (R126). -/
  | extraByte
  deriving DecidableEq, Repr

/-- The commands, in the order of the table. -/
inductive Instr where
  /-- POWER_ON (R162): power-on ends with the straps and the cue line at these levels. -/
  | powerOn (levels : ReleaseLevels)
  /-- RSTN_ASSERT (R168): RSTn goes to its asserted level. -/
  | rstnAssert
  /-- RSTN_RELEASE (R168): RSTn goes to its released level with the straps and the cue line at these levels
  (R163). -/
  | rstnRelease (levels : ReleaseLevels)
  /-- RLK_CHANGE (R115): the RLK pin takes this level. -/
  | rlkChange (asserted : Bool)
  /-- NETWORK_CELL_ARRIVAL (R3, R4, R42). -/
  | networkCellArrival (t : Time) (cell : StreamCell)
  /-- SILENCE_EXPIRY (R27). -/
  | silenceExpiry (t : Time) (slot : Slot)
  /-- REJOIN_LIMIT_EXPIRY (R89). -/
  | rejoinLimitExpiry (t : Time) (slot : Slot)
  /-- STARVATION_EXPIRY (R102). -/
  | starvationExpiry (t : Time) (slot : Slot)
  /-- INSERT_CELL_ARRIVAL (R5). -/
  | insertCellArrival (t : Time) (port : PortId) (cell : StreamCell)
  /-- ALERT_CELL_ARRIVAL (R12). -/
  | alertCellArrival (t : Time) (cell : StreamCell)
  /-- CUE (R68, R69): the end-of-data of an intact CUE frame. -/
  | cue (t : Time) (header : FrameHeader) (payload : BitVec 96)
  /-- CUE_CANCEL (R84). -/
  | cueCancel (t : Time) (header : FrameHeader) (payload : BitVec 16)
  /-- ALERT_ON (R94). -/
  | alertOn (t : Time) (header : FrameHeader) (payload : BitVec 88)
  /-- ALERT_OFF (R107). -/
  | alertOff (t : Time) (header : FrameHeader) (payload : BitVec 24)
  /-- ALERT_EXPIRY (R108) of the record with this alert id. -/
  | alertExpiry (t : Time) (alertId : Ident)
  /-- RIGHTS (R116). -/
  | rights (t : Time) (header : FrameHeader) (payload : BitVec 24)
  /-- RIGHTS_LOCK (R119). -/
  | rightsLock (t : Time) (header : FrameHeader) (payload : BitVec 8)
  /-- RIGHTS_FIX (R121). -/
  | rightsFix (t : Time) (header : FrameHeader) (payload : BitVec 16)
  /-- QUERY (R158). -/
  | query (t : Time) (header : FrameHeader) (payload : BitVec 32)
  /-- LATCH_CLEAR (R160). -/
  | latchClear (t : Time) (header : FrameHeader) (payload : BitVec 24)
  /-- STATE_READ (R149). -/
  | stateRead (t : Time) (header : FrameHeader) (payload : BitVec 16)
  /-- SETUP_TIMES (R165). -/
  | setupTimes (t : Time) (header : FrameHeader) (payload : BitVec 32)
  /-- SETUP_WINDOW (R165). -/
  | setupWindow (t : Time) (header : FrameHeader) (payload : BitVec 72)
  /-- SETUP_DONE (R164). -/
  | setupDone (t : Time) (header : FrameHeader)
  /-- SETUP_WINDOW_EXPIRY (R164). -/
  | setupWindowExpiry (t : Time)
  /-- QUIET_PERIOD_END (R163). -/
  | quietPeriodEnd (t : Time)
  /-- CUT_FRAME_RECEIVED (R71): an intact CUT frame of another transmitter. -/
  | cutFrameReceived (t : Time) (header : FrameHeader) (payload : BitVec 88)
  /-- PEER_DEADLINE_EXPIRY (R72) of the entry with this cue id. -/
  | peerDeadlineExpiry (t : Time) (cueId : Ident)
  /-- PRESENT_RECEIVED (R166): an intact PRESENT frame that this station did not send. -/
  | presentReceived (t : Time) (header : FrameHeader) (payload : BitVec 24)
  /-- ALERT_REPORT_RECEIVED (R142): an intact ALERT_REPORT frame of another transmitter. -/
  | alertReportReceived (t : Time) (header : FrameHeader) (payload : BitVec 56)
  /-- TRANSMIT_START (R125). -/
  | transmitStart (t : Time)
  /-- ARBITRATION_LOSS (R130): in this bit slot of the header the line read 0. -/
  | arbitrationLoss (t : Time) (bitSlot : Nat)
  /-- CLEAN_SEND (R131). -/
  | cleanSend (t : Time)
  /-- BIT_ERROR (R132): in this bit slot of the frame the line read the opposite of the bit sent. -/
  | bitError (t : Time) (bitSlot : Nat)
  /-- LINE_BREAK (R133): a dominant run reaches 160 µs. -/
  | lineBreak (t : Time)
  /-- RECEIVE_ERROR (R125, R126, R134): what the receiver judges by its limits. -/
  | receiveError (t : Time) (observed : LineObservation)
  /-- CHECK_ERROR (R129): end-of-data of a frame read as these bytes, start mark to check byte. -/
  | checkError (t : Time) (bytes : List Byte)
  /-- NOISE_PULSE (R123). -/
  | noisePulse (t : Time)
  /-- RESPONSE_BYTE (R134): this much of a response byte has passed. -/
  | responseByte (t : Time) (line : PassedByte)
  /-- LINE_IDLE (R124): the line has been recessive for 64 µs. -/
  | lineIdle (t : Time)
  deriving DecidableEq, Repr

end Sys2Proof
end

