-- ==== Sys2Proof/Decode.lean ====
section
/-!
DEFINITION. The command a table word spells. The rows of spec/opcode_table.json give no bits ("fields" is empty and no row
has "fixed"): the block has no instruction words, and a command reaches it as an event with operands. So no word spells a
command. The byte layouts of cells and cue-line frames (R169) are read in Machine/Operands.lean.
-/
namespace Sys2Proof

/-- The command a word of `nbits` bits spells by the table's bits: none, as no row has bits (log entry 22). -/
def decodeTableWord (_nbits _w : Nat) : Option Instr := none

end Sys2Proof
end

