-- ==== Sys2Proof/Machine/State.lean ====
section
/-!
DEFINITION. The state of the SZ-1640 as plain data: every register, queue, store, count, latch, flag and pin the manual
gives the part, the two fields that are the model's own (`sout`, `pending`), and the state before power-on ends.
-/
namespace Sys2Proof.Machine

/-! ## Names the manual gives to states, modes and kinds -/

/-- Station states (section 11.2). -/
inductive StationState where
  | strapFault | listen | setup | active | clash
  deriving DecidableEq, Repr

/-- Channel states (R33); `onBreak` is the manual's BREAK. -/
inductive ChannelState where
  | network | cutWait | onBreak | returnWait | rejoinWait | alertWait | alert
  deriving DecidableEq, Repr

/-- Clock states (section 2.2). -/
inductive ClockState where
  | noClock | acquiring | locked
  deriving DecidableEq, Repr

/-- Insert port modes (section 1.3). -/
inductive PortMode where
  | free | reserved | live | drain
  deriving DecidableEq, Repr

/-- The insertion rights of a channel (R112). -/
inductive Rights where
  | opened | guarded
  deriving DecidableEq, Repr

/-- The scope of an alert (section 6.1). -/
inductive AlertScope where
  | live | test
  deriving DecidableEq, Repr

/-- The scope of a region window (R91). -/
inductive WindowScope where
  | liveOnly | testOnly | either | disabled
  deriving DecidableEq, Repr

/-- The mode of a region window and of an alert record (R91, R93). -/
inductive AlertMode where
  | override | observe
  deriving DecidableEq, Repr

/-- The kinds of a CUT report (R151). -/
inductive CutKind where
  | cutIn | cutOut | held | rejoined | missed | withdrawn | shed
  deriving DecidableEq, Repr

/-- The reasons of a CUT report, in the order of R170. -/
inductive CutReason where
  | scheduled | earlyEnd | cancelled | clockJump | clockLost | noClock | insertNotReady
  | noCutPoint | portBusy | preempted | guarded | peerMissed | peerSilent | overlap
  | tooLate | expiredInHold | rejoinTooShort | rejoinNoInsert | holdFull
  deriving DecidableEq, Repr

/-- The kinds of an ALERT_REPORT (R110). -/
inductive AlertKind where
  | taken | observed | cleared | declined
  deriving DecidableEq, Repr

/-- The reasons of an ALERT_REPORT (R110). -/
inductive AlertReason where
  | none | alertOff | expired | tableFull
  deriving DecidableEq, Repr

/-- The outcome codes of an ack response (R148). -/
inductive OutcomeCode where
  | accepted | replaced | notNow | guarded | idClash | tooLate | tooFar | overlap | full | inProgress | noClock
  | noSuchCue | locked | fixed | fixNotPermitted | breakLive | field
  deriving DecidableEq, Repr

/-! ## The channel record (chapter 3) and the cue entries (R67) -/

/-- The clock record of a channel (section 2.2). -/
structure Clock where
  state     : ClockState
  lastStamp : Time
  /-- The station time at last stamp. -/
  lastTime  : Time
  deriving DecidableEq, Repr

/-- A break record (R34). -/
structure BreakRecord where
  cueId       : Ident
  port        : PortId
  /-- D. -/
  offset      : Time
  /-- R. -/
  returnPoint : Time
  /-- In ms, after the clamp of R54. -/
  duration    : Nat
  earlyReturn : Bool
  cutStamp    : Time
  deriving DecidableEq, Repr

/-- An alert record reference on a channel (R34); `offset` is its D, absent until a cut is taken under it. -/
structure AlertRef where
  alertId : Ident
  level   : Nat
  offset  : Option Time
  deriving DecidableEq, Repr

/-- A record on a channel, active or held (R34). -/
inductive Record where
  | brk (b : BreakRecord)
  | alert (a : AlertRef)
  deriving DecidableEq, Repr

/-- The return condition of RETURN_WAIT (R35): ANY, or AFTER_R with its point, which is the R of the active break record or,
without one, the point copied from the break that ended. -/
inductive ReturnCondition where
  | any
  | afterBreak
  | afterPoint (p : Time)
  deriving DecidableEq, Repr

/-- The return report of RETURN_WAIT when it is not none (R33). -/
inductive ReturnReport where
  | scheduled | earlyEnd | cancelled
  deriving DecidableEq, Repr

/-- A channel's place in the alert ring (section 1.4). -/
inductive Reader where
  | awaiting
  | positioned (pos : RingPos) (unread : Nat)
  deriving DecidableEq, Repr

/-- The trigger of a cue entry (R67). The peer fields are the peer station, the peer cue id and the peer offset in ms. -/
inductive Trigger where
  | time
  | peer (station : Byte) (cueId : Ident) (offset : Nat)
  deriving DecidableEq, Repr

/-- The state of a cue entry (R67), with the fields present in that state alone: the peer deadline of WAIT_PEER (station
time at acceptance and wait in µs) and the mature mark of PENDING. -/
inductive EntryState where
  | waitPeer (since : Time) (wait : Nat)
  | pending (mature : Bool)
  | portWait
  | cutWait
  deriving DecidableEq, Repr

/-- A cue entry (R67). Its channel is the one whose list holds it. -/
structure CueEntry where
  cueId       : Ident
  port        : PortId
  earlyReturn : Bool
  trigger     : Trigger
  /-- S: present for a time trigger, and for a peer trigger once its peer has cut in. -/
  splice      : Option Time
  /-- In ms, after the clamp of R54. -/
  duration    : Nat
  state       : EntryState
  deriving DecidableEq, Repr

/-- The channel record (R33), with the channel's start gate (R4) and its part of the cue list (R67) beside it. -/
structure Channel where
  /-- The start gate of the slot is open (R4). -/
  gateOpen        : Bool
  state           : ChannelState
  returnCondition : Option ReturnCondition
  /-- Absent and none are both `none` (log entry 16). -/
  returnReport    : Option ReturnReport
  clock           : Clock
  active          : Option Record
  /-- The hold stack, bottom record first. -/
  hold            : List Record
  pendingEntry    : Option Ident
  rights          : Rights
  fixed           : Bool
  /-- The activity latch. -/
  activity        : Bool
  outSeq          : BitVec 4
  discDue         : Bool
  reader          : Option Reader
  alertWaitTime   : Time
  rejoinWaitTime  : Time
  starved         : Bool
  fillCount       : Count
  underrunCount   : Count
  truncatedCount  : Count
  missCount       : Count
  ringSkipCount   : Count
  /-- The entries of this channel in cue list order (R67). -/
  cues            : List CueEntry
  deriving DecidableEq, Repr

/-! ## The ports (chapter 1) -/

/-- An insert port (section 1.3). -/
structure InsertPort where
  queue      : List StreamCell
  mode       : PortMode
  owner      : Option Slot
  seeking    : Bool
  /-- The HOLD output is asserted. -/
  hold       : Bool
  overflow   : Count
  drained    : Count
  markErrors : Count
  deriving DecidableEq, Repr

/-- The alert ring (section 1.4); a position that no cell has been written to holds none. -/
structure AlertRing where
  cells      : Vector (Option StreamCell) 96
  writer     : RingPos
  newest     : Option RingPos
  markErrors : Count
  deriving DecidableEq, Repr

/-! ## The alert unit (chapter 6) -/

/-- An alert record of the alert table (R93). Its age is its place in the table (log entry 17). -/
structure AlertRecord where
  alertId    : Ident
  level      : Nat
  scope      : AlertScope
  /-- The region of the alert word it was created from (R34, log entry 30). -/
  region     : BitVec 16
  mode       : AlertMode
  channelSet : ChanMask
  limitStart : Time
  /-- In µs. -/
  limit      : Nat
  source     : Byte
  deriving DecidableEq, Repr

/-- A region window (R91). -/
structure RegionWindow where
  base       : BitVec 16
  mask       : BitVec 16
  scope      : WindowScope
  mode       : AlertMode
  channelSet : ChanMask
  deriving DecidableEq, Repr

/-! ## The line interface (chapter 8) -/

/-- A report as it was composed when it was raised (R151, R152, R153). -/
inductive Report where
  | cut (tag : BitVec 12) (kind : CutKind) (cueId : Ident) (reason : CutReason) (cutStamp : Time) (lateMs : Byte)
  | alert (destination : Byte) (alertId : Ident) (kind : AlertKind) (mask : ChanMask) (reason : AlertReason) (level : Nat)
  | present (blockBase : Byte) (station : StationState) (startLatch : Bool)
  deriving DecidableEq, Repr

/-- A frame of the transmit queue (R137) with its retry count (R132) and whether it is the frame in flight. -/
structure TxFrame where
  report   : Report
  retries  : Nat
  inFlight : Bool
  deriving DecidableEq, Repr

/-- The response types (R142). -/
inductive ResponseType where
  | none | ack | data | groupList
  deriving DecidableEq, Repr

/-- What this station has decided to send in the window, and has not finished sending (R146). -/
inductive Decision where
  | silent
  | ack (code : OutcomeCode)
  | data (bytes : List Byte)
  | number
  deriving DecidableEq, Repr

/-- The response window of the frame handed over last (R134): its type, the response bytes that have passed, and this
station's own part. -/
structure Window where
  type     : ResponseType
  seen     : Nat
  decision : Decision
  deriving DecidableEq, Repr

/-- The receive states (section 8.2); WINDOW carries its window. -/
inductive RxState where
  | quiet
  | frame
  | window (w : Window)
  | recover
  deriving DecidableEq, Repr

/-- The line interface (chapter 8). -/
structure LineInterface where
  rx            : RxState
  /-- In order of priority, then of age (R137). -/
  queue         : List TxFrame
  transmitFault : Bool
  /-- The station time at which the line break of a bit error began, until the line is idle again (R132). -/
  ownBreak      : Option Time
  /-- The start of the present recessive period (R124); while the line is dominant, the time of the last edge or event that
  showed it so. -/
  recessiveSince : Time
  /-- The line is dominant: an edge, a start mark or a line break has been seen, and not the end of its run (R124). -/
  dominant      : Bool
  receiveErrors : Count
  lineBreaks    : Count
  noise         : Count
  drops         : Count
  abandons      : Count
  deriving DecidableEq, Repr

/-! ## The whole part -/

/-- The state of the part, and the queue of commands that wait for it. -/
structure State where
  /-- Power-on has ended. -/
  powered        : Bool
  /-- The RSTn pin is asserted. -/
  rstAsserted    : Bool
  /-- The RLK pin is asserted (R115); its level at State.reset is the model's choice (log entry 31). -/
  rlk            : Bool
  /-- The station timer (R18). -/
  timer          : Time
  station        : StationState
  stationNumber  : StationNo
  blockBase      : Byte
  quietStart     : Time
  setupStart     : Time
  startLatch     : Bool
  /-- The setup values of R65 in force, in their byte units. -/
  prerollByte    : Byte
  lateLimitByte  : Byte
  rejoinMinByte  : Byte
  /-- The lock flag and the fix-permitted flag of the rights unit (R112). -/
  lock           : Bool
  fixPermitted   : Bool
  channels       : Vector Channel 16
  ports          : Vector InsertPort 4
  ring           : AlertRing
  networkMarkErrors : Count
  /-- The alert table in order of creation (R93). -/
  alerts         : List AlertRecord
  window0        : RegionWindow
  window1        : RegionWindow
  integrityCount : Count
  conflictCount  : Count
  line           : LineInterface
  /-- The model's own: the cells sent on SOUT since the last reset, in the order of their slot events (R16). -/
  sout           : List StreamCell
  /-- The model's own: the commands that wait, first in, first out. -/
  pending        : List Instr
  deriving DecidableEq, Repr

/-- Why the part stops with a fault: never. Every command of the table has an effect the manual gives, in every state, so
no meaning raises a fault, and this type has no constructor. Safe. -/
inductive Fault where
  deriving DecidableEq, Repr

/-- Why a command is refused. -/
inductive Refusal where
  /-- Raised by exec's own arm for a command that has no meaning yet; no arm raises it now. Safe: nothing can be claimed
  of such a command. -/
  | notModelled (mnemonic : String)
  deriving DecidableEq, Repr

/-! ## Values after reset -/

/-- The clock record after reset (section 2.2). -/
def Clock.reset : Clock := { state := .noClock, lastStamp := 0, lastTime := 0 }

/-- The channel record after power-on (R33, R4, R112). -/
def Channel.reset : Channel where
  gateOpen        := false
  state           := .network
  returnCondition := none
  returnReport    := none
  clock           := Clock.reset
  active          := none
  hold            := []
  pendingEntry    := none
  rights          := .guarded
  fixed           := false
  activity        := false
  outSeq          := 0
  discDue         := true
  reader          := none
  alertWaitTime   := 0
  rejoinWaitTime  := 0
  starved         := false
  fillCount       := 0
  underrunCount   := 0
  truncatedCount  := 0
  missCount       := 0
  ringSkipCount   := 0
  cues            := []

/-- An insert port after reset (section 1.3). -/
def InsertPort.reset : InsertPort where
  queue      := []
  mode       := .free
  owner      := none
  seeking    := false
  hold       := false
  overflow   := 0
  drained    := 0
  markErrors := 0

/-- The alert ring after reset (section 1.4). -/
def AlertRing.reset : AlertRing where
  cells      := Vector.replicate 96 none
  writer     := 0
  newest     := none
  markErrors := 0

/-- Region window 0 after reset (R91). -/
def RegionWindow.reset0 : RegionWindow where
  base       := 0x0000#16
  mask       := 0xFFFF#16
  scope      := .either
  mode       := .override
  channelSet := 0xFFFF#16

/-- Region window 1 after reset (R91). -/
def RegionWindow.reset1 : RegionWindow := { RegionWindow.reset0 with scope := .disabled }

/-- The line interface after reset (section 8.8); it keeps the recessive period from the release of the reset on, with the
level of the line that the release brings (log entry 6). -/
def LineInterface.reset : LineInterface where
  rx            := .recover
  queue         := []
  transmitFault := false
  ownBreak      := none
  recessiveSince := 0
  dominant      := false
  receiveErrors := 0
  lineBreaks    := 0
  noise         := 0
  drops         := 0
  abandons      := 0

/-- The state in which power-on has set every block to its power-on value and has not ended: the straps are not read, the
station state is a placeholder (log entry 1), and POWER_ON is the command that ends it. The level of the RLK pin before any
RLK_CHANGE is no value of the manual (R115): it stands released here, which is the model's choice (log entry 31). -/
def State.reset : State where
  powered        := false
  rstAsserted    := false
  rlk            := false
  timer          := 0
  station        := .strapFault
  stationNumber  := 0
  blockBase      := 0
  quietStart     := 0
  setupStart     := 0
  startLatch     := true
  prerollByte    := 40
  lateLimitByte  := 50
  rejoinMinByte  := 20
  lock           := false
  fixPermitted   := false
  channels       := Vector.replicate 16 Channel.reset
  ports          := Vector.replicate 4 InsertPort.reset
  ring           := AlertRing.reset
  networkMarkErrors := 0
  alerts         := []
  window0        := RegionWindow.reset0
  window1        := RegionWindow.reset1
  integrityCount := 0
  conflictCount  := 0
  line           := LineInterface.reset
  sout           := []
  pending        := []

end Sys2Proof.Machine
end

