-- ==== Sys2Proof/Machine/Arith.lean ====
section
/-!
DEFINITION. Splice arithmetic (chapter 4): modular and signed differences, the order of times, intervals, the limits and
clamps of the rules, and the saturating counts.
-/
namespace Sys2Proof.Machine

/-! ## Differences and order (R50, R51) -/

/-- The modular difference diff(x, y) (R50). -/
def diff (x y : Time) : Time := x - y

/-- The elapsed time of R19 in plain microseconds. -/
def elapsed (t since : Time) : Nat := (diff t since).toNat

/-- The signed difference signed(x − y) (R51). -/
def signed (x y : Time) : Int := (diff x y).toInt

/-- x is at or after y (R51). -/
def atOrAfter (x y : Time) : Bool := (diff x y).toNat < 34359738368

/-- A limit of `limit` µs that started at `since` has passed at `t` (R19). -/
def limitPassed (t since : Time) (limit : Nat) : Bool := limit < elapsed t since

/-- A duration in µs added to a time, modulo 2^36 (R50). -/
def addMicros (x : Time) (us : Nat) : Time := x + BitVec.ofNat 36 us

/-! ## Intervals (R54, R57) -/

/-- Two channel-time intervals, of length la at a and lb at b, overlap (R57). -/
def intervalsOverlap (a : Time) (la : Nat) (b : Time) (lb : Nat) : Bool :=
  signed b a < (la : Int) && signed a b < (lb : Int)

/-! ## Limits of the rules, in µs -/

/-- The clock silence limit (R27). -/
def silenceLimit : Nat := 2000000
/-- The largest |J| that is no jump (R23, R24). -/
def jumpLimit : Int := 100000
/-- The cue horizon (R56). -/
def cueHorizon : Int := 14400000000
/-- The rejoin limit (R89). -/
def rejoinLimit : Nat := 1000000
/-- The starvation limit (R102). -/
def starvationLimit : Nat := 2000000
/-- How far a held break's return point may lie behind the channel clock (R63). -/
def staleLimit : Int := 3600000000
/-- The setup window (R164). -/
def setupLimit : Nat := 2000000
/-- The quiet period (R163). -/
def quietPeriod : Nat := 100000
/-- The recessive time after which the line is idle (R124). -/
def idleTime : Nat := 64
/-- The recessive time from the end of the last byte of a frame to its end-of-data (R127), and the gap before a response byte
(R134). -/
def responseGap : Nat := 24
/-- The time after the end of the byte before it in which a response byte can begin (R134). -/
def responseWait : Nat := 32
/-- The length of a dominant run that is a line break (R133). -/
def breakRun : Nat := 160
/-- How long the line break of a bit error is driven (R132). -/
def breakDrive : Nat := 200
/-- The most entries of the cue list, and of one channel in it (R67). -/
def cueListLimit : Nat := 64
/-- The most entries of one channel (R67). -/
def channelCueLimit : Nat := 8
/-- The most records of the hold stack (R33). -/
def holdLimit : Nat := 3
/-- The most records of the alert table (R93). -/
def alertTableLimit : Nat := 8
/-- The most frames of the transmit queue (R137). -/
def txQueueLimit : Nat := 8
/-- The depth of an insert queue (R5). -/
def insertDepth : Nat := 48
/-- The depth at which HOLD is asserted (R6). -/
def holdAssertDepth : Nat := 40
/-- The depth at which HOLD is released (R6). -/
def holdReleaseDepth : Nat := 24
/-- The retries of a frame (R132). -/
def retryLimit : Nat := 3
/-- The cell mark (R1). -/
def cellMark : Byte := 0xB8#8

/-! ## Clamps (R54, R65, R66) -/

/-- A cue's duration in ms (R54). -/
def clampDuration (ms : Nat) : Nat := if ms < 1000 then 1000 else if 14400000 < ms then 14400000 else ms

/-- The break length L in µs of a clamped duration (R54). -/
def breakLength (durationMs : Nat) : Nat := durationMs * 1000

/-- An alert's limit in µs from its duration field in seconds (R66). -/
def alertLimit (seconds : Nat) : Nat := (if seconds = 0 ∨ 3600 < seconds then 3600 else seconds) * 1000000

/-- A peer wait in µs from its field in seconds (R66). -/
def clampPeerWait (seconds : Nat) : Nat := (if seconds = 0 then 1 else seconds) * 1000000

/-- A setup byte clamped to the top of its range (R65). -/
def clampByte (top : Nat) (b : Byte) : Byte := if top < b.toNat then BitVec.ofNat 8 top else b

/-- The preroll in force in µs (R65). -/
def State.preroll (s : State) : Int := (s.prerollByte.toNat * 100000 : Nat)

/-- The late limit in force in µs (R65). -/
def State.lateLimit (s : State) : Int := (s.lateLimitByte.toNat * 10000 : Nat)

/-- The rejoin minimum in force in µs (R65). -/
def State.rejoinMinimum (s : State) : Int := (s.rejoinMinByte.toNat * 100000 : Nat)

/-! ## Counts -/

/-- A 16-bit count that goes up by n and saturates at 65,535. -/
def countAdd (c : Count) (n : Nat) : Count := BitVec.ofNat 16 (min (c.toNat + n) 65535)

/-- A 16-bit count that goes up by 1 and saturates. -/
def countUp (c : Count) : Count := countAdd c 1

/-! ## The channel clock's prediction (R21, R52) -/

/-- The prediction c(t) of a clock record (R21). -/
def Clock.predict (k : Clock) (t : Time) : Time := k.lastStamp + diff t k.lastTime

end Sys2Proof.Machine
end

