-- ==== Sys2Proof/Machine/Operands.lean ====
section
/-!
DEFINITION. The operand forms of the commands: the classes of cells (R1), the byte layouts of cells and frames (R169) and
the check byte (R128).
-/
namespace Sys2Proof.Machine

/-! ## Cells (R1, R2, R169) -/

/-- An eligible unit start: UNIT and STAMP set (R1). -/
def isUnitStart (c : StreamCell) : Bool := c.unit && c.stamp

/-- An end mark, on an insert port: UNIT and FILL set, STAMP clear (R1). -/
def isEndMark (c : StreamCell) : Bool := c.unit && c.fill && !c.stamp

/-- The fill cell with this tag (R2); its sequence count and DISC are set as it is sent. -/
def fillCell (tag : BitVec 12) : StreamCell where
  mark    := cellMark
  tag     := tag
  seq     := 0
  unit    := false
  stamp   := false
  disc    := false
  fill    := true
  time    := 0
  payload := List.replicate 152 0

/-- A cell taken from an insert port or the alert ring, rebased by D (R61). -/
def rebase (c : StreamCell) (d : Time) : StreamCell := if c.stamp then { c with time := c.time + d } else c

/-- The eight header bytes of a cell as one word, byte 0 most significant (R169). -/
def cellHeaderBits (c : StreamCell) : BitVec 64 :=
  c.mark ++ c.tag ++ c.seq ++ BitVec.ofBool c.unit ++ BitVec.ofBool c.stamp ++ BitVec.ofBool c.disc ++
    BitVec.ofBool c.fill ++ c.time

/-- The cell whose eight header bytes are this word and whose payload is these bytes (R169). -/
def cellOfHeaderBits (w : BitVec 64) (payload : List Byte) : StreamCell where
  mark    := w.extractLsb' 56 8
  tag     := w.extractLsb' 44 12
  seq     := w.extractLsb' 40 4
  unit    := w.getLsbD 39
  stamp   := w.getLsbD 38
  disc    := w.getLsbD 37
  fill    := w.getLsbD 36
  time    := w.extractLsb' 0 36
  payload := payload

/-! ## Masks -/

/-- The slot's bit of a channel mask (R169). -/
def inMask (m : ChanMask) (i : Slot) : Bool := m.getLsbD i.val

/-- The mask of one slot. -/
def slotMask (i : Slot) : ChanMask := 1#16 <<< i.val

/-! ## Frames: kinds, bytes and the check byte (R128, R142, R169) -/

/-- The sixteen kinds the part knows (R142). -/
inductive FrameKind where
  | alertOn | alertOff | cue | cueCancel | rights | rightsLock | rightsFix | query | latchClear | stateRead
  | setupTimes | setupWindow | setupDone | cut | alertReport | present
  deriving DecidableEq, Repr

/-- The value of a kind (R169). -/
def FrameKind.value : FrameKind → BitVec 5
  | .alertOn => 0x01#5 | .alertOff => 0x02#5 | .cue => 0x03#5 | .cueCancel => 0x04#5
  | .rights => 0x05#5 | .rightsLock => 0x06#5 | .rightsFix => 0x07#5 | .query => 0x08#5
  | .latchClear => 0x09#5 | .stateRead => 0x0A#5 | .setupTimes => 0x0B#5 | .setupWindow => 0x0C#5
  | .setupDone => 0x0D#5 | .cut => 0x10#5 | .alertReport => 0x11#5 | .present => 0x12#5

/-- The kind of a value, none for a kind the part does not know (R129, R169). -/
def FrameKind.ofValue (v : BitVec 5) : Option FrameKind :=
  [FrameKind.alertOn, .alertOff, .cue, .cueCancel, .rights, .rightsLock, .rightsFix, .query, .latchClear, .stateRead,
    .setupTimes, .setupWindow, .setupDone, .cut, .alertReport, .present].find? fun k => k.value == v

/-- The payload bytes of a kind (R142). -/
def FrameKind.payloadBytes : FrameKind → Nat
  | .cue => 12 | .cueCancel => 2 | .alertOn => 11 | .alertOff => 3 | .rights => 3 | .rightsLock => 1
  | .rightsFix => 2 | .query => 4 | .latchClear => 3 | .stateRead => 2 | .setupTimes => 4 | .setupWindow => 9
  | .setupDone => 0 | .cut => 11 | .alertReport => 7 | .present => 3

/-- The response type of a kind (R142). -/
def FrameKind.responseType : FrameKind → ResponseType
  | .cue | .cueCancel | .rights | .rightsLock | .rightsFix | .setupTimes | .setupWindow | .setupDone => .ack
  | .stateRead => .data
  | .alertOn | .alertOff | .query | .latchClear => .groupList
  | .cut | .alertReport | .present => .none

/-- The most response bytes the window of a type carries (R134, R135, R136). -/
def ResponseType.limit : ResponseType → Nat
  | .none => 0 | .ack => 1 | .data => 8 | .groupList => 8

/-- The bytes of a payload word, first byte first (R169). -/
def payloadBytes {w : Nat} (p : BitVec w) : List Byte :=
  (List.range (w / 8)).map fun k => p.extractLsb' (w - 8 * (k + 1)) 8

/-- Header byte 0 of a frame (R169). -/
def headerByte0 (priority : BitVec 3) (kind : FrameKind) : Byte := priority ++ kind.value

/-- One bit through the check register (R128). -/
def crcBit (r : Byte) (d : Bool) : Byte := if r.msb != d then (r <<< 1) ^^^ 0x1D#8 else r <<< 1

/-- One byte through the check register, most significant bit first (R128). -/
def crcByte (r b : Byte) : Byte := [7, 6, 5, 4, 3, 2, 1, 0].foldl (fun r k => crcBit r (b.getLsbD k)) r

/-- The check byte over these bytes (R128). -/
def checkByte (bytes : List Byte) : Byte := ~~~ (bytes.foldl crcByte 0xFF#8)

/-- The header and payload bytes of a received frame (R169). -/
def receivedBytes {w : Nat} (kind : FrameKind) (h : FrameHeader) (p : BitVec w) : List Byte :=
  headerByte0 h.priority kind :: h.destination :: h.source :: payloadBytes p

/-- What the receiver finds at end-of-data about the bytes of a frame (R129). -/
inductive FrameJudgement where
  | checkError
  | unknownKind
  | lengthError
  | intact
  deriving DecidableEq, Repr

/-- The judgement of R129 over all bytes read, the check byte last. -/
def judgeFrame (bytes : List Byte) : FrameJudgement :=
  if checkByte bytes.dropLast ≠ bytes.getLastD 0 then .checkError
  else match FrameKind.ofValue ((bytes.headD 0).extractLsb' 0 5) with
    | none => .unknownKind
    | some k => if bytes.length = k.payloadBytes + 4 then .intact else .lengthError

/-! ## The header check and addressing (R140, R141) -/

/-- The header check of R140: the upper two bits of destination and source are zero and the source is 1 to 62. -/
def headerPasses (h : FrameHeader) : Bool :=
  h.destination.toNat < 64 && 1 ≤ h.source.toNat && h.source.toNat ≤ 62

/-- The frame's destination is the station's own number; in STRAP_FAULT the station has none (R141). -/
def State.isOwnNumber (s : State) (h : FrameHeader) : Bool :=
  s.station != .strapFault && h.destination == s.stationNumber.setWidth 8

/-- A group-list command is addressed to this station (R141). -/
def State.groupAddressed (s : State) (h : FrameHeader) : Bool := h.destination == 63#8 || s.isOwnNumber h

/-! ## Fields of the payloads (R143, R144, R169) -/

/-- The fields of a CUE payload. -/
structure CueFields where
  cueId       : Ident
  slot        : Slot
  port        : PortId
  earlyReturn : Bool
  peerTrigger : Bool
  /-- The upper four bits of the trigger bytes. -/
  triggerHigh : BitVec 4
  /-- S of a time trigger: the lower 36 bits of the trigger bytes. -/
  splice      : Time
  peerStation : Byte
  peerCueId   : Ident
  peerOffset  : Nat
  duration    : Nat
  peerWait    : Nat
  deriving DecidableEq, Repr

/-- A CUE payload read by its layout (R169). -/
def cueFields (p : BitVec 96) : CueFields where
  cueId       := p.extractLsb' 80 16
  slot        := (p.extractLsb' 76 4).toFin
  port        := (p.extractLsb' 74 2).toFin
  earlyReturn := p.getLsbD 73
  peerTrigger := p.getLsbD 72
  triggerHigh := p.extractLsb' 68 4
  splice      := p.extractLsb' 32 36
  peerStation := p.extractLsb' 64 8
  peerCueId   := p.extractLsb' 48 16
  peerOffset  := (p.extractLsb' 32 16).toNat
  duration    := (p.extractLsb' 8 24).toNat
  peerWait    := (p.extractLsb' 0 8).toNat

/-- The fields of an ALERT_ON payload. -/
structure AlertOnFields where
  alertId  : Ident
  region   : BitVec 16
  control  : Byte
  inverted : BitVec 24
  duration : Nat
  floor    : Nat
  deriving DecidableEq, Repr

/-- An ALERT_ON payload read by its layout (R169). -/
def alertOnFields (p : BitVec 88) : AlertOnFields where
  alertId  := p.extractLsb' 72 16
  region   := p.extractLsb' 56 16
  control  := p.extractLsb' 48 8
  inverted := p.extractLsb' 24 24
  duration := (p.extractLsb' 8 16).toNat
  floor    := (p.extractLsb' 0 8).toNat

/-- The level of a control byte: bits 2 to 0 (R169). -/
def AlertOnFields.level (f : AlertOnFields) : Nat := (f.control.extractLsb' 0 3).toNat

/-- The scope of a control byte: bit 3 (R169). -/
def AlertOnFields.scope (f : AlertOnFields) : AlertScope := if f.control.getLsbD 3 then .test else .live

/-- The alert word passes the checks of R90: its inverted copy is its complement, bits 7 to 4 of the control byte are zero
and the level is not 0. -/
def AlertOnFields.intact (f : AlertOnFields) : Bool :=
  f.inverted == ~~~ (f.region ++ f.control) && f.control.extractLsb' 4 4 == 0#4 && f.level != 0

/-- Bytes 0 to 1 of a payload of three bytes: an id or a mask (R169). -/
def word3 (p : BitVec 24) : BitVec 16 := p.extractLsb' 8 16

/-- Byte 2 of a payload of three bytes (R169). -/
def last3 (p : BitVec 24) : Byte := p.extractLsb' 0 8

/-- The actions of RIGHTS (R169). -/
def rightsAction (b : Byte) : Option Rights := if b = 0x01#8 then some .opened else if b = 0x02#8 then some .guarded else none

/-- The actions of RIGHTS_LOCK: the lock flag asked for (R169). -/
def lockAction (b : Byte) : Option Bool := if b = 0x01#8 then some true else if b = 0x02#8 then some false else none

/-- The fields of a QUERY payload. -/
structure QueryFields where
  floor    : Nat
  mask     : ChanMask
  test     : BitVec 3
  inverts  : Bool
  all      : Bool
  deriving DecidableEq, Repr

/-- A QUERY payload read by its layout (R169). -/
def queryFields (p : BitVec 32) : QueryFields where
  floor   := (p.extractLsb' 24 8).toNat
  mask    := p.extractLsb' 8 16
  test    := p.extractLsb' 0 3
  inverts := p.getLsbD 3
  all     := p.getLsbD 4

/-- The scope codes of SETUP_WINDOW (R169). -/
def windowScopeOf (b : Byte) : Option WindowScope :=
  if b = 0x00#8 then some .liveOnly else if b = 0x01#8 then some .testOnly
  else if b = 0x02#8 then some .either else if b = 0x03#8 then some .disabled else none

/-- The mode codes of SETUP_WINDOW (R169). -/
def alertModeOf (b : Byte) : Option AlertMode := if b = 0x00#8 then some .override else if b = 0x01#8 then some .observe else none

/-- The window index of a SETUP_WINDOW payload: byte 0 (R169). -/
def setupWindowIndex (p : BitVec 72) : Byte := p.extractLsb' 64 8

/-- The window that a SETUP_WINDOW payload describes, none where its scope or its mode names none (R165, R169). -/
def setupWindowOf (p : BitVec 72) : Option RegionWindow :=
  match windowScopeOf (p.extractLsb' 24 8), alertModeOf (p.extractLsb' 16 8) with
  | some scope, some mode =>
    some { base := p.extractLsb' 48 16, mask := p.extractLsb' 32 16, scope := scope, mode := mode, channelSet := p.extractLsb' 0 16 }
  | _, _ => none

/-- The fields of a CUT payload the cue list uses (R154). -/
structure CutFields where
  tag      : BitVec 12
  kind     : BitVec 4
  cueId    : Ident
  reason   : Byte
  cutStamp : Time
  lateMs   : Byte
  deriving DecidableEq, Repr

/-- A CUT payload read by its layout; the upper four bits of the cut stamp field are ignored (R154, R169). -/
def cutFields (p : BitVec 88) : CutFields where
  tag      := p.extractLsb' 76 12
  kind     := p.extractLsb' 72 4
  cueId    := p.extractLsb' 56 16
  reason   := p.extractLsb' 48 8
  cutStamp := p.extractLsb' 8 36
  lateMs   := p.extractLsb' 0 8

end Sys2Proof.Machine
end

