-- ==== Sys2Proof/Machine/Flags.lean ====
section
/-!
DEFINITION. The code values of R170, the bytes the part sends (reports, response bytes), and the outputs and flags computed
from the state: FAULT, whether the part drives the cue line, HOLD.
-/
namespace Sys2Proof.Machine

/-! ## Code values (R170) -/

def OutcomeCode.value : OutcomeCode → Byte
  | .accepted => 0x01#8 | .replaced => 0x02#8 | .notNow => 0x10#8 | .guarded => 0x11#8 | .idClash => 0x12#8
  | .tooLate => 0x13#8 | .tooFar => 0x14#8 | .overlap => 0x15#8 | .full => 0x16#8 | .inProgress => 0x17#8
  | .noClock => 0x18#8 | .noSuchCue => 0x19#8 | .locked => 0x20#8 | .fixed => 0x21#8
  | .fixNotPermitted => 0x22#8 | .breakLive => 0x23#8 | .field => 0x30#8

def CutKind.value : CutKind → BitVec 4
  | .cutIn => 1#4 | .cutOut => 2#4 | .held => 3#4 | .rejoined => 4#4 | .missed => 5#4 | .withdrawn => 6#4 | .shed => 7#4

/-- The kind of a received CUT frame, none for a value that names none (R154). -/
def CutKind.ofValue (v : BitVec 4) : Option CutKind :=
  [CutKind.cutIn, .cutOut, .held, .rejoined, .missed, .withdrawn, .shed].find? fun k => k.value == v

def CutReason.value : CutReason → Byte
  | .scheduled => 0x00#8 | .earlyEnd => 0x01#8 | .cancelled => 0x02#8 | .clockJump => 0x03#8 | .clockLost => 0x04#8
  | .noClock => 0x05#8 | .insertNotReady => 0x06#8 | .noCutPoint => 0x07#8 | .portBusy => 0x08#8
  | .preempted => 0x09#8 | .guarded => 0x0A#8 | .peerMissed => 0x0B#8 | .peerSilent => 0x0C#8 | .overlap => 0x0D#8
  | .tooLate => 0x0E#8 | .expiredInHold => 0x0F#8 | .rejoinTooShort => 0x10#8 | .rejoinNoInsert => 0x11#8
  | .holdFull => 0x12#8

def AlertKind.value : AlertKind → Byte
  | .taken => 1#8 | .observed => 2#8 | .cleared => 3#8 | .declined => 4#8

def AlertReason.value : AlertReason → Byte
  | .none => 0#8 | .alertOff => 1#8 | .expired => 2#8 | .tableFull => 3#8

def StationState.value : StationState → Byte
  | .strapFault => 0#8 | .listen => 1#8 | .setup => 2#8 | .active => 3#8 | .clash => 4#8

def ChannelState.value : ChannelState → BitVec 3
  | .network => 0#3 | .cutWait => 1#3 | .onBreak => 2#3 | .returnWait => 3#3 | .rejoinWait => 4#3 | .alertWait => 5#3
  | .alert => 6#3

def ClockState.value : ClockState → BitVec 2
  | .noClock => 0#2 | .acquiring => 1#2 | .locked => 2#2

def PortMode.value : PortMode → BitVec 2
  | .free => 0#2 | .reserved => 1#2 | .live => 2#2 | .drain => 3#2

/-! ## Reports as frames (R151 to R153, R169) -/

/-- The priority the part gives its CUT reports (R138, R151). -/
def CutKind.priority : CutKind → BitVec 3
  | .cutIn | .cutOut | .held | .rejoined => 2#3
  | .missed | .withdrawn | .shed => 3#3

def Report.priority : Report → BitVec 3
  | .cut _ kind _ _ _ _ => kind.priority
  | .alert .. => 1#3
  | .present .. => 4#3

def Report.kind : Report → FrameKind
  | .cut .. => .cut
  | .alert .. => .alertReport
  | .present .. => .present

/-- The destination byte: 63 for CUT and PRESENT, the alert's source for ALERT_REPORT (R151 to R153). -/
def Report.destination : Report → Byte
  | .cut .. => 63#8
  | .alert destination .. => destination
  | .present .. => 63#8

/-- The payload of a CUT report (R169). -/
def cutPayload (tag : BitVec 12) (kind : CutKind) (cueId : Ident) (reason : CutReason) (cutStamp : Time) (lateMs : Byte) :
    BitVec 88 :=
  tag ++ kind.value ++ cueId ++ reason.value ++ 0#4 ++ cutStamp ++ lateMs

def Report.payload : Report → List Byte
  | .cut tag kind cueId reason cutStamp lateMs => payloadBytes (cutPayload tag kind cueId reason cutStamp lateMs)
  | .alert _ alertId kind mask reason level =>
    payloadBytes (alertId ++ kind.value ++ mask ++ reason.value ++ BitVec.ofNat 8 level : BitVec 56)
  | .present blockBase station startLatch =>
    [blockBase, station.value, if startLatch then 1#8 else 0#8]

/-- The bytes of a report's frame, header to check byte, as the station with this number sends it. -/
def Report.frameBytes (number : StationNo) (r : Report) : List Byte :=
  let covered := headerByte0 r.priority r.kind :: r.destination :: number.setWidth 8 :: r.payload
  covered ++ [checkByte covered]

/-- The bit a transmitter sends in this bit slot of a frame, none past its last byte (R126: most significant bit first). -/
def sentBit (bytes : List Byte) (bitSlot : Nat) : Option Bool :=
  bytes[bitSlot / 8]?.map fun b => b.getMsbD (bitSlot % 8)

/-! ## Outputs and flags computed from the state -/

/-- The part performs no action: power-on has not ended, or RSTn is asserted (R168). -/
def State.isHeld (s : State) : Bool := !s.powered || s.rstAsserted

/-- The station states in which the line interface drives the line (R124). -/
def StationState.mayDrive : StationState → Bool
  | .setup | .active => true
  | .strapFault | .listen | .clash => false

/-- The FAULT pin (R167). -/
def State.faultPin (s : State) : Bool :=
  !s.isHeld && (s.station == .strapFault || s.station == .clash || s.line.transmitFault)

/-- A frame of the transmit queue is in flight (R137). -/
def LineInterface.flying (l : LineInterface) : Bool := l.queue.any (·.inFlight)

/-- This station has something left to send in the window it is in. -/
def LineInterface.responding (l : LineInterface) : Bool :=
  match l.rx with
  | .window w => w.decision != .silent
  | .quiet | .frame | .recover => false

/-- The line interface drives the line break of a bit error at station time t: 200 µs from its start (R132). -/
def LineInterface.drivesBreak (l : LineInterface) (t : Time) : Bool := l.ownBreak.any fun since => elapsed t since < breakDrive

/-- The part sends bits: a frame in flight, or a response it may send (R124). -/
def State.sendsBits (s : State) : Bool := s.line.flying || (s.line.responding && s.station.mayDrive)

/-- The part drives the cue line: bits, or a line break (R124). -/
def State.drivesLine (s : State) : Bool := s.sendsBits || s.line.drivesBreak s.timer

/-- No line break of this station's own has held the line within the last 64 µs before t, so that the line can be idle (R124, R132). -/
def LineInterface.clearOfBreak (l : LineInterface) (t : Time) : Bool :=
  l.ownBreak.all fun since => breakDrive + idleTime ≤ elapsed t since

/-- HOLD from the queue depth with hysteresis (R6). -/
def holdLevel (depth : Nat) (previous : Bool) : Bool :=
  if holdAssertDepth ≤ depth then true else if depth ≤ holdReleaseDepth then false else previous

/-- The channel's tag (section 0.4). -/
def State.tagOf (s : State) (i : Slot) : BitVec 12 := s.blockBase ++ BitVec.ofNat 4 i.val

end Sys2Proof.Machine
end

