-- ==== Sys2Proof/Machine/Ports.lean ====
section
/-!
DEFINITION. The insert ports and the alert ring as blocks of their own: what a port or the ring does on a cell and on each
request (R5 to R14), without the arbiter and without the channel records.
-/
namespace Sys2Proof.Machine

/-! ## Insert ports -/

/-- The queue takes a new content, and HOLD follows its depth (R6). -/
def InsertPort.setQueue (p : InsertPort) (q : List StreamCell) : InsertPort :=
  { p with queue := q, hold := holdLevel q.length p.hold }

/-- The head inspection of R7 over a queue: the queue from its first eligible unit start on. -/
def seekHead (q : List StreamCell) : List StreamCell := q.dropWhile fun c => !isUnitStart c

/-- The head inspection of R7: a seeking port discards heads into its drained count until an eligible unit start is at the
head or the queue is empty. -/
def InsertPort.inspect (p : InsertPort) : InsertPort :=
  if p.seeking then
    { p.setQueue (seekHead p.queue) with drained := countAdd p.drained (p.queue.length - (seekHead p.queue).length) }
  else p

/-- A cell arrives at the port, in a station that is not in STRAP_FAULT (R5). -/
def InsertPort.arrive (p : InsertPort) (c : StreamCell) : InsertPort :=
  if c.mark ≠ cellMark then { p with markErrors := countUp p.markErrors }
  else match p.mode with
    | .drain => { p with drained := countUp p.drained }
    | .free | .reserved | .live =>
      if p.queue.length < insertDepth then
        if p.seeking && p.queue.isEmpty then (p.setQueue [c]).inspect else p.setQueue (p.queue ++ [c])
      else { p with overflow := countUp p.overflow }

/-- A granted reserve request: the port becomes RESERVED to the channel, seeking, and inspects its head (R8, R10). -/
def InsertPort.grant (p : InsertPort) (i : Slot) : InsertPort :=
  { p with mode := .reserved, owner := some i, seeking := true }.inspect

/-- The owner takes the head cell (R11): it leaves the queue, and a seeking port inspects the cell that follows. -/
def InsertPort.take (p : InsertPort) : InsertPort := (p.setQueue p.queue.tail).inspect

/-- The owner takes the head at a cut: the seeking flag is cleared and the cells behind the head are kept (R7, R9). -/
def InsertPort.takeAtCut (p : InsertPort) : InsertPort := { p.setQueue p.queue.tail with seeking := false }

/-- The go-live request of channel i (R9): from RESERVED with the take of the head cell at a cut-in, from DRAIN with seeking
set for a rejoin. -/
def InsertPort.goLive (p : InsertPort) (i : Slot) : InsertPort :=
  if p.owner = some i then
    match p.mode with
    | .reserved => { p.takeAtCut with mode := .live }
    | .drain => { p with mode := .live, seeking := true }
    | .free | .live => p
  else p

/-- The queue is flushed into the drained count (R9, R10). -/
def InsertPort.flush (p : InsertPort) : InsertPort :=
  { p.setQueue [] with drained := countAdd p.drained p.queue.length, seeking := false }

/-- The drain request of channel i takes effect: the port is LIVE and i is its owner (R9). -/
def InsertPort.drains (p : InsertPort) (i : Slot) : Bool := p.owner == some i && p.mode == .live

/-- The drain request of channel i (R9). -/
def InsertPort.drain (p : InsertPort) (i : Slot) : InsertPort :=
  if p.drains i then { p.flush with mode := .drain } else p

/-- The number of cells a drain request of channel i flushes (R9). -/
def InsertPort.drainFlush (p : InsertPort) (i : Slot) : Nat := if p.drains i then p.queue.length else 0

/-- The release request of channel i takes effect: the port is not FREE and i is its owner (R10). -/
def InsertPort.releases (p : InsertPort) (i : Slot) : Bool := p.owner == some i && p.mode != .free

/-- The port after a release, before the arbiter runs (R10). -/
def InsertPort.freed (p : InsertPort) : InsertPort := { p.flush with mode := .free, owner := none }

/-- The head of the queue for channel i: none where the queue is empty, the port is another's, FREE or DRAIN (R11). -/
def InsertPort.headFor (p : InsertPort) (i : Slot) : Option StreamCell :=
  if p.owner = some i ∧ (p.mode = .reserved ∨ p.mode = .live) then p.queue.head? else none

/-- The head of the queue for channel i is an eligible unit start. -/
def InsertPort.readyFor (p : InsertPort) (i : Slot) : Bool := (p.headFor i).any isUnitStart

/-! ## The alert ring -/

/-- The next position, modulo 96. -/
def nextPos (p : RingPos) : RingPos := p + 1

/-- The number of cells written from position p up to the writer index, at least 1 (R13). -/
def AlertRing.unreadFrom (r : AlertRing) (p : RingPos) : Nat := (r.writer.val + 95 - p.val) % 96 + 1

/-- The reader placed at the newest unit start, AWAITING when there is none (R13, R14). -/
def AlertRing.newReader (r : AlertRing) : Reader :=
  match r.newest with
  | some p => .positioned p (r.unreadFrom p)
  | none => .awaiting

/-- A valid cell is written into the ring: steps 2 and 3 of R12. -/
def AlertRing.write (r : AlertRing) (c : StreamCell) : AlertRing :=
  { r with
    cells  := r.cells.set r.writer (some c)
    writer := nextPos r.writer
    newest := if isUnitStart c then some r.writer else if r.newest = some r.writer then none else r.newest }

/-- The cell a reader would read next: none for one that has caught up or is AWAITING (R13). -/
def AlertRing.cellAt (r : AlertRing) : Reader → Option StreamCell
  | .awaiting => none
  | .positioned p unread => if unread = 0 then none else r.cells[p]

/-- The reader after a read (R13). -/
def Reader.advance : Reader → Reader
  | .awaiting => .awaiting
  | .positioned p unread => .positioned (nextPos p) (unread - 1)

/-- The reader is lapped by the next write (step 1 of R12). -/
def Reader.lapped : Reader → Bool
  | .awaiting => false
  | .positioned _ unread => unread == 96

/-- A reader after a write has made the ring `after` of it: a lapped reader is moved to the newest unit start, another
positioned reader has one more cell unread, an AWAITING one is positioned at the written cell when it is an eligible unit
start (steps 4 to 6 of R12, R14). -/
def Reader.afterWrite (after : AlertRing) (written : RingPos) (c : StreamCell) (r : Reader) : Reader :=
  if r.lapped then after.newReader
  else match r with
    | .positioned p unread => .positioned p (unread + 1)
    | .awaiting => if isUnitStart c then .positioned written 1 else .awaiting

end Sys2Proof.Machine
end

