-- ==== Sys2Proof/Machine/Ops.lean ====
section
/-!
DEFINITION. The shared operations over the whole state: reading and writing one channel or one port, offering a report to
the transmit queue (R137, R138), releasing an insert port with the arbiter (R10), a cue entry leaving the list without a cut
(R76), and sending one cell at a slot event (R15, R43).
-/
namespace Sys2Proof.Machine

/-! ## One channel, one port -/

/-- The channel of a slot. -/
def State.chan (s : State) (i : Slot) : Channel := s.channels[i]

/-- The channel of a slot takes a new record. -/
def State.setChan (s : State) (i : Slot) (c : Channel) : State := { s with channels := s.channels.set i c }

/-- The channel of a slot is changed by f. -/
def State.modChan (s : State) (i : Slot) (f : Channel → Channel) : State := s.setChan i (f (s.chan i))

/-- An insert port. -/
def State.port (s : State) (p : PortId) : InsertPort := s.ports[p]

/-- An insert port takes a new content. -/
def State.setPort (s : State) (p : PortId) (q : InsertPort) : State := { s with ports := s.ports.set p q }

/-- An insert port is changed by f. -/
def State.modPort (s : State) (p : PortId) (f : InsertPort → InsertPort) : State := s.setPort p (f (s.port p))

/-- The station timer reads t. -/
def State.atTime (s : State) (t : Time) : State := { s with timer := t }

/-- The line interface takes a new content. -/
def State.setLine (s : State) (l : LineInterface) : State := { s with line := l }

/-! ## Records on a channel -/

/-- The break record of an optional record. -/
def Record.break? : Record → Option BreakRecord
  | .brk b => some b
  | .alert _ => none

/-- The channel's break record, active or held (R37: it has at most one). -/
def Channel.breakRecord (c : Channel) : Option BreakRecord :=
  match c.active.bind Record.break? with
  | some b => some b
  | none => (c.hold.filterMap Record.break?).head?

/-- The channel's active break record. -/
def Channel.activeBreak (c : Channel) : Option BreakRecord := c.active.bind Record.break?

/-- The channel's held break record. -/
def Channel.heldBreak (c : Channel) : Option BreakRecord := (c.hold.filterMap Record.break?).head?

/-- The hold stack without a break record; the records above it move down (R39). -/
def Channel.dropHeldBreak (c : Channel) : Channel := { c with hold := c.hold.filter fun r => r.break?.isNone }

/-- The break record of this channel has this cue id. -/
def Channel.hasBreak (c : Channel) (cueId : Ident) : Bool := c.breakRecord.any fun b => b.cueId == cueId

/-! ## The transmit queue (R137, R138) -/

/-- The frame a report joins the queue as. -/
def TxFrame.ofReport (r : Report) : TxFrame := { report := r, retries := 0, inFlight := false }

/-- A frame is placed after every frame of the same or a lower priority number (R137). -/
def placeFrame (f : TxFrame) : List TxFrame → List TxFrame
  | [] => [f]
  | g :: rest => if g.report.priority ≤ f.report.priority then g :: placeFrame f rest else f :: g :: rest

/-- The greatest priority number among the queued frames that are not in flight (R138). -/
def lowestPriority (q : List TxFrame) : Option (BitVec 3) :=
  (q.filter fun g => !g.inFlight).foldl
    (fun m g => match m with | none => some g.report.priority | some p => some (if p < g.report.priority then g.report.priority else p))
    none

/-- The queue without the oldest frame of this priority that is not in flight (R138). -/
def displaceFrame (priority : BitVec 3) (q : List TxFrame) : List TxFrame :=
  q.eraseP fun g => !g.inFlight && g.report.priority == priority

/-- A report is offered to the queue in a station state that may drive the line (R137, R138). -/
def LineInterface.offer (l : LineInterface) (r : Report) : LineInterface :=
  let f := TxFrame.ofReport r
  if l.queue.length < txQueueLimit then { l with queue := placeFrame f l.queue }
  else match lowestPriority l.queue with
    | some p =>
      if r.priority < p then { l with queue := placeFrame f (displaceFrame p l.queue), drops := countUp l.drops }
      else { l with drops := countUp l.drops }
    | none => { l with drops := countUp l.drops }

/-- A report is offered to the transmit queue; in STRAP_FAULT, LISTEN and CLASH it is discarded without a count (R137). -/
def State.offer (s : State) (r : Report) : State :=
  if s.station.mayDrive then s.setLine (s.line.offer r) else s

/-- A CUT report of channel i is raised (R151): late ms is 0 but for a CUT_IN. -/
def State.raiseCut (s : State) (i : Slot) (kind : CutKind) (reason : CutReason) (cueId : Ident) (cutStamp : Time)
    (lateMs : Byte := 0) : State :=
  s.offer (.cut (s.tagOf i) kind cueId reason cutStamp lateMs)

/-- A CUT report about a break record is raised, with the break's cut stamp (R151). -/
def State.raiseBreak (s : State) (i : Slot) (kind : CutKind) (reason : CutReason) (b : BreakRecord) : State :=
  s.raiseCut i kind reason b.cueId b.cutStamp

/-! ## Cue entries -/

/-- The entries of the whole cue list (R67). -/
def State.cueTotal (s : State) : Nat := (Config.slots.map fun i => (s.chan i).cues.length).sum

/-- An entry waits for this port in PORT_WAIT. -/
def CueEntry.waitsFor (e : CueEntry) (p : PortId) : Bool := e.state == .portWait && e.port == p

/-- The channel has an entry in PORT_WAIT. -/
def Channel.hasPortWait (c : Channel) : Bool := c.cues.any fun e => e.state == .portWait

/-- The entry of the channel with this cue id. -/
def Channel.entry (c : Channel) (cueId : Ident) : Option CueEntry := c.cues.find? fun e => e.cueId == cueId

/-- The channel's entry with this cue id is changed by f. -/
def Channel.modEntry (c : Channel) (cueId : Ident) (f : CueEntry → CueEntry) : Channel :=
  { c with cues := c.cues.map fun e => if e.cueId = cueId then f e else e }

/-- The entry with this cue id leaves the channel's part of the list. -/
def Channel.dropEntry (c : Channel) (cueId : Ident) : Channel :=
  { c with cues := c.cues.filter fun e => e.cueId != cueId }

/-- An entry becomes the channel's CUT_WAIT entry, and the channel enters CUT_WAIT (R73, R74). -/
def Channel.enterCutWait (c : Channel) (cueId : Ident) : Channel :=
  { c.modEntry cueId (fun e => { e with state := .cutWait }) with pendingEntry := some cueId, state := .cutWait }

/-! ## Releasing a port, and the port arbiter (R10) -/

/-- The entry of channel i that may be granted port p by the arbiter: in PORT_WAIT for it, its channel in NETWORK. -/
def Channel.candidate (c : Channel) (p : PortId) : Option CueEntry :=
  if c.state = .network then c.cues.find? fun e => e.waitsFor p else none

/-- The arbiter's winner for port p: the waiting entry of the lowest slot (R10). -/
def State.arbiterWinner (s : State) (p : PortId) : Option (Slot × CueEntry) :=
  Config.slots.findSome? fun i => ((s.chan i).candidate p).map fun e => (i, e)

/-- The port arbiter runs for a port just freed (R10). -/
def State.arbitrate (s : State) (p : PortId) : State :=
  match s.arbiterWinner p with
  | some (i, e) => (s.modPort p fun q => q.grant i).modChan i fun c => c.enterCutWait e.cueId
  | none => s

/-- The release request of channel i to port p (R10). -/
def State.releasePort (s : State) (i : Slot) (p : PortId) : State :=
  if (s.port p).releases i then (s.modPort p InsertPort.freed).arbitrate p else s

/-! ## An entry leaves the list without a cut (R76) -/

/-- Step 1 of R76: the channel of a CUT_WAIT entry gives up its pending entry and returns to NETWORK. -/
def Channel.leaveCutWait (c : Channel) : Channel :=
  { c with pendingEntry := none, state := if c.state = .cutWait then .network else c.state }

/-- The entry e of channel i leaves the list without a cut, and a CUT report of this kind and reason is raised (R76). -/
def State.leaveEntry (s : State) (i : Slot) (e : CueEntry) (kind : CutKind) (reason : CutReason) : State :=
  let s1 := if e.state = .cutWait then (s.modChan i Channel.leaveCutWait).releasePort i e.port else s
  (s1.modChan i fun c => c.dropEntry e.cueId).raiseCut i kind reason e.cueId 0

/-- The entry is withdrawn for this reason (R76). -/
def State.withdrawEntry (s : State) (i : Slot) (reason : CutReason) (e : CueEntry) : State :=
  s.leaveEntry i e .withdrawn reason

/-- The entry is MISSED for this reason, and the channel's miss count goes up (R75, R45). -/
def State.missEntry (s : State) (i : Slot) (reason : CutReason) (e : CueEntry) : State :=
  (s.leaveEntry i e .missed reason).modChan i fun c => { c with missCount := countUp c.missCount }

/-- The entry of channel i with this cue id is withdrawn for this reason, if it is there (R25, R28, R117). -/
def State.withdrawById (s : State) (i : Slot) (reason : CutReason) (cueId : Ident) : State :=
  match (s.chan i).entry cueId with
  | some e => s.withdrawEntry i reason e
  | none => s

/-- The cue ids of the channel's entries that `which` names, in cue list order. -/
def Channel.cueIds (c : Channel) (which : CueEntry → Bool) : List Ident := (c.cues.filter which).map (·.cueId)

/-- The entries of channel i that `which` names are withdrawn for this reason, in cue list order (R25, R28, R117). -/
def State.withdrawEntries (s : State) (i : Slot) (which : CueEntry → Bool) (reason : CutReason) : State :=
  ((s.chan i).cueIds which).foldl (fun s cueId => s.withdrawById i reason cueId) s

/-- An entry that has a state other than WAIT_PEER (R25, R28). -/
def CueEntry.isTimed (e : CueEntry) : Bool :=
  match e.state with
  | .waitPeer _ _ => false
  | .pending _ | .portWait | .cutWait => true

/-! ## Draining a port -/

/-- The drain request of channel i to port p, with the flushed cells counted in the drained count only (R9). -/
def State.drainPort (s : State) (i : Slot) (p : PortId) : State := s.modPort p fun q => q.drain i

/-- The drain request of channel i to port p, with the flushed cells added to the truncated count too (R9, R45). -/
def State.drainTruncating (s : State) (i : Slot) (p : PortId) : State :=
  (s.drainPort i p).modChan i fun c => { c with truncatedCount := countAdd c.truncatedCount ((s.port p).drainFlush i) }

/-! ## Sending a cell (R15, R43) -/

/-- The cell as the output port sends it for channel i (R15). -/
def State.rewrite (s : State) (i : Slot) (c : StreamCell) : StreamCell :=
  { c with mark := cellMark, tag := s.tagOf i, seq := (s.chan i).outSeq, disc := c.disc || (s.chan i).discDue }

/-- The channel's sequence count advances and its DISC due is spent (R43). -/
def Channel.afterSend (c : Channel) : Channel := { c with outSeq := c.outSeq + 1, discDue := false }

/-- Channel i sends this cell (R15, R16, R43). -/
def State.send (s : State) (i : Slot) (c : StreamCell) : State :=
  { s.modChan i Channel.afterSend with sout := s.sout ++ [s.rewrite i c] }

/-- Channel i sends a fill cell, which the fill count counts (R2, R45). -/
def State.sendFill (s : State) (i : Slot) : State :=
  (s.modChan i fun c => { c with fillCount := countUp c.fillCount }).send i (fillCell (s.tagOf i))

/-- The channel makes a cut: the activity latch and DISC due are set (R43, R44). -/
def Channel.markCut (c : Channel) : Channel := { c with activity := true, discDue := true }

end Sys2Proof.Machine
end

