-- ==== Sys2Proof/Machine/Clocks.lean ====
section
/-!
DEFINITION. The channel clocks (chapter 2): silence and loss of the clock, stamp arrival and jumps, and the stale held break
of R63, which is judged after the clock at each slot event.
-/
namespace Sys2Proof.Machine

/-! ## Ending a break record -/

/-- The channel's break record leaves it, from the active place or from the hold stack (R29, R39). -/
def Channel.dropBreak (c : Channel) : Channel :=
  match c.activeBreak with
  | some _ => { c with active := none }
  | none => c.dropHeldBreak

/-- The channel enters RETURN_WAIT with this condition and report (R33, R35). -/
def Channel.enterReturnWait (c : Channel) (cond : ReturnCondition) (report : Option ReturnReport) : Channel :=
  { c with state := .returnWait, returnCondition := some cond, returnReport := report }

/-- The channel enters NETWORK from RETURN_WAIT or a break; the return condition and report become absent (R35, R83). -/
def Channel.enterNetwork (c : Channel) : Channel :=
  { c with state := .network, returnCondition := none, returnReport := none }

/-- The break record b of channel i ends with CUT_OUT for this reason: the report is raised, the record leaves the channel,
and its port is released (R29). -/
def State.endBreak (s : State) (i : Slot) (reason : CutReason) (b : BreakRecord) : State :=
  ((s.raiseBreak i .cutOut reason b).modChan i Channel.dropBreak).releasePort i b.port

/-- The held break b of channel i leaves the hold stack, and its port is released (R39, R86). -/
def State.removeHeldBreak (s : State) (i : Slot) (b : BreakRecord) : State :=
  (s.modChan i Channel.dropHeldBreak).releasePort i b.port

/-! ## Loss of the clock (R27 to R30) -/

/-- The clock is silent at t (R27). -/
def Clock.silent (k : Clock) (t : Time) : Bool := k.state != .noClock && limitPassed t k.lastTime silenceLimit

/-- What the channel does after a loss of the clock has ended its break, by its state (the table of R29). -/
def Channel.afterLoss (c : Channel) : Channel :=
  match c.state with
  | .onBreak | .rejoinWait | .returnWait => c.enterReturnWait .any none
  | .network | .cutWait | .alertWait | .alert => c

/-- The break record of channel i, if it has one, ends with CUT_OUT CLOCK_LOST, and the channel goes on by its state (R29). The
CUT_OUT is raised for a record in RETURN_WAIT whose return report is none as well, which the manual leaves open (log entry
32). -/
def State.loseBreak (s : State) (i : Slot) : State :=
  let s1 := match (s.chan i).breakRecord with
    | some b => s.endBreak i .clockLost b
    | none => s
  s1.modChan i Channel.afterLoss

/-- Channel i loses its clock (R27, R28, R29). -/
def State.loseClock (s : State) (i : Slot) : State :=
  let s1 := s.modChan i fun c => { c with clock := { c.clock with state := .noClock } }
  (s1.withdrawEntries i CueEntry.isTimed .clockLost).loseBreak i

/-- Silence is judged at t: step 1 of R20, and the expiry of the silence limit (R27). -/
def State.judgeSilence (s : State) (i : Slot) (t : Time) : State :=
  if (s.chan i).clock.silent t then s.loseClock i else s

/-! ## Stamp arrival (R22 to R26, R53) -/

/-- A stamp x agrees with the clock's prediction at t (R23). -/
def Clock.agrees (k : Clock) (x t : Time) (disc : Bool) : Bool :=
  (signed x (k.predict t)).natAbs ≤ jumpLimit.toNat && !disc

/-- A return point moved by J (R26, R53); the sum is modulo 2^36. -/
def Record.shift (j : Time) : Record → Record
  | .brk b => .brk { b with returnPoint := b.returnPoint + j }
  | .alert a => .alert a

/-- A return condition's own point moved by J (R26). -/
def ReturnCondition.shift (j : Time) : ReturnCondition → ReturnCondition
  | .any => .any
  | .afterBreak => .afterBreak
  | .afterPoint p => .afterPoint (p + j)

/-- Every return point the channel holds is moved by J (R26, R53). -/
def Channel.shiftReturnPoints (c : Channel) (j : Time) : Channel :=
  { c with
    active := c.active.map (Record.shift j)
    hold := c.hold.map (Record.shift j)
    returnCondition := c.returnCondition.map (ReturnCondition.shift j) }

/-- The clock takes the stamp x at t and goes to this state (R22 to R24). -/
def Channel.takeStamp (c : Channel) (state : ClockState) (x t : Time) : Channel :=
  { c with clock := { state := state, lastStamp := x, lastTime := t } }

/-- The effects of a jump on channel i: its timed entries are withdrawn, and its return points move by J (R25, R26). -/
def State.jump (s : State) (i : Slot) (x t : Time) : State :=
  (s.withdrawEntries i CueEntry.isTimed .clockJump).modChan i fun c =>
    c.shiftReturnPoints (diff x (c.clock.predict t))

/-- A stamp arrival: the network cell of the slot event carries the stamp x (R22, R23, R24). -/
def State.stampArrival (s : State) (i : Slot) (x t : Time) (disc : Bool) : State :=
  let k := (s.chan i).clock
  match k.state with
  | .noClock => s.modChan i fun c => c.takeStamp .acquiring x t
  | .acquiring => s.modChan i fun c => c.takeStamp (if k.agrees x t disc then .locked else .acquiring) x t
  | .locked =>
    if k.agrees x t disc then s.modChan i fun c => c.takeStamp .locked x t
    else (s.jump i x t).modChan i fun c => c.takeStamp .acquiring x t

/-! ## The stale held break (R63) -/

/-- A held break with this return point is stale at channel time c (R63). -/
def staleAt (returnPoint c : Time) : Bool := signed returnPoint c < -staleLimit

/-- A stale held break of channel i ends with CUT_OUT EXPIRED_IN_HOLD (R63). -/
def State.judgeStale (s : State) (i : Slot) (t : Time) : State :=
  let c := s.chan i
  match c.heldBreak with
  | some b =>
    if c.clock.state ≠ .noClock ∧ staleAt b.returnPoint (c.clock.predict t) = true then
      (s.raiseBreak i .cutOut .expiredInHold b).removeHeldBreak i b
    else s
  | none => s

/-- Step 1 of a slot event: silence, the stamp of the cell, then the stale held break (R20, R42, R63). -/
def State.clockStep (s : State) (i : Slot) (t : Time) (cell : StreamCell) : State :=
  let s1 := s.judgeSilence i t
  let s2 := if cell.stamp then s1.stampArrival i cell.time t cell.disc else s1
  s2.judgeStale i t

end Sys2Proof.Machine
end

