-- ==== Sys2Proof/Machine/Breaks.lean ====
section
/-!
DEFINITION. The life of a break at the slot events of its channel (chapter 5): maturity, misses and reserve requests (R73 to
R75), cut-in (R77, R78), the break on air (R79 to R82), the return (R83), rejoin evaluation and rejoin (R87, R88) and the
rejoin limit (R89).
-/
namespace Sys2Proof.Machine

/-! ## Entries judged at a slot event (R73 to R75) -/

/-- The entry is PENDING with its mature mark as given. -/
def CueEntry.isPending (mature : Bool) (e : CueEntry) : Bool := e.state == .pending mature

/-- The entry is mature and has not cut (R73, R75). -/
def CueEntry.isMature (e : CueEntry) : Bool :=
  match e.state with
  | .pending mature => mature
  | .portWait | .cutWait => true
  | .waitPeer _ _ => false

/-- The entry with splice time S is mature at channel time c (R58). -/
def CueEntry.matures (e : CueEntry) (preroll : Int) (c : Time) : Bool := e.splice.any fun sp => signed sp c ≤ preroll

/-- The entry with splice time S is late at channel time c (R58, R75). -/
def CueEntry.late (e : CueEntry) (lateLimit : Int) (c : Time) : Bool := e.splice.any fun sp => lateLimit < signed c sp

/-- The first PENDING entry whose mature mark is clear is tested for maturity at channel time c (R73). -/
def State.matureFirst (s : State) (i : Slot) (c : Time) : State :=
  match (s.chan i).cues.find? (CueEntry.isPending false) with
  | some e =>
    if e.matures s.preroll c then
      s.modChan i fun ch => ch.modEntry e.cueId fun e => { e with state := .pending true }
    else s
  | none => s

/-- The reason of a miss, by where the entry stands (the table of R75). -/
def State.missReason (s : State) (i : Slot) (e : CueEntry) : CutReason :=
  match e.state with
  | .portWait => .portBusy
  | .pending _ | .waitPeer _ _ =>
    if (s.chan i).state ≠ .network then .preempted
    else if (s.chan i).hasPortWait then .portBusy else .noCutPoint
  | .cutWait => if (s.port e.port).readyFor i then .noCutPoint else .insertNotReady

/-- The entry of channel i with this cue id is judged for a miss at channel time c (R73, R75). -/
def State.judgeMiss (s : State) (i : Slot) (c : Time) (cueId : Ident) : State :=
  match (s.chan i).entry cueId with
  | some e => if e.isMature && e.late s.lateLimit c then s.missEntry i (s.missReason i e) e else s
  | none => s

/-- Every mature entry of channel i is judged for a miss, in cue list order (R73). -/
def State.judgeMisses (s : State) (i : Slot) (c : Time) : State :=
  ((s.chan i).cueIds fun _ => true).foldl (fun s cueId => s.judgeMiss i c cueId) s

/-- The entry sends its insert port a reserve request: granted, it becomes CUT_WAIT with its channel; refused, it becomes
PORT_WAIT (R8, R73). -/
def State.reserve (s : State) (i : Slot) (e : CueEntry) : State :=
  if (s.port e.port).mode = .free then
    (s.modPort e.port fun q => q.grant i).modChan i fun c => c.enterCutWait e.cueId
  else s.modChan i fun c => c.modEntry e.cueId fun e => { e with state := .portWait }

/-- The first mature PENDING entry of channel i proceeds when the channel is in NETWORK with no entry in PORT_WAIT (R73). -/
def State.proceed (s : State) (i : Slot) : State :=
  if (s.chan i).state = .network ∧ (s.chan i).hasPortWait = false then
    match (s.chan i).cues.find? (CueEntry.isPending true) with
    | some e => s.reserve i e
    | none => s
  else s

/-- Step 3 of a slot event: the cue list judges the channel's entries against c (R42, R73). In NO_CLOCK there is no c and no
entry to judge (R52). -/
def State.cueStep (s : State) (i : Slot) (t : Time) : State :=
  if (s.chan i).clock.state = .noClock then s
  else
    let c := (s.chan i).clock.predict t
    ((s.matureFirst i c).judgeMisses i c).proceed i

/-! ## Cut-in (R77, R78) -/

/-- The late ms field of a CUT_IN (R59). -/
def lateMsOf (lateness : Int) : Byte := BitVec.ofNat 8 (min (lateness.toNat / 1000) 255)

/-- The break record an entry becomes at a cut with network stamp u and insert head stamp i0 (R60, R78). -/
def CueEntry.toBreak (e : CueEntry) (u i0 : Time) : BreakRecord where
  cueId       := e.cueId
  port        := e.port
  offset      := diff u i0
  returnPoint := addMicros u (breakLength e.duration)
  duration    := e.duration
  earlyReturn := e.earlyReturn
  cutStamp    := u

/-- The cut-in of entry e, with splice time S, at network stamp u with this insert head (R78). -/
def State.cutIn (s : State) (i : Slot) (e : CueEntry) (sp u : Time) (head : StreamCell) : State :=
  let b := e.toBreak u head.time
  let s1 := s.modPort e.port fun q => q.goLive i
  let s2 := s1.modChan i fun c =>
    { (c.dropEntry e.cueId).markCut with pendingEntry := none, active := some (.brk b), state := .onBreak }
  (s2.send i (rebase head b.offset)).raiseCut i .cutIn .scheduled e.cueId u (lateMsOf (signed u sp))

/-- The entry that the channel's pending entry names. -/
def Channel.cutWaitEntry (c : Channel) : Option CueEntry := c.pendingEntry.bind c.entry

/-- Step 4 of a slot event in CUT_WAIT (R77). -/
def State.outputCutWait (s : State) (i : Slot) (cell : StreamCell) : State :=
  match (s.chan i).cutWaitEntry with
  | none => s.send i cell
  | some e =>
    match e.splice with
    | none => s.send i cell
    | some sp =>
      if isUnitStart cell = false ∨ atOrAfter cell.time sp = false then s.send i cell
      else if s.lateLimit < signed cell.time sp then (s.missEntry i (s.missReason i e) e).send i cell
      else match (s.port e.port).headFor i with
        | none => s.send i cell
        | some head => if isUnitStart head then s.cutIn i e sp cell.time head else s.send i cell

/-! ## The break on air (R79 to R82) -/

/-- The network cell is a cut point at or after the return point (R62). -/
def returnsAt (cell : StreamCell) (returnPoint : Time) : Bool := isUnitStart cell && atOrAfter cell.time returnPoint

/-- The return cut of a break on air or waiting to rejoin (R79, R88): the network cell is output, the port is released, the
record leaves, and CUT_OUT SCHEDULED is raised. -/
def State.returnCut (s : State) (i : Slot) (b : BreakRecord) (cell : StreamCell) : State :=
  let s1 := (s.modChan i Channel.markCut).send i cell
  let s2 := s1.releasePort i b.port
  (s2.modChan i fun c => { c.enterNetwork with active := none }).raiseBreak i .cutOut .scheduled b

/-- Truncation: fill is output, the port is drained into the truncated count, and the channel waits for its scheduled
return (R82). -/
def State.truncate (s : State) (i : Slot) (b : BreakRecord) : State :=
  ((s.sendFill i).drainTruncating i b.port).modChan i fun c => c.enterReturnWait .afterBreak (some .scheduled)

/-- An end mark at the head of a break on air (R81). -/
def State.endMark (s : State) (i : Slot) (b : BreakRecord) : State :=
  let s1 := ((s.modPort b.port InsertPort.take).sendFill i).drainTruncating i b.port
  s1.modChan i fun c => c.enterReturnWait (if b.earlyReturn then .any else .afterBreak) (some .earlyEnd)

/-- Step 4 of a slot event in BREAK (R79, R80). -/
def State.outputBreak (s : State) (i : Slot) (cell : StreamCell) : State :=
  match (s.chan i).activeBreak with
  | none => s.sendFill i
  | some b =>
    if returnsAt cell b.returnPoint then s.returnCut i b cell
    else match (s.port b.port).headFor i with
      | none => (s.modChan i fun c => { c with underrunCount := countUp c.underrunCount }).sendFill i
      | some head =>
        if isEndMark head then s.endMark i b
        else if isUnitStart head && atOrAfter (head.time + b.offset) b.returnPoint then s.truncate i b
        else (s.modPort b.port InsertPort.take).send i (rebase head b.offset)

/-! ## The return from RETURN_WAIT (R83) -/

/-- The return condition is met by the network cell (R62, R83). -/
def Channel.returnMet (c : Channel) (cell : StreamCell) : Bool :=
  match c.returnCondition with
  | some .any => isUnitStart cell
  | some .afterBreak => c.activeBreak.any fun b => returnsAt cell b.returnPoint
  | some (.afterPoint p) => returnsAt cell p
  | none => false

/-- The reason of the CUT_OUT a return report stands for (R83). -/
def ReturnReport.reason : ReturnReport → CutReason
  | .scheduled => .scheduled
  | .earlyEnd => .earlyEnd
  | .cancelled => .cancelled

/-- The CUT_OUT due at the return cut is raised, if one is due (R83). -/
def State.raiseDue (s : State) (i : Slot) (b : BreakRecord) (due : Option ReturnReport) : State :=
  match due with
  | some r => s.raiseBreak i .cutOut r.reason b
  | none => s

/-- The return cut from RETURN_WAIT (R83). -/
def State.returnFromWait (s : State) (i : Slot) (cell : StreamCell) : State :=
  let due := (s.chan i).returnReport
  let s1 := (s.modChan i Channel.markCut).send i cell
  let s2 := match (s.chan i).activeBreak with
    | some b => (((s1.releasePort i b.port).modChan i fun c => { c with active := none }).raiseDue i b due)
    | none => s1
  s2.modChan i Channel.enterNetwork

/-- Step 4 of a slot event in RETURN_WAIT (R83). -/
def State.outputReturnWait (s : State) (i : Slot) (cell : StreamCell) : State :=
  if (s.chan i).returnMet cell then s.returnFromWait i cell else s.sendFill i

/-! ## Rejoin (R87 to R89) -/

/-- The rejoin cut at this insert head (R88). -/
def State.rejoinCut (s : State) (i : Slot) (b : BreakRecord) (head : StreamCell) : State :=
  let s1 := s.modPort b.port InsertPort.takeAtCut
  let s2 := s1.modChan i fun c => { c.markCut with state := .onBreak }
  (s2.send i (rebase head b.offset)).raiseBreak i .rejoined .scheduled b

/-- Step 4 of a slot event in REJOIN_WAIT (R88). -/
def State.outputRejoinWait (s : State) (i : Slot) (cell : StreamCell) : State :=
  match (s.chan i).activeBreak with
  | none => s.sendFill i
  | some b =>
    if returnsAt cell b.returnPoint then s.returnCut i b cell
    else match (s.port b.port).headFor i with
      | none => s.sendFill i
      | some head =>
        if isUnitStart head then
          if atOrAfter (head.time + b.offset) b.returnPoint then s.truncate i b else s.rejoinCut i b head
        else s.sendFill i

/-- The break of channel i ends for want of insert content at its rejoin limit (R89). -/
def State.rejoinLimitEnd (s : State) (i : Slot) (b : BreakRecord) : State :=
  ((s.raiseBreak i .cutOut .rejoinNoInsert b).drainPort i b.port).modChan i fun c => c.enterReturnWait .any none

/-- The rejoin limit of channel i is judged at t (R89). -/
def State.judgeRejoinLimit (s : State) (i : Slot) (t : Time) : State :=
  let c := s.chan i
  match c.activeBreak with
  | some b =>
    if c.state = .rejoinWait ∧ limitPassed t c.rejoinWaitTime rejoinLimit = true then s.rejoinLimitEnd i b else s
  | none => s

/-- The rejoin evaluation of a break popped by a release (R63, R87). -/
def State.evaluateRejoin (s : State) (i : Slot) (b : BreakRecord) : State :=
  let rem := signed b.returnPoint ((s.chan i).clock.predict s.timer)
  if s.rejoinMinimum < rem then
    (s.modPort b.port fun q => q.goLive i).modChan i fun c =>
      { c with active := some (.brk b), state := .rejoinWait, rejoinWaitTime := s.timer }
  else
    ((s.raiseBreak i .cutOut (if rem ≤ 0 then .expiredInHold else .rejoinTooShort) b).releasePort i b.port).modChan i fun c =>
      { c.enterReturnWait (.afterPoint b.returnPoint) none with active := none }

end Sys2Proof.Machine
end

