-- ==== Sys2Proof/Machine/Alerts.lean ====
section
/-!
DEFINITION. Alerts on the channels and in the alert table (chapter 6): keys and the hold stack (R36 to R38), pre-emption (R100,
R101), release (R40, R41), the end of a record (R106), the alert cut and the alert on air (R102 to R104), and the starvation
limit (R102).
-/
namespace Sys2Proof.Machine

/-! ## The alert table -/

/-- The record of the table with this alert id. -/
def State.alertRecord (s : State) (alertId : Ident) : Option AlertRecord := s.alerts.find? fun r => r.alertId == alertId

/-- The record with this alert id is changed by f. -/
def State.modAlert (s : State) (alertId : Ident) (f : AlertRecord → AlertRecord) : State :=
  { s with alerts := s.alerts.map fun r => if r.alertId = alertId then f r else r }

/-- Channel i joins the channel set of this alert (R105). -/
def State.joinSet (s : State) (i : Slot) (alertId : Ident) : State :=
  s.modAlert alertId fun r => { r with channelSet := r.channelSet ||| slotMask i }

/-- Channel i leaves the channel set of this alert (R105). -/
def State.leaveSet (s : State) (i : Slot) (alertId : Ident) : State :=
  s.modAlert alertId fun r => { r with channelSet := r.channelSet &&& ~~~ slotMask i }

/-- An ALERT_REPORT is raised (R110, R152). -/
def State.raiseAlert (s : State) (destination : Byte) (alertId : Ident) (kind : AlertKind) (mask : ChanMask)
    (reason : AlertReason) (level : Nat) : State :=
  s.offer (.alert destination alertId kind mask reason level)

/-! ## Keys (R36) -/

/-- The age of an alert: its place in the order of creation (R93); a smaller number is older. -/
def State.ageOf (s : State) (alertId : Ident) : Nat := s.alerts.findIdx fun r => r.alertId == alertId

/-- The level of a record's key (R36). -/
def Record.level : Record → Nat
  | .brk _ => 0
  | .alert a => a.level

/-- The age of a record's key; a break is compared with alerts only, which differ from it in level (R36). -/
def State.recordAge (s : State) : Record → Nat
  | .brk _ => 0
  | .alert a => s.ageOf a.alertId

/-- The key of record a is greater than the key of record b (R36). -/
def State.keyGreater (s : State) (a b : Record) : Bool :=
  b.level < a.level || (a.level == b.level && s.recordAge a < s.recordAge b)

/-- The key of an alert reference is greater than the active key of the channel (R36). -/
def State.outranks (s : State) (i : Slot) (a : AlertRef) : Bool :=
  match (s.chan i).active with
  | none => true
  | some r => s.keyGreater (.alert a) r

/-! ## The hold stack (R37, R38) -/

/-- A record is inserted at the position its key calls for, the bottom first (R37). -/
def State.insertRecord (s : State) (r : Record) : List Record → List Record
  | [] => [r]
  | x :: rest => if s.keyGreater r x then x :: s.insertRecord r rest else r :: x :: rest

/-- The bottom record of channel i has been shed (R38). -/
def State.shed (s : State) (i : Slot) : Record → State
  | .brk b => (s.raiseBreak i .shed .holdFull b).releasePort i b.port
  | .alert a => s.leaveSet i a.alertId

/-- The hold stack of channel i takes this content. -/
def State.setHold (s : State) (i : Slot) (h : List Record) : State := s.modChan i fun c => { c with hold := h }

/-- A record is placed on the hold stack of channel i under R37: whether it is placed, and the state after. -/
def State.place (s : State) (i : Slot) (r : Record) : Bool × State :=
  if (s.chan i).hold.length < holdLimit then (true, s.setHold i (s.insertRecord r (s.chan i).hold))
  else match (s.chan i).hold with
    | bottom :: rest =>
      if s.keyGreater r bottom then (true, (s.setHold i (s.insertRecord r rest)).shed i bottom) else (false, s)
    | [] => (false, s)

/-! ## Entering ALERT_WAIT, release (R40, R41, R101) -/

/-- The channel enters ALERT_WAIT for an alert at station time t with a new reader (R41, R101). -/
def Channel.enterAlertWait (c : Channel) (a : AlertRef) (reader : Reader) (t : Time) : Channel :=
  { c with
    active          := some (.alert { a with offset := none })
    state           := .alertWait
    returnCondition := none
    returnReport    := none
    alertWaitTime   := t
    starved         := false
    reader          := some reader }

/-- Channel i enters ALERT_WAIT for this alert now (R101). -/
def State.awaitAlert (s : State) (i : Slot) (a : AlertRef) : State :=
  s.modChan i fun c => c.enterAlertWait a s.ring.newReader s.timer

/-- The active alert reference of the channel leaves it with its reader and starved flag, and the top of the stack is
popped (R40). -/
def Channel.dropActiveAlert (c : Channel) : Channel :=
  { c with active := none, reader := none, starved := false, hold := c.hold.dropLast }

/-- Channel i releases: its active alert record has ended (R40, R41). -/
def State.releaseChannel (s : State) (i : Slot) : State :=
  let popped := (s.chan i).hold.getLast?
  let s1 := s.modChan i Channel.dropActiveAlert
  match popped with
  | none => s1.modChan i fun c => c.enterReturnWait .any none
  | some (.alert a) => s1.awaitAlert i a
  | some (.brk b) => s1.evaluateRejoin i b

/-! ## Pre-emption (R100) -/

/-- The action of R100 in RETURN_WAIT with a break record: the break ends. -/
def State.preemptReturnWait (s : State) (i : Slot) (b : BreakRecord) : State :=
  let s1 := match (s.chan i).returnReport with
    | some _ => s.raiseBreak i .cutOut .preempted b
    | none => s
  (s1.releasePort i b.port).modChan i fun c => { c with active := none }

/-- The action of R100 in BREAK and REJOIN_WAIT: the break is held beneath the alert. -/
def State.holdBreak (s : State) (i : Slot) (b : BreakRecord) : State :=
  let s1 := (s.modChan i fun c => { c with active := none })
  let s2 := (s1.place i (.brk b)).2
  (s2.drainPort i b.port).raiseBreak i .held .preempted b

/-- What a pre-emption does with the work of channel i, by the state of the channel (the table of R100). -/
def State.setAside (s : State) (i : Slot) : State :=
  let c := s.chan i
  match c.state with
  | .network => s
  | .cutWait =>
    match c.cutWaitEntry with
    | some e => s.missEntry i .preempted e
    | none => s
  | .onBreak | .rejoinWait =>
    match c.activeBreak with
    | some b => s.holdBreak i b
    | none => s
  | .returnWait =>
    match c.activeBreak with
    | some b => s.preemptReturnWait i b
    | none => s
  | .alertWait | .alert =>
    match c.active with
    | some (.alert a) =>
      ((s.modChan i fun c => { c with active := none, reader := none }).place i (.alert { a with offset := none })).2
    | some (.brk _) | none => s

/-- An alert of greater key pre-empts channel i (R100, R101). -/
def State.preempt (s : State) (i : Slot) (a : AlertRef) : State := (s.setAside i).awaitAlert i a

/-- The alert is offered to channel i of the window's set; the channel joins the record's set when it pre-empts or places the
reference (R98). -/
def State.offerAlert (s : State) (a : AlertRef) (i : Slot) : State :=
  if s.outranks i a then (s.preempt i a).joinSet i a.alertId
  else
    let placed := s.place i (.alert a)
    if placed.1 then placed.2.joinSet i a.alertId else placed.2

/-! ## The end of an alert record (R106) -/

/-- The record on a channel is a reference to this alert. -/
def Record.refersTo (alertId : Ident) : Record → Bool
  | .alert a => a.alertId == alertId
  | .brk _ => false

/-- The held reference to this alert leaves the hold stack, and the records above it move down (R39). -/
def Channel.dropHeldAlert (c : Channel) (alertId : Ident) : Channel :=
  { c with hold := c.hold.filter fun r => !r.refersTo alertId }

/-- Channel i gives up an alert (R106): it releases where the alert is active, and removes it where it is held. -/
def State.giveUp (s : State) (alertId : Ident) (i : Slot) : State :=
  if (s.chan i).active.any (Record.refersTo alertId) then s.releaseChannel i
  else s.modChan i fun c => c.dropHeldAlert alertId

/-- The record leaves the table (R106). -/
def State.dropAlert (s : State) (alertId : Ident) : State :=
  { s with alerts := s.alerts.filter fun r => r.alertId != alertId }

/-- The record r ends for this reason: every channel of its set gives it up in slot order, it leaves the table, and CLEARED is
raised (R106). -/
def State.endAlert (s : State) (r : AlertRecord) (reason : AlertReason) : State :=
  let s1 := (Config.slots.filter fun i => inMask r.channelSet i).foldl (fun s i => s.giveUp r.alertId i) s
  (s1.dropAlert r.alertId).raiseAlert r.source r.alertId .cleared r.channelSet reason r.level

/-! ## Slot events in ALERT_WAIT and ALERT (R102 to R104, R64) -/

/-- The offset of an alert cut at station time t for a cell stamped a0 (R64). -/
def Clock.alertOffset (k : Clock) (t a0 : Time) : Time :=
  if k.state = .noClock then 0 else diff (k.predict t) a0

/-- The alert cut of channel i at the cell its reader stands at (R103). -/
def State.alertCut (s : State) (i : Slot) (a : AlertRef) (reader : Reader) (cell : StreamCell) : State :=
  let d := (s.chan i).clock.alertOffset s.timer cell.time
  let s1 := s.modChan i fun c =>
    { c.markCut with active := some (.alert { a with offset := some d }), reader := some reader.advance, state := .alert, starved := false }
  s1.send i (rebase cell d)

/-- A slot event in ALERT_WAIT that makes no cut: fill, or the network cell once the channel is starved (R102). -/
def State.outputWaiting (s : State) (i : Slot) (cell : StreamCell) : State :=
  if (s.chan i).starved then s.send i cell else s.sendFill i

/-- Step 4 of a slot event in ALERT_WAIT (R102, R103). -/
def State.outputAlertWait (s : State) (i : Slot) (cell : StreamCell) : State :=
  let c := s.chan i
  match c.active, c.reader with
  | some (.alert a), some reader =>
    match s.ring.cellAt reader with
    | some alertCell => s.alertCut i a reader alertCell
    | none => s.outputWaiting i cell
  | _, _ => s.outputWaiting i cell

/-- Step 4 of a slot event in ALERT (R104). -/
def State.outputAlert (s : State) (i : Slot) : State :=
  let c := s.chan i
  match c.active, c.reader with
  | some (.alert a), some reader =>
    match s.ring.cellAt reader with
    | some alertCell =>
      (s.modChan i fun c => { c with reader := some reader.advance }).send i (rebase alertCell (a.offset.getD 0))
    | none => s.sendFill i
  | _, _ => s.sendFill i

/-- The starvation limit of channel i is judged at t (R102). -/
def State.judgeStarvation (s : State) (i : Slot) (t : Time) : State :=
  if (s.chan i).state = .alertWait ∧ limitPassed t (s.chan i).alertWaitTime starvationLimit = true then
    s.modChan i fun c => { c with starved := true }
  else s

end Sys2Proof.Machine
end

