-- ==== Sys2Proof/Machine/Reception.lean ====
section
/-!
DEFINITION. What every command shares: the gate of a part that is held in reset (R168); the recessive period of the line, which
the receiver and the station controller keep (R124, R163, log entry 6); and, for the frames of the cue line, the receiver from
the start mark to the opening of the response window (R125, R129, R140, log entry 5).
-/
namespace Sys2Proof.Machine

/-- What a command answers. -/
abbrev Result := Host.Outcome State Fault Refusal

/-- A command taken at station time t: in a part that is held it does nothing (R17, R168), else the station timer reads t and f
acts (log entries 2 and 4). -/
def State.take (s : State) (t : Time) (f : State → State) : Result := .next (if s.isHeld then s else f (s.atTime t))

/-! ## The recessive period (R124, R163) -/

/-- A dominant run that ends the recessive period ended at this time; in LISTEN the quiet start moves there (R163). -/
def State.interruptQuiet (s : State) (runEnd : Time) : State :=
  if s.station = .listen then { s with quietStart := runEnd } else s

/-- The line has been recessive since this time (R124). -/
def LineInterface.rest (l : LineInterface) (since : Time) : LineInterface := { l with recessiveSince := since, dominant := false }

/-- The line is dominant at t, and the run goes on (R124). -/
def LineInterface.edge (l : LineInterface) (t : Time) : LineInterface := { l with recessiveSince := t, dominant := true }

/-- The line is dominant at t, and the run goes on. -/
def State.noteEdge (s : State) (t : Time) : State := s.setLine (s.line.edge t)

/-- The last dominant run on the line ended at runEnd, and the recessive period counts from `since`: the end of the run or, for
the last slot of a byte, the end of the byte (R125, R127, log entry 6). In LISTEN the quiet start is the end of the run (R163). -/
def State.noteRest (s : State) (since runEnd : Time) : State := (s.interruptQuiet runEnd).setLine (s.line.rest since)

/-- The end of the last dominant run of a byte, or of what has passed of it, that ends at this time, by its last bit: a bit slot
holds the line dominant for 2 µs for a 1 and 6 µs for a 0, of the slot's 8 µs (R123). -/
def byteRunEnd (byteEnd : Time) (lastBit : Bool) : Time := byteEnd - (if lastBit then 6#36 else 2#36)

/-- The end of the last byte of a frame whose end-of-data is at t (R127). -/
def frameByteEnd (t : Time) : Time := t - BitVec.ofNat 36 responseGap

/-- The end of the last dominant run of a frame with this check byte whose end-of-data is at t (R127). -/
def frameRunEnd (t : Time) (check : Byte) : Time := byteRunEnd (frameByteEnd t) (check.getLsbD 0)

/-- A frame with this check byte has its end-of-data now: the recessive period counts from the end of its check byte (R127). -/
def State.noteFrame (s : State) (check : Byte) : State := s.noteRest (frameByteEnd s.timer) (frameRunEnd s.timer check)

/-! ## Receiving a frame -/

/-- The receiver can receive a frame that another station sends, with nothing of this station's on the line: it is in QUIET,
where the command stands for the frame with its start mark, or in FRAME (R125, R130, log entry 5). -/
def State.canReceive (s : State) : Bool :=
  match s.line.rx with
  | .quiet => !s.line.flying
  | .frame => !s.line.flying && s.line.ownBreak.isNone
  | .window _ | .recover => false

/-- The receive state becomes this. -/
def State.setRx (s : State) (rx : RxState) : State := s.setLine { s.line with rx := rx }

/-- The receiver enters WINDOW after a frame of this response type (R129, R134). -/
def State.openWindow (s : State) (type : ResponseType) : State :=
  s.setRx (.window { type := type, seen := 0, decision := .silent })

/-- The station's response to the frame just handed over is decided (R146). -/
def State.setDecision (s : State) (d : Decision) : State :=
  match s.line.rx with
  | .window w => s.setRx (.window { w with decision := d })
  | .quiet | .frame | .recover => s

/-- An intact frame of another transmitter reaches its end-of-data: the receiver enters WINDOW, and a frame that passes the
header check is handed to its block (R129, R140). A receiver that has not seen the frame's start mark hands nothing on; the
frame interrupts the recessive period in every receive state (R163). -/
def State.receive {w : Nat} (s : State) (kind : FrameKind) (h : FrameHeader) (p : BitVec w) (act : State → State) : State :=
  let s1 := s.noteFrame (checkByte (receivedBytes kind h p))
  if s.canReceive then
    let s2 := s1.openWindow kind.responseType
    if headerPasses h then act s2 else s2
  else s1

/-- A command of ack type is judged by the station it is addressed to (R141). -/
def State.ifOwn (s : State) (h : FrameHeader) (act : State → State) : State := if s.isOwnNumber h then act s else s

/-- A refusal or a success: the outcome byte of an ack window is decided (R146, R148). -/
def State.answer (s : State) (code : OutcomeCode) : State := s.setDecision (.ack code)

/-- A group-list command with this floor is answered when the owning block says so and the station's number is above the
floor (R99, R107, R158). -/
def State.answerNumber (s : State) (responds : Bool) (floor : Nat) : State :=
  if responds && decide (floor < s.stationNumber.toNat) then s.setDecision .number else s

end Sys2Proof.Machine
end

