-- ==== Sys2Proof/Machine/AlertCommands.lean ====
section
/-!
DEFINITION. The alert commands: ALERT_ON (R90 to R99), ALERT_OFF (R107) and ALERT_EXPIRY (R108).
-/
namespace Sys2Proof.Machine

/-- The station states in which the alert unit considers a frame (R94, R107). -/
def StationState.takesAlerts : StationState → Bool
  | .setup | .active | .clash => true
  | .strapFault | .listen => false

/-- A window's scope admits an alert's scope (R92). -/
def WindowScope.admits : WindowScope → AlertScope → Bool
  | .liveOnly, .live => true
  | .liveOnly, .test => false
  | .testOnly, .live => false
  | .testOnly, .test => true
  | .either, _ => true
  | .disabled, _ => false

/-- A window matches a region and a scope (R92). -/
def RegionWindow.matches (w : RegionWindow) (region : BitVec 16) (scope : AlertScope) : Bool :=
  ((region ^^^ w.base) &&& ~~~ w.mask) == 0#16 && w.scope.admits scope

/-- The window that governs an alert: window 0 when it matches, else window 1 when it matches (R92). -/
def State.governing (s : State) (region : BitVec 16) (scope : AlertScope) : Option RegionWindow :=
  if s.window0.matches region scope then some s.window0
  else if s.window1.matches region scope then some s.window1 else none

/-- The record a new alert is created as, with an empty channel set (R93, R97, R98). -/
def AlertOnFields.toRecord (f : AlertOnFields) (mode : AlertMode) (source : Byte) (t : Time) : AlertRecord where
  alertId    := f.alertId
  level      := f.level
  scope      := f.scope
  region     := f.region
  mode       := mode
  channelSet := 0
  limitStart := t
  limit      := alertLimit f.duration
  source     := source

/-- A record is added at the end of the table, as the youngest (R93). -/
def State.addAlert (s : State) (r : AlertRecord) : State := { s with alerts := s.alerts ++ [r] }

/-- A station of this number responds to an ALERT_ON or ALERT_OFF it took, unless it is in CLASH (R99, R107). -/
def State.answerAlert (s : State) (floor : Nat) : State := s.answerNumber (s.station != .clash) floor

/-- A refresh of the record with this frame's id (R95). -/
def State.refreshAlert (s : State) (f : AlertOnFields) (source : Byte) : State :=
  (s.modAlert f.alertId fun r => { r with limitStart := s.timer, limit := alertLimit f.duration, source := source }).answerAlert f.floor

/-- An ALERT_ON whose id the table holds: refresh or conflict (R95). -/
def State.repeatAlert (s : State) (f : AlertOnFields) (source : Byte) (r : AlertRecord) : State :=
  if r.level = f.level ∧ r.scope = f.scope then s.refreshAlert f source
  else { s with conflictCount := countUp s.conflictCount }

/-- An OBSERVE alert (R97). -/
def State.observeAlert (s : State) (f : AlertOnFields) (source : Byte) : State :=
  ((s.addAlert (f.toRecord .observe source s.timer)).raiseAlert source f.alertId .observed 0 .none f.level).answerAlert f.floor

/-- The channel set of the record with this id. -/
def State.channelSetOf (s : State) (alertId : Ident) : ChanMask := ((s.alertRecord alertId).map (·.channelSet)).getD 0

/-- An OVERRIDE alert: the record is created, the alert is offered to every channel of the window's set in slot order, and
TAKEN is raised (R98, log entry 12). -/
def State.overrideAlert (s : State) (f : AlertOnFields) (source : Byte) (w : RegionWindow) : State :=
  let ref : AlertRef := { alertId := f.alertId, level := f.level, offset := none }
  let s1 := (Config.slots.filter fun i => inMask w.channelSet i).foldl (fun s i => s.offerAlert ref i)
    (s.addAlert (f.toRecord .override source s.timer))
  (s1.raiseAlert source f.alertId .taken (s1.channelSetOf f.alertId) .none f.level).answerAlert f.floor

/-- A new alert id (R94 from step 3, R96). -/
def State.newAlert (s : State) (f : AlertOnFields) (source : Byte) : State :=
  match s.governing f.region f.scope with
  | none => s
  | some w =>
    if alertTableLimit ≤ s.alerts.length then s.raiseAlert source f.alertId .declined 0 .tableFull f.level
    else match w.mode with
      | .observe => s.observeAlert f source
      | .override => s.overrideAlert f source w

/-- An ALERT_ON the alert unit considers (R94). -/
def State.considerAlertOn (s : State) (f : AlertOnFields) (source : Byte) : State :=
  if f.intact then
    match s.alertRecord f.alertId with
    | some r => s.repeatAlert f source r
    | none => s.newAlert f source
  else { s with integrityCount := countUp s.integrityCount }

/-- The alert unit considers this frame (R94, R107). -/
def State.considersAlerts (s : State) (h : FrameHeader) : Bool := s.station.takesAlerts && s.groupAddressed h

/-- ALERT_ON (R94). -/
def execAlertOn (t : Time) (h : FrameHeader) (p : BitVec 88) (s : State) : Result :=
  s.take t fun s => s.receive .alertOn h p fun s =>
    if s.considersAlerts h then s.considerAlertOn (alertOnFields p) h.source else s

/-- An ALERT_OFF the alert unit considers (R107). -/
def State.considerAlertOff (s : State) (alertId : Ident) (floor : Nat) : State :=
  match s.alertRecord alertId with
  | some r => (s.endAlert r .alertOff).answerAlert floor
  | none => s

/-- ALERT_OFF (R107). -/
def execAlertOff (t : Time) (h : FrameHeader) (p : BitVec 24) (s : State) : Result :=
  s.take t fun s => s.receive .alertOff h p fun s =>
    if s.considersAlerts h then s.considerAlertOff (word3 p) (last3 p).toNat else s

/-- The limit of the record with this id is judged at t (R108). -/
def State.judgeAlertLimit (s : State) (alertId : Ident) (t : Time) : State :=
  match s.alertRecord alertId with
  | some r => if limitPassed t r.limitStart r.limit then s.endAlert r .expired else s
  | none => s

/-- ALERT_EXPIRY (R108). -/
def execAlertExpiry (t : Time) (alertId : Ident) (s : State) : Result := s.take t fun s => s.judgeAlertLimit alertId t

end Sys2Proof.Machine
end

