-- ==== Sys2Proof/Machine/Cues.lean ====
section
/-!
DEFINITION. The cue commands: CUE (R68 to R70), CUE_CANCEL (R84 to R86), CUT_FRAME_RECEIVED (R71, R154) and
PEER_DEADLINE_EXPIRY (R72).
-/
namespace Sys2Proof.Machine

/-! ## The checks on a splice time (R56, R57, R69) -/

/-- The interval of a break record: L long and ending at R (R54). -/
def BreakRecord.start (b : BreakRecord) : Time := b.returnPoint - BitVec.ofNat 36 (breakLength b.duration)

/-- A splice time S of length L overlaps this entry's interval; an entry without a splice time has none (R57). -/
def CueEntry.overlaps (e : CueEntry) (sp : Time) (len : Nat) : Bool :=
  e.splice.any fun se => intervalsOverlap sp len se (breakLength e.duration)

/-- The interval [S, S + L) of the cue with this id overlaps another entry of the channel or its break record (R57, check 8
of R69). -/
def Channel.overlapsInterval (c : Channel) (cueId : Ident) (sp : Time) (len : Nat) : Bool :=
  (c.cues.any fun e => e.cueId != cueId && e.overlaps sp len) ||
  c.breakRecord.any fun b => intervalsOverlap sp len b.start (breakLength b.duration)

/-- Checks 5 to 8 of R69 on a splice time S of length L for the cue with this id on channel i: the outcome of the first that
fails. -/
def State.judgeSplice (s : State) (i : Slot) (cueId : Ident) (sp : Time) (len : Nat) : Option OutcomeCode :=
  let c := s.chan i
  let d := signed sp (c.clock.predict s.timer)
  if c.clock.state ≠ .locked then some .noClock
  else if d < -s.lateLimit then some .tooLate
  else if cueHorizon < d then some .tooFar
  else if c.overlapsInterval cueId sp len then some .overlap
  else none

/-! ## CUE -/

/-- The field check of a CUE (R68). -/
def CueFields.fieldsPass (f : CueFields) : Bool :=
  if f.peerTrigger then 1 ≤ f.peerStation.toNat && f.peerStation.toNat ≤ 62 else f.triggerHigh == 0#4

/-- A channel has this cue id among its entries or its break records. -/
def Channel.usesId (c : Channel) (cueId : Ident) : Bool := (c.entry cueId).isSome || c.hasBreak cueId

/-- Another channel uses this cue id (check 3 of R69). -/
def State.idElsewhere (s : State) (i : Slot) (cueId : Ident) : Bool :=
  Config.slots.any fun j => j != i && (s.chan j).usesId cueId

/-- The channel has this cue id in CUT_WAIT or as a break record (check 4 of R69). -/
def Channel.inProgress (c : Channel) (cueId : Ident) : Bool :=
  ((c.entry cueId).any fun e => e.state == .cutWait) || c.hasBreak cueId

/-- There is no room for one more entry on channel i, counting without the entry with this id (check 9 of R69). -/
def State.cueListFull (s : State) (i : Slot) (cueId : Ident) : Bool :=
  let own := ((s.chan i).dropEntry cueId).cues.length
  cueListLimit ≤ s.cueTotal - ((s.chan i).cues.length - own) || channelCueLimit ≤ own

/-- The checks of R69 on a CUE in ACTIVE whose fields pass, and the outcome. -/
def State.judgeCueChecks (s : State) (f : CueFields) : OutcomeCode :=
  let c := s.chan f.slot
  let splice := if f.peerTrigger then none else s.judgeSplice f.slot f.cueId f.splice (breakLength (clampDuration f.duration))
  if c.rights = .guarded then .guarded
  else if s.idElsewhere f.slot f.cueId then .idClash
  else if c.inProgress f.cueId then .inProgress
  else match splice with
    | some code => code
    | none =>
      if s.cueListFull f.slot f.cueId then .full
      else if (c.entry f.cueId).isSome then .replaced else .accepted

/-- The outcome of a CUE in ACTIVE (R68, R69). -/
def State.judgeCue (s : State) (f : CueFields) : OutcomeCode := if f.fieldsPass then s.judgeCueChecks f else .field

/-- The new entry of a CUE taken at station time t (R70). -/
def CueFields.toEntry (f : CueFields) (t : Time) : CueEntry where
  cueId       := f.cueId
  port        := f.port
  earlyReturn := f.earlyReturn
  trigger     := if f.peerTrigger then .peer f.peerStation f.peerCueId f.peerOffset else .time
  splice      := if f.peerTrigger then none else some f.splice
  duration    := clampDuration f.duration
  state       := if f.peerTrigger then .waitPeer t (clampPeerWait f.peerWait) else .pending false

/-- An entry with splice time S is placed after every entry of the channel whose splice time it is at or after, and before
the others and the WAIT_PEER entries (R56, R70). -/
def insertTimed (e : CueEntry) (sp : Time) : List CueEntry → List CueEntry
  | [] => [e]
  | x :: rest => if x.splice.any fun sx => atOrAfter sp sx then x :: insertTimed e sp rest else e :: x :: rest

/-- An entry is placed in the channel's part of the list: in order of its splice time, or at the end without one (R70). -/
def placeEntry (e : CueEntry) (entries : List CueEntry) : List CueEntry :=
  match e.splice with
  | some sp => insertTimed e sp entries
  | none => entries ++ [e]

/-- The channel's part of the list with the entry e in place of one with the same cue id (R70). -/
def Channel.putEntry (c : Channel) (e : CueEntry) : Channel :=
  { c with cues := placeEntry e (c.dropEntry e.cueId).cues }

/-- The outcome lets the CUE into the list. -/
def OutcomeCode.admits (o : OutcomeCode) : Bool := o == .accepted || o == .replaced

/-- The cue list takes a CUE (R68 to R70, R145). -/
def State.takeCue (s : State) (f : CueFields) : State :=
  match s.station with
  | .active =>
    if (s.judgeCue f).admits then (s.modChan f.slot fun c => c.putEntry (f.toEntry s.timer)).answer (s.judgeCue f)
    else s.answer (s.judgeCue f)
  | .listen | .setup | .clash => s.answer .notNow
  | .strapFault => s

/-- CUE (R69). -/
def execCue (t : Time) (h : FrameHeader) (p : BitVec 96) (s : State) : Result :=
  s.take t fun s => s.receive .cue h p fun s => s.ifOwn h fun s => s.takeCue (cueFields p)

/-! ## CUE_CANCEL -/

/-- The entry with this cue id and its channel, wherever it stands (R84). -/
def State.findEntry (s : State) (cueId : Ident) : Option (Slot × CueEntry) :=
  Config.slots.findSome? fun i => ((s.chan i).entry cueId).map fun e => (i, e)

/-- The break record with this cue id and its channel, active or held (R84). -/
def State.findBreak (s : State) (cueId : Ident) : Option (Slot × BreakRecord) :=
  Config.slots.findSome? fun i => ((s.chan i).breakRecord.filter fun b => b.cueId == cueId).map fun b => (i, b)

/-- The active break b of channel i is cancelled (the table of R85). -/
def State.cancelActive (s : State) (i : Slot) (b : BreakRecord) : State :=
  let wait (report : Option ReturnReport) (c : Channel) : Channel := c.enterReturnWait .any report
  match (s.chan i).state with
  | .onBreak => (s.drainTruncating i b.port).modChan i (wait (some .cancelled))
  | .rejoinWait => (s.drainPort i b.port).modChan i (wait (some .cancelled))
  | .returnWait => s.modChan i fun c => wait (c.returnReport.map fun _ => .cancelled) c
  | .network | .cutWait | .alertWait | .alert => s

/-- The held break b of channel i is cancelled (R86). -/
def State.cancelHeld (s : State) (i : Slot) (b : BreakRecord) : State :=
  (s.removeHeldBreak i b).raiseBreak i .withdrawn .cancelled b

/-- The break b of channel i is cancelled (R85, R86). -/
def State.cancelBreak (s : State) (i : Slot) (b : BreakRecord) : State :=
  if (s.chan i).activeBreak.isSome then s.cancelActive i b else s.cancelHeld i b

/-- A CUE_CANCEL in ACTIVE (R84). -/
def State.cancelCue (s : State) (cueId : Ident) : State :=
  match s.findEntry cueId with
  | some (i, e) => (s.withdrawEntry i .cancelled e).answer .accepted
  | none =>
    match s.findBreak cueId with
    | some (i, b) => (s.cancelBreak i b).answer .accepted
    | none => s.answer .noSuchCue

/-- A CUE_CANCEL by station state (R84, R145). -/
def State.takeCancel (s : State) (cueId : Ident) : State :=
  match s.station with
  | .active => s.cancelCue cueId
  | .listen | .setup | .clash => s.answer .notNow
  | .strapFault => s

/-- CUE_CANCEL (R84). -/
def execCueCancel (t : Time) (h : FrameHeader) (p : BitVec 16) (s : State) : Result :=
  s.take t fun s => s.receive .cueCancel h p fun s => s.ifOwn h fun s => s.takeCancel p

/-! ## CUT frames and peer deadlines (R71, R72, R154) -/

/-- The entry waits for this cue of this peer (R71). -/
def CueEntry.awaits (e : CueEntry) (source : Byte) (cueId : Ident) : Bool :=
  match e.state, e.trigger with
  | .waitPeer _ _, .peer station peerCue _ => station == source && peerCue == cueId
  | _, _ => false

/-- The splice time a CUT_IN gives an entry (R55). -/
def CueEntry.spliceFrom (e : CueEntry) (cutStamp : Time) : Time :=
  match e.trigger with
  | .peer _ _ offset => addMicros cutStamp (offset * 1000)
  | .time => cutStamp

/-- The withdrawal reason for a check that a peer's splice time fails; beyond the horizon it is TOO_LATE too (R71). -/
def OutcomeCode.withdrawReason : OutcomeCode → CutReason
  | .noClock => .noClock
  | .overlap => .overlap
  | _ => .tooLate

/-- The entry e of channel i takes its splice time from a CUT_IN with this cut stamp, or is withdrawn (R71). -/
def State.peerCutIn (s : State) (i : Slot) (cutStamp : Time) (e : CueEntry) : State :=
  let sp := e.spliceFrom cutStamp
  match s.judgeSplice i e.cueId sp (breakLength e.duration) with
  | none => s.modChan i fun c => c.putEntry { e with splice := some sp, state := .pending false }
  | some code => s.withdrawEntry i code.withdrawReason e

/-- The entry e of channel i reacts to a CUT frame that it awaits (R71, R154). -/
def State.reactToCut (s : State) (i : Slot) (kind : Option CutKind) (cutStamp : Time) (e : CueEntry) : State :=
  match kind with
  | some .cutIn => s.peerCutIn i cutStamp e
  | some .missed | some .withdrawn | some .shed => s.withdrawEntry i .peerMissed e
  | some .cutOut | some .held | some .rejoined | none => s

/-- The entry of channel i with this id of its own reacts to a CUT frame, if it is there and awaits it (R71). -/
def State.reactById (s : State) (i : Slot) (source : Byte) (cueId : Ident) (kind : Option CutKind) (cutStamp : Time)
    (own : Ident) : State :=
  match ((s.chan i).entry own).filter fun e => e.awaits source cueId with
  | some e => s.reactToCut i kind cutStamp e
  | none => s

/-- The waiting entries of channel i react to a CUT frame, in cue list order (R71). -/
def State.matchCutOn (s : State) (source : Byte) (cueId : Ident) (kind : Option CutKind) (cutStamp : Time) (i : Slot) : State :=
  ((s.chan i).cueIds fun e => e.awaits source cueId).foldl (fun s own => s.reactById i source cueId kind cutStamp own) s

/-- The cue list matches a CUT frame against every WAIT_PEER entry, channel by channel in slot order (R71, log entry 12). -/
def State.matchCut (s : State) (source : Byte) (cueId : Ident) (kind : Option CutKind) (cutStamp : Time) : State :=
  Config.slots.foldl (fun s i => s.matchCutOn source cueId kind cutStamp i) s

/-- CUT_FRAME_RECEIVED (R71, R154). -/
def execCutFrameReceived (t : Time) (h : FrameHeader) (p : BitVec 88) (s : State) : Result :=
  s.take t fun s => s.receive .cut h p fun s =>
    s.matchCut h.source (cutFields p).cueId (CutKind.ofValue (cutFields p).kind) (cutFields p).cutStamp

/-- The deadline of a WAIT_PEER entry has passed at t (R72). -/
def CueEntry.deadlinePassed (e : CueEntry) (t : Time) : Bool :=
  match e.state with
  | .waitPeer since wait => limitPassed t since wait
  | .pending _ | .portWait | .cutWait => false

/-- The peer deadline of the entry with this cue id is judged at t (R72). -/
def State.judgeDeadline (s : State) (cueId : Ident) (t : Time) : State :=
  match s.findEntry cueId with
  | some (i, e) => if e.deadlinePassed t then s.withdrawEntry i .peerSilent e else s
  | none => s

/-- PEER_DEADLINE_EXPIRY (R72). -/
def execPeerDeadlineExpiry (t : Time) (cueId : Ident) (s : State) : Result := s.take t fun s => s.judgeDeadline cueId t

end Sys2Proof.Machine
end

