-- ==== Sys2Proof/Machine/Line.lean ====
section
/-!
DEFINITION. The line interface at work (chapter 8): TRANSMIT_START, ARBITRATION_LOSS, CLEAN_SEND, BIT_ERROR, LINE_BREAK,
RECEIVE_ERROR, CHECK_ERROR, NOISE_PULSE, RESPONSE_BYTE and LINE_IDLE.
-/
namespace Sys2Proof.Machine

/-! ## The frame in flight -/

/-- The frame of the queue in flight (R137). -/
def LineInterface.flight (l : LineInterface) : Option TxFrame := l.queue.find? (·.inFlight)

/-- No frame is in flight; every frame keeps its place and its retry count (R130, R132, R133). -/
def LineInterface.land (l : LineInterface) : LineInterface :=
  { l with queue := l.queue.map fun f => { f with inFlight := false } }

/-- The head of the queue is in flight (R125, R137). -/
def LineInterface.launch (l : LineInterface) : LineInterface :=
  match l.queue with
  | f :: rest => { l with queue := { f with inFlight := true } :: rest }
  | [] => l

/-- The frame in flight leaves the queue (R131, R132). -/
def LineInterface.dropFlight (l : LineInterface) : LineInterface := { l with queue := l.queue.filter fun f => !f.inFlight }

/-! ## TRANSMIT_START, ARBITRATION_LOSS, CLEAN_SEND -/

/-- The line is idle: the receiver is in QUIET, which it enters on an idle line and leaves with the first start mark or
disturbance (R124, R125), and no falling edge has been seen since. -/
def LineInterface.idle (l : LineInterface) : Bool := l.rx == .quiet && !l.dominant

/-- The transmitter may start: in SETUP or ACTIVE, on an idle line, with a frame to send (R125). -/
def State.mayStart (s : State) : Bool :=
  s.station.mayDrive && s.line.idle && !s.line.flying && !s.line.queue.isEmpty

/-- The falling edge of the start mark of the head of the queue is driven; the part's own receiver judges the mark as any
station does, when its run has ended (R125, R131, log entry 7). -/
def State.startSending (s : State) : State :=
  if s.mayStart then s.setLine (s.line.launch.edge s.timer) else s

/-- TRANSMIT_START (R125). -/
def execTransmitStart (t : Time) (s : State) : Result := s.take t State.startSending

/-- The bit the frame f sends in a bit slot, with this station's number as its source (R130, R132). -/
def State.bitSent (s : State) (f : TxFrame) (bitSlot : Nat) : Option Bool :=
  sentBit (f.report.frameBytes s.stationNumber) bitSlot

/-- Arbitration is lost in this bit slot of the header, where the line read 0: the frame in flight sends a 1 there (R130). -/
def State.losesArbitration (s : State) (bitSlot : Nat) : Bool :=
  bitSlot < 24 && s.line.flight.any fun f => s.bitSent f bitSlot == some true

/-- The transmitter stops driving, keeps its frame in the queue, and goes on as a receiver of the frame it lost to (R130). -/
def State.loseArbitration (s : State) (bitSlot : Nat) : State :=
  if s.losesArbitration bitSlot then s.setLine { s.line.land with rx := .frame } else s

/-- ARBITRATION_LOSS (R130). -/
def execArbitrationLoss (t : Time) (bitSlot : Nat) (s : State) : Result := s.take t fun s => s.loseArbitration bitSlot

/-- The part's own frame is handed to its owning block with the mark that this station sent it: a CUT report to the cue list;
PRESENT and ALERT_REPORT change nothing (R71, R131, R142, R166). -/
def State.handOwn (s : State) : Report → State
  | .cut _ kind cueId _ cutStamp _ => s.matchCut (s.stationNumber.setWidth 8) cueId (some kind) cutStamp
  | .alert .. | .present .. => s

/-- The frame in flight has been sent clean: it leaves the queue, the transmit fault flag is cleared, and the frame is handed
on (R131). The recessive period counts from the end of its check byte (R127). -/
def State.finishSend (s : State) : State :=
  match s.line.flight with
  | some f =>
    ((s.setLine { (s.line.dropFlight.rest (frameByteEnd s.timer)) with transmitFault := false }).openWindow .none).handOwn f.report
  | none => s

/-- CLEAN_SEND (R131). -/
def execCleanSend (t : Time) (s : State) : Result := s.take t State.finishSend

/-! ## BIT_ERROR (R132) -/

/-- The opposite level in this bit slot is a bit error: any slot from the payload to the check byte, and a header slot in
which a 0 is sent (R130, R132). -/
def State.isBitError (s : State) (f : TxFrame) (bitSlot : Nat) : Bool :=
  match s.bitSent f bitSlot with
  | some bit => 24 ≤ bitSlot || !bit
  | none => false

/-- The retry count of the frame in flight goes up, and it waits in the queue (R132). -/
def LineInterface.retry (l : LineInterface) : LineInterface :=
  { l with queue := l.queue.map fun f => if f.inFlight then { f with retries := f.retries + 1, inFlight := false } else f }

/-- The frame in flight is abandoned (R132). -/
def LineInterface.abandon (l : LineInterface) : LineInterface :=
  { l.dropFlight with abandons := countUp l.abandons, transmitFault := true }

/-- A bit error of the frame in flight, now: a line break is driven, and the frame is retried or abandoned (R132). The receiver
is in FRAME, in which a bit slot of a frame stands. -/
def State.bitError (s : State) (bitSlot : Nat) : State :=
  match s.line.flight with
  | some f =>
    if s.isBitError f bitSlot then
      let l := if f.retries < retryLimit then s.line.retry else s.line.abandon
      s.setLine { (l.edge s.timer) with rx := .frame, ownBreak := some s.timer }
    else s
  | none => s

/-- BIT_ERROR (R132). -/
def execBitError (t : Time) (bitSlot : Nat) (s : State) : Result := s.take t fun s => s.bitError bitSlot

/-! ## LINE_BREAK, RECEIVE_ERROR, CHECK_ERROR, NOISE_PULSE -/

/-- The receiver enters RECOVER: what was in progress is discarded, and a frame in flight is cut off with its retry count
unchanged (R126, R132, R133). -/
def LineInterface.disturb (l : LineInterface) : LineInterface := { l.land with rx := .recover }

/-- A line break is seen at t, and its run goes on (R133). -/
def State.seeBreak (s : State) (t : Time) : State :=
  s.setLine { (s.line.disturb.edge t) with lineBreaks := countUp s.line.lineBreaks }

/-- LINE_BREAK (R133). -/
def execLineBreak (t : Time) (s : State) : Result := s.take t fun s => s.seeBreak t

/-- A receive error is counted and the receiver enters RECOVER (R126, R129, R134). -/
def State.countReceiveError (s : State) : State :=
  s.setLine { s.line.disturb with receiveErrors := countUp s.line.receiveErrors }

/-- A dominant run of this length is a start mark (R125). -/
def isStartMark (us : Nat) : Bool := 40 ≤ us && us ≤ 56

/-- What was measured is an error in a bit slot of a frame or a response byte, by the limits of R126. -/
def isSlotError : LineObservation → Bool
  | .run us => 7 < us && us < breakRun
  | .earlyEdge us => us < 7
  | .pause slots _ => slots < 8
  | .lateEdge sinceEdge sinceByte => 9 < sinceEdge && sinceByte < responseGap
  | .extraByte => true

/-- A falling edge after a byte of the window w comes where w holds no further byte: its type's bytes have passed, or it has closed
after 32 µs without an edge (R134; from the end of the end-of-frame gap on, log entry 33). -/
def Window.closedAt (w : Window) (sinceByte : Nat) : Bool := responseWait < sinceByte || w.type.limit ≤ w.seen

/-- What was measured is an error in this receive state: in QUIET a run that is no start mark (R125), in FRAME and WINDOW a bit
slot's error (R126), in WINDOW an edge beyond its bytes as well (R134), and in RECOVER nothing. A frame of another station can
leave the receiver's QUIET with its end-of-data, so its bytes are judged in QUIET too (log entry 5). -/
def isLineError (o : LineObservation) : RxState → Bool
  | .recover => false
  | .frame => isSlotError o
  | .quiet => match o with
    | .run us => 2 ≤ us && us < breakRun && !isStartMark us
    | .earlyEdge _ | .pause _ _ | .lateEdge _ _ | .extraByte => isSlotError o
  | .window w => isSlotError o || match o with
    | .lateEdge sinceEdge sinceByte => 9 < sinceEdge && w.closedAt sinceByte
    | .run _ | .earlyEdge _ | .pause _ _ | .extraByte => false

/-- What was measured at t does to the recessive period (R123, R124): a run of 2 µs or more ended at t, an edge begins one, and a
pause is found in the period that began with the end of the last run; after a whole byte the period counts from the end of the byte,
8 µs after its last edge (R125, R127). -/
def State.noteObserved (s : State) (t : Time) : LineObservation → State
  | .run us => if us < 2 then s else s.noteRest t t
  | .pause slots sinceRun =>
    let runEnd := t - BitVec.ofNat 36 sinceRun
    s.noteRest (if slots < 8 then runEnd else t - 1#36) runEnd
  | .earlyEdge _ | .lateEdge _ _ | .extraByte => s.noteEdge t

/-- The receiver goes on after what was no error: a start mark in QUIET begins a frame (R125), and at the end of a line break
the receiver is in RECOVER (R133). -/
def State.followRun (s : State) : LineObservation → State
  | .run us =>
    if breakRun ≤ us then s.setLine s.line.disturb
    else if isStartMark us && s.line.rx == .quiet then s.setRx .frame else s
  | .earlyEdge _ | .pause _ _ | .lateEdge _ _ | .extraByte => s

/-- What was measured at t is judged (R125, R126, R134). -/
def State.receiveError (s : State) (t : Time) (o : LineObservation) : State :=
  let s1 := s.noteObserved t o
  if isLineError o s.line.rx then s1.countReceiveError else s1.followRun o

/-- RECEIVE_ERROR (R126). -/
def execReceiveError (t : Time) (o : LineObservation) (s : State) : Result := s.take t fun s => s.receiveError t o

/-- The receiver is reading a frame, this station's own or another's (R129). -/
def State.readsFrame (s : State) : Bool :=
  match s.line.rx with
  | .quiet | .frame => true
  | .window _ | .recover => false

/-- The bytes read at end-of-data are judged (R129): a check error or a length error discards the frame, a frame of unknown
kind is ignored, and an intact frame is the matter of its own command. What passes in WINDOW and RECOVER interrupts the recessive
period alone. -/
def State.judgeBytes (s : State) (bytes : List Byte) : State :=
  let s1 := s.noteFrame (bytes.getLastD 0)
  match judgeFrame bytes with
  | .intact => s
  | .checkError | .lengthError => if s.readsFrame then s1.countReceiveError else s1
  | .unknownKind => if s.readsFrame then s1.openWindow .none else s1

/-- CHECK_ERROR (R129). -/
def execCheckError (t : Time) (bytes : List Byte) (s : State) : Result := s.take t fun s => s.judgeBytes bytes

/-- The noise count goes up (R123). -/
def State.countNoise (s : State) : State := s.setLine { s.line with noise := countUp s.line.noise }

/-- NOISE_PULSE (R123). -/
def execNoisePulse (t : Time) (s : State) : Result := s.take t State.countNoise

/-! ## RESPONSE_BYTE (R134 to R136) -/

/-- The first `slots` bits of a byte, most significant first (R126). -/
def byteHead (b : Byte) (slots : Nat) : Byte := b >>> (8 - slots)

/-- The first `slots` bit slots of a byte passed in the window, a whole byte when they are eight: one more has been seen then, and
this station's part becomes d. -/
def Window.next (w : Window) (slots : Nat) (d : Decision) : Window :=
  { w with seen := if slots < 8 then w.seen else w.seen + 1, decision := d }

/-- What is left of a decision after the first `slots` bit slots of a response byte that this station drove and that read as those
of `line`, and whether a responder's mismatch is counted (R135, R136). A responder of ack or data type that reads another bit than
it sent stops. A group-list responder that reads back its number has been heard; one that sent a 1 and read a 0, whose number is
then the greater, tries again while the window is open; one that sent a 0 and read a 1 stops. -/
def Decision.drive (number : Byte) (line : Byte) (slots seen : Nat) : Decision → Decision × Bool
  | .silent => (.silent, false)
  | .ack code =>
    if byteHead line slots ≠ byteHead code.value slots then (.silent, true)
    else if slots < 8 then (.ack code, false) else (.silent, false)
  | .data bytes =>
    if byteHead line slots ≠ byteHead (bytes.getD seen 0) slots then (.silent, true)
    else if slots < 8 ∨ seen + 1 < bytes.length then (.data bytes, false) else (.silent, false)
  | .number =>
    if byteHead number slots < byteHead line slots then (.silent, false)
    else if slots < 8 then (.number, false)
    else if line < number ∧ seen + 1 < ResponseType.groupList.limit then (.number, false) else (.silent, false)

/-- The receive error count goes up without a change of the receive state (R135). -/
def State.countMismatch (s : State) : State := s.setLine { s.line with receiveErrors := countUp s.line.receiveErrors }

/-- The first `slots` bit slots of a byte pass in the window w, which has room for it (R134 to R136); a station that drives nothing
keeps what it has decided (R147). -/
def State.windowByte (s : State) (w : Window) (slots : Nat) (line : Byte) : State :=
  if s.station.mayDrive then
    let driven := w.decision.drive (s.stationNumber.setWidth 8) line slots w.seen
    let s1 := s.setRx (.window (w.next slots driven.1))
    if driven.2 then s1.countMismatch else s1
  else s.setRx (.window (w.next slots w.decision))

/-- A byte that begins `gap` µs after the byte before it is an error in the window w: the gap has not ended, or the window has closed
or holds no further byte (R134). -/
def Window.refuses (w : Window) (gap : Nat) : Bool := gap < responseGap || w.closedAt gap

/-- A response byte, or as much of it as passed, ended at t (R134 to R136). In QUIET its first run is no start mark (R125); in every
receive state it interrupts the recessive period, which counts from the end of a whole byte (R127), and from the end of the last run
where the byte was cut off (R124, R163). -/
def State.responseByte (s : State) (t : Time) (gap slots : Nat) (line : Byte) : State :=
  let runEnd := byteRunEnd t (line.getMsbD (slots - 1))
  let s1 := s.noteRest (if slots < 8 then runEnd else t) runEnd
  match s.line.rx with
  | .window w => if w.refuses gap then s1.countReceiveError else s1.windowByte w slots line
  | .quiet => s1.countReceiveError
  | .frame | .recover => s1

/-- RESPONSE_BYTE (R134). -/
def execResponseByte (t : Time) (line : PassedByte) (s : State) : Result :=
  s.take t fun s => s.responseByte t line.gap line.slots line.bits

/-! ## LINE_IDLE (R124) -/

/-- The receive state on an idle line: RECOVER and the end of a frame lead to QUIET (R124, R127). -/
def RxState.onIdle : RxState → RxState
  | .window _ | .recover | .quiet => .quiet
  | .frame => .frame

/-- The line can have been recessive for 64 µs at t (R124): that long has passed since the recessive period began, and since the release
of a line break of this station's own (R132), and the part sends no bit. -/
def State.lineRested (s : State) (t : Time) : Bool :=
  idleTime ≤ elapsed t s.line.recessiveSince && s.line.clearOfBreak t && !s.sendsBits

/-- The line has been recessive for 64 µs at t (R124): the receiver leaves RECOVER, or the end of a frame, for QUIET (R127). A run
whose end was not reported ended 64 µs ago, and in LISTEN the quiet start is there (R163). Between the end of the end-of-frame gap,
at 48 µs, and this moment the receiver is in WINDOW, and what comes then is judged as in the window, which is the model's choice
(log entry 33). -/
def State.lineIdle (s : State) (t : Time) : State :=
  if s.lineRested t then
    let since := t - BitVec.ofNat 36 idleTime
    let s1 := if s.line.dominant then s.noteRest since since else s
    s1.setLine { s1.line with rx := s1.line.rx.onIdle, ownBreak := none }
  else s

/-- LINE_IDLE (R124). -/
def execLineIdle (t : Time) (s : State) : Result := s.take t fun s => s.lineIdle t

end Sys2Proof.Machine
end

