-- ==== Sys2Proof/Machine/Network.lean ====
section
/-!
DEFINITION. The stream commands: NETWORK_CELL_ARRIVAL with the whole slot event (R3, R4, R42), INSERT_CELL_ARRIVAL (R5),
ALERT_CELL_ARRIVAL (R12), and the three limits of a channel on the station timer (R27, R89, R102).
-/
namespace Sys2Proof.Machine

/-- Step 4 of a slot event: the state's rule chooses and sends the output cell (R42). -/
def State.output (s : State) (i : Slot) (cell : StreamCell) : State :=
  match (s.chan i).state with
  | .network => s.send i cell
  | .cutWait => s.outputCutWait i cell
  | .onBreak => s.outputBreak i cell
  | .returnWait => s.outputReturnWait i cell
  | .rejoinWait => s.outputRejoinWait i cell
  | .alertWait => s.outputAlertWait i cell
  | .alert => s.outputAlert i

/-- Steps 1 to 3 of a slot event (R42): the clock, the channel's own limits, its cue entries. -/
def State.beforeOutput (s : State) (i : Slot) (t : Time) (cell : StreamCell) : State :=
  (((s.clockStep i t cell).judgeRejoinLimit i t).judgeStarvation i t).cueStep i t

/-- The slot event of channel i for a network cell that arrived at t (R42). -/
def State.slotEvent (s : State) (i : Slot) (t : Time) (cell : StreamCell) : State :=
  (s.beforeOutput i t cell).output i cell

/-- The start gate of the slot lets a cell through: it is open, or the cell is an eligible unit start and opens it (R4). -/
def State.gatePasses (s : State) (i : Slot) (cell : StreamCell) : Bool := (s.chan i).gateOpen || isUnitStart cell

/-- A cell of the slot reaches its start gate (R4). -/
def State.startGate (s : State) (i : Slot) (t : Time) (cell : StreamCell) : State :=
  if s.gatePasses i cell then (s.modChan i fun c => { c with gateOpen := true }).slotEvent i t cell else s

/-- The slot of a tag of the station's block: its low four bits (R3). -/
def slotOfTag (tag : BitVec 12) : Slot := (tag.extractLsb' 0 4).toFin

/-- The tag lies in the station's block: block base × 16 to block base × 16 + 15 (R3). -/
def State.ownsTag (s : State) (tag : BitVec 12) : Bool := tag.extractLsb' 4 8 == s.blockBase

/-- A cell at the network input (R3). -/
def State.networkCell (s : State) (t : Time) (cell : StreamCell) : State :=
  if cell.mark ≠ cellMark then { s with networkMarkErrors := countUp s.networkMarkErrors }
  else if cell.tag = 0 then s
  else if s.station = .strapFault then s
  else if s.ownsTag cell.tag then s.startGate (slotOfTag cell.tag) t cell else s

/-- NETWORK_CELL_ARRIVAL (R3). -/
def execNetworkCellArrival (t : Time) (cell : StreamCell) (s : State) : Result := s.take t fun s => s.networkCell t cell

/-- SILENCE_EXPIRY (R27). -/
def execSilenceExpiry (t : Time) (i : Slot) (s : State) : Result := s.take t fun s => s.judgeSilence i t

/-- REJOIN_LIMIT_EXPIRY (R89). -/
def execRejoinLimitExpiry (t : Time) (i : Slot) (s : State) : Result := s.take t fun s => s.judgeRejoinLimit i t

/-- STARVATION_EXPIRY (R102). -/
def execStarvationExpiry (t : Time) (i : Slot) (s : State) : Result := s.take t fun s => s.judgeStarvation i t

/-- INSERT_CELL_ARRIVAL (R5): in STRAP_FAULT the cell is discarded without a count. -/
def execInsertCellArrival (t : Time) (p : PortId) (cell : StreamCell) (s : State) : Result :=
  s.take t fun s => if s.station = .strapFault then s else s.modPort p fun q => q.arrive cell

/-- A channel after a cell has been written to the ring (steps 1 and 4 to 6 of R12, R14): its reader moves, and a lapped reader
counts a ring skip and sets DISC due. -/
def Channel.afterRingWrite (after : AlertRing) (written : RingPos) (cell : StreamCell) (c : Channel) : Channel :=
  match c.reader with
  | none => c
  | some r =>
    if r.lapped then
      { c with reader := some (r.afterWrite after written cell), ringSkipCount := countUp c.ringSkipCount, discDue := true }
    else { c with reader := some (r.afterWrite after written cell) }

/-- A valid cell is written into the alert ring, and every reader follows (R12). -/
def State.writeRing (s : State) (cell : StreamCell) : State :=
  let after := s.ring.write cell
  { s with ring := after, channels := s.channels.map (Channel.afterRingWrite after s.ring.writer cell) }

/-- A cell at the alert port (R12). -/
def State.alertCell (s : State) (cell : StreamCell) : State :=
  if s.station = .strapFault then s
  else if cell.mark ≠ cellMark then { s with ring := { s.ring with markErrors := countUp s.ring.markErrors } }
  else s.writeRing cell

/-- ALERT_CELL_ARRIVAL (R12). -/
def execAlertCellArrival (t : Time) (cell : StreamCell) (s : State) : Result := s.take t fun s => s.alertCell cell

end Sys2Proof.Machine
end

