-- ==== Sys2Proof/Machine/RightsCommands.lean ====
section
/-!
DEFINITION. The rights commands: RIGHTS (R116, R117), RIGHTS_LOCK (R119), RIGHTS_FIX (R121) and RLK_CHANGE (R115).
-/
namespace Sys2Proof.Machine

/-- RLK_CHANGE (R115): the pin takes its level and nothing else changes; the pin has a level in reset too. -/
def execRlkChange (asserted : Bool) (s : State) : Result := .next { s with rlk := asserted }

/-- A rights frame is taken in SETUP and ACTIVE and refused with NOT_NOW in LISTEN and CLASH (R114, R145). -/
def State.takeRights (s : State) (act : State → State) : State :=
  match s.station with
  | .setup | .active => act s
  | .listen | .clash => s.answer .notNow
  | .strapFault => s

/-- The slots of a mask in ascending order. -/
def maskSlots (m : ChanMask) : List Slot := Config.slots.filter fun i => inMask m i

/-- A masked channel is fixed with other rights (check 3 of R116). -/
def State.fixedOtherwise (s : State) (m : ChanMask) (asked : Rights) : Bool :=
  (maskSlots m).any fun i => (s.chan i).fixed && (s.chan i).rights != asked

/-- A channel holds a break record or a pending entry (R47). -/
def Channel.breakLive (c : Channel) : Bool := c.breakRecord.isSome || c.pendingEntry.isSome

/-- A masked channel holds a break record or a pending entry (check 4 of R116). -/
def State.anyBreakLive (s : State) (m : ChanMask) : Bool := (maskSlots m).any fun i => (s.chan i).breakLive

/-- Channel i takes the rights OPEN or GUARDED; guarding withdraws its entries in cue list order (R117). -/
def State.giveRights (s : State) (asked : Rights) (i : Slot) : State :=
  let s1 := match asked with
    | .opened => s
    | .guarded => s.withdrawEntries i (fun _ => true) .guarded
  s1.modChan i fun c => { c with rights := asked }

/-- A RIGHTS frame that passes its checks is applied in slot order (R117). -/
def State.applyRights (s : State) (m : ChanMask) (asked : Rights) : State :=
  (maskSlots m).foldl (fun s i => s.giveRights asked i) s

/-- The outcome of a RIGHTS frame that is taken (R116). -/
def State.judgeRights (s : State) (m : ChanMask) (action : Option Rights) : OutcomeCode :=
  match action with
  | none => .field
  | some asked =>
    if s.lock then .locked
    else if s.fixedOtherwise m asked then .fixed
    else if asked = .guarded ∧ s.anyBreakLive m = true then .breakLive
    else .accepted

/-- A RIGHTS frame that is taken (R116, R117). -/
def State.doRights (s : State) (m : ChanMask) (action : Option Rights) : State :=
  match action, s.judgeRights m action with
  | some asked, .accepted => (s.applyRights m asked).answer .accepted
  | _, code => s.answer code

/-- RIGHTS (R116). -/
def execRights (t : Time) (h : FrameHeader) (p : BitVec 24) (s : State) : Result :=
  s.take t fun s => s.receive .rights h p fun s => s.ifOwn h fun s =>
    s.takeRights fun s => s.doRights (word3 p) (rightsAction (last3 p))

/-- A RIGHTS_LOCK frame that is taken (the table of R119). -/
def State.doLock (s : State) (action : Option Bool) : State :=
  match action with
  | none => s.answer .field
  | some true => { s with lock := true }.answer .accepted
  | some false => if s.lock && s.rlk then s.answer .locked else { s with lock := false }.answer .accepted

/-- RIGHTS_LOCK (R119). -/
def execRightsLock (t : Time) (h : FrameHeader) (p : BitVec 8) (s : State) : Result :=
  s.take t fun s => s.receive .rightsLock h p fun s => s.ifOwn h fun s => s.takeRights fun s => s.doLock (lockAction p)

/-- The fixed flag of every masked channel is set (R121). -/
def State.fixChannels (s : State) (m : ChanMask) : State :=
  (maskSlots m).foldl (fun s i => s.modChan i fun c => { c with fixed := true }) s

/-- A RIGHTS_FIX frame that is taken (R121). -/
def State.doFix (s : State) (m : ChanMask) : State :=
  if s.fixPermitted = false then s.answer .fixNotPermitted
  else if s.lock then s.answer .locked
  else (s.fixChannels m).answer .accepted

/-- RIGHTS_FIX (R121). -/
def execRightsFix (t : Time) (h : FrameHeader) (p : BitVec 16) (s : State) : Result :=
  s.take t fun s => s.receive .rightsFix h p fun s => s.ifOwn h fun s => s.takeRights fun s => s.doFix p

end Sys2Proof.Machine
end

