-- ==== Sys2Proof/Machine/RollCall.lean ====
section
/-!
DEFINITION. Roll-call and reading: QUERY (R155 to R158), LATCH_CLEAR (R160) and STATE_READ (R149, R150).
-/
namespace Sys2Proof.Machine

/-- QUERY, LATCH_CLEAR and STATE_READ are taken in SETUP and ACTIVE alone (R145). -/
def StationState.takesReadings : StationState → Bool
  | .setup | .active => true
  | .strapFault | .listen | .clash => false

/-! ## QUERY -/

/-- The test IN_BREAK (R47, R156). -/
def Channel.inBreak (c : Channel) : Bool :=
  match c.state with
  | .onBreak | .rejoinWait => true
  | .returnWait => c.activeBreak.isSome
  | .network | .cutWait | .alertWait | .alert => false

/-- The test IN_ALERT (R156). -/
def Channel.inAlert (c : Channel) : Bool := c.state == .alertWait || c.state == .alert

/-- The test a code names on one channel; the codes 6 and 7 name none and are false (R156, R169). -/
def Channel.test (c : Channel) (code : BitVec 3) : Bool :=
  match code.toNat with
  | 0 => c.inBreak
  | 1 => c.inAlert
  | 2 => !c.cues.isEmpty
  | 3 => c.clock.state == .locked
  | 4 => c.activity
  | 5 => c.rights == .guarded
  | _ => false

/-- The condition of a QUERY: polarity, then combination over the mask; an empty mask gives false (R157). -/
def State.condition (s : State) (f : QueryFields) : Bool :=
  let results := (maskSlots f.mask).map fun i => (s.chan i).test f.test != f.inverts
  if f.all then !results.isEmpty && results.all id else results.any id

/-- A QUERY the station judges (R158). -/
def State.doQuery (s : State) (f : QueryFields) : State := s.answerNumber (s.condition f || s.startLatch) f.floor

/-- QUERY (R158). -/
def execQuery (t : Time) (h : FrameHeader) (p : BitVec 32) (s : State) : Result :=
  s.take t fun s => s.receive .query h p fun s =>
    if s.station.takesReadings && s.groupAddressed h then s.doQuery (queryFields p) else s

/-! ## LATCH_CLEAR -/

/-- The activity latches of the masked channels are cleared (R160). -/
def State.clearLatches (s : State) (m : ChanMask) : State :=
  (maskSlots m).foldl (fun s i => s.modChan i fun c => { c with activity := false }) s

/-- A latch that the frame names is set (R160). -/
def State.hasLatch (s : State) (m : ChanMask) (start : Bool) : Bool :=
  ((maskSlots m).any fun i => (s.chan i).activity) || (start && s.startLatch)

/-- A LATCH_CLEAR the station takes (R160). -/
def State.doLatchClear (s : State) (m : ChanMask) (start : Bool) : State :=
  { s.clearLatches m with startLatch := s.startLatch && !start }.answerNumber (s.hasLatch m start) 0

/-- LATCH_CLEAR (R160). -/
def execLatchClear (t : Time) (h : FrameHeader) (p : BitVec 24) (s : State) : Result :=
  s.take t fun s => s.receive .latchClear h p fun s =>
    if s.station.takesReadings && s.groupAddressed h then s.doLatchClear (word3 p) ((last3 p).getLsbD 0) else s

/-! ## STATE_READ (R149, R150, R170) -/

/-- The two bytes of a 16-bit count or id (R170). -/
def twoBytes (c : BitVec 16) : List Byte := [c.extractLsb' 8 8, c.extractLsb' 0 8]

/-- A byte whose bits are these, bit 0 first. -/
def bitsByte (bits : List Bool) : Byte := bits.foldr (fun b r => (r <<< 1) ||| (BitVec.ofBool b).setWidth 8) 0

/-- A number that is sent as one byte. -/
def numberByte (n : Nat) : Byte := BitVec.ofNat 8 n

/-- The insert port bound to channel i (R149). -/
def State.boundPort (s : State) (i : Slot) : Option PortId := Config.ports.find? fun p => (s.port p).owner == some i

/-- An absent slot, port or owner is sent as 80h (R170). -/
def absentAs80 {n : Nat} (x : Option (Fin n)) : Byte := match x with | some k => numberByte k.val | none => 0x80#8

/-- The occupant bits and id of a channel summary (R149, R170). -/
def Channel.occupant (c : Channel) : BitVec 2 × Ident :=
  match c.active with
  | none => (0, 0)
  | some (.brk b) => (1, b.cueId)
  | some (.alert a) => (2, a.alertId)

/-- Item 0: the channel summary (R170). -/
def State.channelPage (s : State) (i : Slot) : List Byte :=
  let c := s.chan i
  let returnAny := c.state == .returnWait && c.returnCondition == some .any
  let starved := c.state == .alertWait && c.starved
  [(0#3 : BitVec 3) ++ BitVec.ofBool starved ++ BitVec.ofBool returnAny ++ c.state.value,
   (0#2 : BitVec 2) ++ c.clock.state.value ++ BitVec.ofNat 2 c.hold.length ++ c.occupant.1] ++
  twoBytes c.occupant.2 ++
  [bitsByte [c.rights == .guarded, c.fixed, c.activity], numberByte c.cues.length, absentAs80 (s.boundPort i)]

/-- Item 1, first page (R170). -/
def State.counterPage1 (s : State) (i : Slot) : List Byte :=
  let c := s.chan i
  c.outSeq.setWidth 8 :: (twoBytes c.fillCount ++ twoBytes c.underrunCount ++ twoBytes c.truncatedCount)

/-- Item 1, second page (R170). -/
def State.counterPage2 (s : State) (i : Slot) : List Byte :=
  let c := s.chan i
  numberByte i.val :: (twoBytes c.missCount ++ twoBytes c.ringSkipCount ++ [0, 0])

/-- Item 2, first page (R170). -/
def State.portPage1 (s : State) (p : PortId) : List Byte :=
  let q := s.port p
  [(0#4 : BitVec 4) ++ BitVec.ofBool q.hold ++ BitVec.ofBool q.seeking ++ q.mode.value,
   absentAs80 q.owner, numberByte q.queue.length] ++ twoBytes q.overflow ++ twoBytes q.drained

/-- Item 2, second page (R170). -/
def State.portPage2 (s : State) (p : PortId) : List Byte :=
  numberByte p.val :: (twoBytes (s.port p).markErrors ++ [0, 0, 0, 0])

/-- The station flags of page 0 (R149, R170). -/
def State.stationFlags (s : State) : Byte := bitsByte [s.lock, s.fixPermitted, s.rlk, s.startLatch, s.line.transmitFault]

/-- Item 3, page 0 (R170). -/
def State.stationPage0 (s : State) : List Byte :=
  [s.station.value, s.stationFlags, numberByte s.cueTotal, numberByte s.alerts.length, numberByte s.line.queue.length] ++
  twoBytes s.line.drops

/-- Item 3, page 1 (R170). -/
def State.stationPage1 (s : State) : List Byte :=
  s.stationNumber.setWidth 8 :: (twoBytes s.line.receiveErrors ++ twoBytes s.line.lineBreaks ++ twoBytes s.line.abandons)

/-- Item 3, page 2 (R170). -/
def State.stationPage2 (s : State) : List Byte :=
  s.blockBase :: (twoBytes s.line.noise ++ twoBytes s.networkMarkErrors ++ twoBytes s.ring.markErrors)

/-- Item 3, page 3 (R170). -/
def State.stationPage3 (s : State) : List Byte :=
  [s.prerollByte, s.lateLimitByte, s.rejoinMinByte] ++ twoBytes s.integrityCount ++ twoBytes s.conflictCount

/-- The slot a 4-bit index names. -/
def slotOfIndex (index : Byte) : Slot := (index.extractLsb' 0 4).toFin

/-- The port a 2-bit index names. -/
def portOfIndex (index : Byte) : PortId := (index.extractLsb' 0 2).toFin

/-- The page an item and an index name; seven bytes of FFh for an item or index outside the ranges of R149 (R150). -/
def State.page (s : State) (item index : Byte) : List Byte :=
  let n := index.toNat
  match item.toNat with
  | 0 => if n < 16 then s.channelPage (slotOfIndex index) else List.replicate 7 0xFF#8
  | 1 =>
    if n < 16 then s.counterPage1 (slotOfIndex index)
    else if n < 32 then s.counterPage2 (slotOfIndex index) else List.replicate 7 0xFF#8
  | 2 =>
    if n < 4 then s.portPage1 (portOfIndex index)
    else if n < 8 then s.portPage2 (portOfIndex index) else List.replicate 7 0xFF#8
  | 3 =>
    match n with
    | 0 => s.stationPage0
    | 1 => s.stationPage1
    | 2 => s.stationPage2
    | 3 => s.stationPage3
    | _ => List.replicate 7 0xFF#8
  | _ => List.replicate 7 0xFF#8

/-- A data response: seven data bytes and the check byte over them (R128, R135). -/
def dataResponse (bytes : List Byte) : List Byte := bytes ++ [checkByte bytes]

/-- A STATE_READ the station takes (R149). -/
def State.doStateRead (s : State) (item index : Byte) : State :=
  s.setDecision (.data (dataResponse (s.page item index)))

/-- STATE_READ (R149). -/
def execStateRead (t : Time) (h : FrameHeader) (p : BitVec 16) (s : State) : Result :=
  s.take t fun s => s.receive .stateRead h p fun s => s.ifOwn h fun s =>
    if s.station.takesReadings then s.doStateRead (p.extractLsb' 8 8) (p.extractLsb' 0 8) else s

end Sys2Proof.Machine
end

