-- ==== Sys2Proof/Machine/Setup.lean ====
section
/-!
DEFINITION. Joining, straps and reset (chapter 11): POWER_ON, RSTN_ASSERT, RSTN_RELEASE (R162, R168), QUIET_PERIOD_END (R163),
SETUP_WINDOW_EXPIRY, SETUP_TIMES, SETUP_WINDOW and SETUP_DONE (R164, R165), PRESENT_RECEIVED (R166) and
ALERT_REPORT_RECEIVED (R142).
-/
namespace Sys2Proof.Machine

/-! ## Power-on and RSTn (R162, R168) -/

/-- The straps are valid (R162). -/
def strapsValid (p : ReleaseLevels) : Bool :=
  1 ≤ p.number.toNat && p.number.toNat ≤ 62 && 1 ≤ p.base.toNat && p.base.toNat ≤ 254

/-- The straps are read and the station enters LISTEN, with the quiet start at the station timer value, or STRAP_FAULT (R162,
R163). A line that is dominant at that moment moves the quiet start to the end of its run, when that has been seen (R163). -/
def State.readStraps (s : State) (p : ReleaseLevels) : State :=
  { s with
    line          := { s.line with recessiveSince := s.timer, dominant := p.lineDominant }
    stationNumber := p.number
    blockBase     := p.base
    station       := if strapsValid p then .listen else .strapFault
    quietStart    := s.timer }

/-- A channel record after RSTn: reset, but for the rights and the fixed flag, which it keeps (R33, R112). -/
def Channel.afterRstn (c : Channel) : Channel := { Channel.reset with rights := c.rights, fixed := c.fixed }

/-- HOLD is asserted on an insert port while RSTn is asserted (R17). -/
def InsertPort.inReset : InsertPort := { InsertPort.reset with hold := true }

/-- The state while RSTn is asserted (R168): every block at its values after reset but HOLD, which is asserted; rights, fixed
flags and lock kept; the pins at their levels and the waiting commands as they are. -/
def State.enterReset (s : State) : State :=
  { State.reset with
    powered     := s.powered
    rstAsserted := true
    rlk         := s.rlk
    lock        := s.lock
    channels    := s.channels.map Channel.afterRstn
    ports       := Vector.replicate 4 InsertPort.inReset
    pending     := s.pending }

/-- The end of a reset (R168): HOLD is released and the straps are read. -/
def State.leaveReset (s : State) (p : ReleaseLevels) : State :=
  { s with rstAsserted := false, ports := Vector.replicate 4 InsertPort.reset }.readStraps p

/-- The state when power-on ends, with every block at its power-on value, before the straps are read (R168). -/
def State.powerUp (s : State) : State :=
  { State.reset with powered := true, rlk := s.rlk, pending := s.pending }

/-- POWER_ON (R162). With RSTn asserted when power-on ends the part stays in reset, and its release reads the straps. -/
def execPowerOn (p : ReleaseLevels) (s : State) : Result :=
  .next (if s.rstAsserted then s.powerUp.enterReset else s.powerUp.readStraps p)

/-- RSTN_ASSERT (R168). -/
def execRstnAssert (s : State) : Result := .next s.enterReset

/-- RSTN_RELEASE (R168): before power-on has ended the pin alone changes, and where RSTn is not asserted nothing does. -/
def execRstnRelease (p : ReleaseLevels) (s : State) : Result :=
  .next (if s.rstAsserted = false then s
    else if s.powered then s.leaveReset p
    else { s with rstAsserted := false, ports := Vector.replicate 4 InsertPort.reset })

/-! ## Joining (R163, R164) -/

/-- The quiet period has ended at t: in LISTEN the station enters SETUP, and the line is idle (R124, R163). It does not end while
the line is dominant. -/
def State.endQuiet (s : State) (t : Time) : State :=
  if s.station = .listen ∧ s.line.dominant = false ∧ quietPeriod ≤ elapsed t s.quietStart then
    { s with station := .setup, setupStart := t }.setRx .quiet
  else s

/-- QUIET_PERIOD_END (R163). -/
def execQuietPeriodEnd (t : Time) (s : State) : Result := s.take t fun s => s.endQuiet t

/-- The PRESENT frame the station raises (R153). -/
def State.raisePresent (s : State) : State := s.offer (.present s.blockBase s.station s.startLatch)

/-- The station enters ACTIVE and raises PRESENT (R164). -/
def State.enterActive (s : State) : State := { s with station := .active }.raisePresent

/-- The setup window is judged at t (R164). -/
def State.judgeSetup (s : State) (t : Time) : State :=
  if s.station = .setup ∧ limitPassed t s.setupStart setupLimit = true then s.enterActive else s

/-- SETUP_WINDOW_EXPIRY (R164). -/
def execSetupWindowExpiry (t : Time) (s : State) : Result := s.take t fun s => s.judgeSetup t

/-! ## Setup frames (R165) -/

/-- A setup frame is taken in SETUP and refused with NOT_NOW in LISTEN, ACTIVE and CLASH (R145, R165). -/
def State.takeSetup (s : State) (act : State → State) : State :=
  match s.station with
  | .setup => act s
  | .listen | .active | .clash => s.answer .notNow
  | .strapFault => s

/-- A SETUP_TIMES that is taken (R165). -/
def State.doSetupTimes (s : State) (p : BitVec 32) : State :=
  { s with
    prerollByte   := clampByte 100 (p.extractLsb' 24 8)
    lateLimitByte := clampByte 200 (p.extractLsb' 16 8)
    rejoinMinByte := p.extractLsb' 8 8
    fixPermitted  := p.getLsbD 0 }.answer .accepted

/-- SETUP_TIMES (R165). -/
def execSetupTimes (t : Time) (h : FrameHeader) (p : BitVec 32) (s : State) : Result :=
  s.take t fun s => s.receive .setupTimes h p fun s => s.ifOwn h fun s => s.takeSetup fun s => s.doSetupTimes p

/-- A SETUP_WINDOW that is taken (R165). -/
def State.doSetupWindow (s : State) (p : BitVec 72) : State :=
  match setupWindowOf p with
  | none => s.answer .field
  | some w =>
    if setupWindowIndex p = 0 then { s with window0 := w }.answer .accepted
    else if setupWindowIndex p = 1 then { s with window1 := w }.answer .accepted
    else s.answer .field

/-- SETUP_WINDOW (R165). -/
def execSetupWindow (t : Time) (h : FrameHeader) (p : BitVec 72) (s : State) : Result :=
  s.take t fun s => s.receive .setupWindow h p fun s => s.ifOwn h fun s => s.takeSetup fun s => s.doSetupWindow p

/-- SETUP_DONE (R164, R165). -/
def execSetupDone (t : Time) (h : FrameHeader) (s : State) : Result :=
  s.take t fun s => s.receive .setupDone h (0 : BitVec 0) fun s => s.ifOwn h fun s =>
    s.takeSetup fun s => s.enterActive.answer .accepted

/-! ## Clash (R166) and reports that no block takes (R142) -/

/-- The clash test applies in this station state (R166). -/
def StationState.testsClash : StationState → Bool
  | .listen | .setup | .active => true
  | .strapFault | .clash => false

/-- The station enters CLASH: the line is released and the transmit queue flushed without a count (R166). -/
def State.enterClash (s : State) : State :=
  { s with station := .clash }.setLine { s.line with queue := [], ownBreak := none }

/-- A PRESENT frame that this station did not send (R166). -/
def State.judgePresent (s : State) (source : Byte) : State :=
  if s.station.testsClash && source == s.stationNumber.setWidth 8 then s.enterClash else s

/-- PRESENT_RECEIVED (R166). -/
def execPresentReceived (t : Time) (h : FrameHeader) (p : BitVec 24) (s : State) : Result :=
  s.take t fun s => s.receive .present h p fun s => s.judgePresent h.source

/-- ALERT_REPORT_RECEIVED (R142): no block takes it. -/
def execAlertReportReceived (t : Time) (h : FrameHeader) (p : BitVec 56) (s : State) : Result :=
  s.take t fun s => s.receive .alertReport h p fun s => s

end Sys2Proof.Machine
end

