-- ==== Sys2Proof/Machine/Dispatch.lean ====
section
/-!
DEFINITION. The effect of one command on everything but the queue of commands: one arm for each row of the table.
-/
namespace Sys2Proof.Machine

/-- The effect of a command. -/
def exec (i : Instr) (s : State) : Host.Outcome State Fault Refusal :=
  match i with
  | .powerOn levels => Sys2Proof.Machine.execPowerOn levels s
  | .rstnAssert => Sys2Proof.Machine.execRstnAssert s
  | .rstnRelease levels => Sys2Proof.Machine.execRstnRelease levels s
  | .rlkChange asserted => Sys2Proof.Machine.execRlkChange asserted s
  | .networkCellArrival t cell => Sys2Proof.Machine.execNetworkCellArrival t cell s
  | .silenceExpiry t slot => Sys2Proof.Machine.execSilenceExpiry t slot s
  | .rejoinLimitExpiry t slot => Sys2Proof.Machine.execRejoinLimitExpiry t slot s
  | .starvationExpiry t slot => Sys2Proof.Machine.execStarvationExpiry t slot s
  | .insertCellArrival t port cell => Sys2Proof.Machine.execInsertCellArrival t port cell s
  | .alertCellArrival t cell => Sys2Proof.Machine.execAlertCellArrival t cell s
  | .cue t h p => Sys2Proof.Machine.execCue t h p s
  | .cueCancel t h p => Sys2Proof.Machine.execCueCancel t h p s
  | .alertOn t h p => Sys2Proof.Machine.execAlertOn t h p s
  | .alertOff t h p => Sys2Proof.Machine.execAlertOff t h p s
  | .alertExpiry t alertId => Sys2Proof.Machine.execAlertExpiry t alertId s
  | .rights t h p => Sys2Proof.Machine.execRights t h p s
  | .rightsLock t h p => Sys2Proof.Machine.execRightsLock t h p s
  | .rightsFix t h p => Sys2Proof.Machine.execRightsFix t h p s
  | .query t h p => Sys2Proof.Machine.execQuery t h p s
  | .latchClear t h p => Sys2Proof.Machine.execLatchClear t h p s
  | .stateRead t h p => Sys2Proof.Machine.execStateRead t h p s
  | .setupTimes t h p => Sys2Proof.Machine.execSetupTimes t h p s
  | .setupWindow t h p => Sys2Proof.Machine.execSetupWindow t h p s
  | .setupDone t h => Sys2Proof.Machine.execSetupDone t h s
  | .setupWindowExpiry t => Sys2Proof.Machine.execSetupWindowExpiry t s
  | .quietPeriodEnd t => Sys2Proof.Machine.execQuietPeriodEnd t s
  | .cutFrameReceived t h p => Sys2Proof.Machine.execCutFrameReceived t h p s
  | .peerDeadlineExpiry t cueId => Sys2Proof.Machine.execPeerDeadlineExpiry t cueId s
  | .presentReceived t h p => Sys2Proof.Machine.execPresentReceived t h p s
  | .alertReportReceived t h p => Sys2Proof.Machine.execAlertReportReceived t h p s
  | .transmitStart t => Sys2Proof.Machine.execTransmitStart t s
  | .arbitrationLoss t n => Sys2Proof.Machine.execArbitrationLoss t n s
  | .cleanSend t => Sys2Proof.Machine.execCleanSend t s
  | .bitError t n => Sys2Proof.Machine.execBitError t n s
  | .lineBreak t => Sys2Proof.Machine.execLineBreak t s
  | .receiveError t o => Sys2Proof.Machine.execReceiveError t o s
  | .checkError t bytes => Sys2Proof.Machine.execCheckError t bytes s
  | .noisePulse t => Sys2Proof.Machine.execNoisePulse t s
  | .responseByte t line => Sys2Proof.Machine.execResponseByte t line s
  | .lineIdle t => Sys2Proof.Machine.execLineIdle t s

end Sys2Proof.Machine
end

