-- ==== Sys2Proof/Safety.lean ====
section
/-!
DEFINITION. What a lawful state of the part is: the laws of the device that the manual's chapters state, as predicates on a
state, and the situations that the statements about single commands speak of (a part that hears a frame, a slot event that
leaves the clock alone, the state with a response window open).
-/
namespace Sys2Proof.Safety

open Sys2Proof Sys2Proof.Machine

/-! ## The laws of the device -/

/-- The records of a channel: the active one and the held ones (R34). -/
def records (c : Channel) : List Record := c.active.toList ++ c.hold

/-- The alert table law (R93): at most 8 records with distinct ids, each of level 1 to 7, and an OBSERVE record's channel set
is empty. -/
def AlertTableLaw (s : State) : Prop :=
  s.alerts.length ≤ 8 ∧ (s.alerts.map (·.alertId)).Nodup ∧
  ∀ r ∈ s.alerts, 1 ≤ r.level ∧ r.level ≤ 7 ∧ (r.mode = .observe → r.channelSet = 0)

/-- The drive law (R124, R168): the cue line is driven in SETUP and ACTIVE alone, and not by a part that is held; and an own line
break that the line has not recovered from was begun there. -/
def DriveLaw (s : State) : Prop :=
  s.drivesLine = true ∨ s.line.ownBreak.isSome = true → s.isHeld = false ∧ (s.station = .setup ∨ s.station = .active)

/-- The guard law (R113): a GUARDED channel has no break record, active or held, and no cue list entry. -/
def GuardLaw (s : State) : Prop :=
  ∀ i, (s.chan i).rights = .guarded → (∀ r ∈ records (s.chan i), r.break? = none) ∧ (s.chan i).cues = []

/-- The law of one insert port (section 1.3, R5, R7): no owner exactly when FREE, at most 48 cells, an empty queue in DRAIN, no
seeking in DRAIN and FREE, and a seeking port keeps an eligible unit start at its head. -/
def PortLaw (q : InsertPort) : Prop :=
  (q.owner = none ↔ q.mode = .free) ∧ q.queue.length ≤ 48 ∧
  (q.mode = .drain → q.queue = []) ∧ (q.seeking = true → q.mode = .reserved ∨ q.mode = .live) ∧
  (q.seeking = true → ∀ c ∈ q.queue.head?, isUnitStart c = true)

/-- The HOLD law of one insert port (R6): asserted from depth 40 on, released up to depth 24. -/
def HoldPinLaw (q : InsertPort) : Prop :=
  (40 ≤ q.queue.length → q.hold = true) ∧ (q.queue.length ≤ 24 → q.hold = false)

/-- Every insert port keeps its law, and HOLD follows the depth while RSTn is released (R17). -/
def PortsLaw (s : State) : Prop :=
  ∀ p, PortLaw (s.port p) ∧ (s.rstAsserted = false → HoldPinLaw (s.port p))

/-- The transmit queue law (R132, R137): at most 8 frames, in order of priority, none retried more than three times, and at
most one in flight. -/
def TxQueueLaw (s : State) : Prop :=
  s.line.queue.length ≤ 8 ∧ s.line.queue.Pairwise (fun f g => f.report.priority ≤ g.report.priority) ∧
  (∀ f ∈ s.line.queue, f.retries ≤ 3) ∧ (s.line.queue.filter (·.inFlight)).length ≤ 1

/-- What the state of a channel implies for its records (the table of R35, R37). -/
def recordsFit (c : Channel) : Prop :=
  match c.state with
  | .network | .cutWait => c.active = none ∧ c.hold = []
  | .onBreak | .rejoinWait => (∃ b, c.active = some (.brk b)) ∧ c.hold = []
  | .returnWait => (∀ a, c.active ≠ some (.alert a)) ∧ c.hold = []
  | .alertWait => ∃ a, c.active = some (.alert a) ∧ a.offset = none
  | .alert => ∃ a, c.active = some (.alert a) ∧ a.offset.isSome = true

/-- The channel record law (R33 to R37): the records fit the state, at most 3 are held and only the bottom one is a break, every
alert reference has a level of 1 to 7 and a held one has no D, and the fields of RETURN_WAIT and of the alert states are present
there alone. -/
def ChannelLaw (c : Channel) : Prop :=
  recordsFit c ∧ c.hold.length ≤ 3 ∧ (∀ r ∈ c.hold.tail, r.break? = none) ∧
  (∀ a, Record.alert a ∈ records c → 1 ≤ a.level ∧ a.level ≤ 7) ∧
  (∀ a, Record.alert a ∈ c.hold → a.offset = none) ∧
  (c.returnCondition.isSome = true ↔ c.state = .returnWait) ∧
  (c.returnCondition = some .afterBreak → c.activeBreak.isSome = true) ∧
  (c.returnReport.isSome = true → c.state = .returnWait ∧ c.activeBreak.isSome = true) ∧
  (c.reader.isSome = true ↔ c.state = .alertWait ∨ c.state = .alert) ∧
  (c.starved = true → c.state = .alertWait)

/-- Every channel keeps its record law. -/
def ChannelsLaw (s : State) : Prop := ∀ i, ChannelLaw (s.chan i)

/-- The cue law of one channel (R33, R67, R73): at most 8 entries with distinct ids; a channel in CUT_WAIT has one entry in
CUT_WAIT, its pending entry, and none in PORT_WAIT; no other channel has an entry in CUT_WAIT, and at most one is in PORT_WAIT; an
entry has a splice time exactly when it is not WAIT_PEER; durations are clamped. -/
def CueLaw (c : Channel) : Prop :=
  c.cues.length ≤ 8 ∧ (c.cues.map (·.cueId)).Nodup ∧
  (c.pendingEntry.isSome = true ↔ c.state = .cutWait) ∧
  (∀ id, c.pendingEntry = some id → (c.entry id).isSome = true) ∧
  (∀ e ∈ c.cues, e.state = .cutWait ↔ c.pendingEntry = some e.cueId) ∧
  (c.cues.filter fun e => e.state == .portWait).length ≤ 1 ∧
  (c.state = .cutWait → c.hasPortWait = false) ∧
  (∀ e ∈ c.cues, e.splice.isSome = e.isTimed) ∧
  (∀ e ∈ c.cues, 1000 ≤ e.duration ∧ e.duration ≤ 14400000)

/-- Every channel keeps its cue law, and the whole list holds at most 64 entries (R67). -/
def CuesLaw (s : State) : Prop := (∀ i, CueLaw (s.chan i)) ∧ s.cueTotal ≤ 64

/-- The timed law (R57, R67): the entries of a channel that have a splice time stand before those that have none, and the intervals of
any two of them are disjoint. -/
def TimedLaw (s : State) : Prop :=
  ∀ i, (s.chan i).cues.Pairwise fun e f =>
    (e.splice = none → f.splice = none) ∧
    (e.splice.any fun a => f.splice.any fun b => intervalsOverlap a (1000 * e.duration) b (1000 * f.duration)) = false

/-- The insert port that the state of a channel binds to it, the mode of that port, and whether it is seeking (R7, R35). -/
def boundPort (c : Channel) : Option (PortId × PortMode × Bool) :=
  match c.state with
  | .network => none
  | .cutWait => c.cutWaitEntry.map fun e => (e.port, .reserved, true)
  | .onBreak => c.activeBreak.map fun b => (b.port, .live, false)
  | .rejoinWait => c.activeBreak.map fun b => (b.port, .live, true)
  | .returnWait => c.activeBreak.map fun b => (b.port, .drain, false)
  | .alertWait | .alert => c.heldBreak.map fun b => (b.port, .drain, false)

/-- The binding law (R35, the mode table of section 1.3): a channel owns the port that its state binds to it, in the mode that goes with
the state, and no other port; and a part that is held has no owned port. -/
def BindingLaw (s : State) : Prop :=
  (s.isHeld = true → ∀ p, (s.port p).owner = none) ∧
  ∀ i p, ((s.port p).owner = some i → boundPort (s.chan i) = some (p, (s.port p).mode, (s.port p).seeking)) ∧
    ∀ mode seeking, boundPort (s.chan i) = some (p, mode, seeking) → (s.port p).owner = some i

/-- The cue ids a channel uses, by its entries and its break records. -/
def usedIds (c : Channel) : List Ident := c.cues.map (·.cueId) ++ (records c).filterMap fun r => r.break?.map (·.cueId)

/-- The cue id law (R67): no cue id appears twice among the entries and the break records of the station. -/
def IdLaw (s : State) : Prop := (Config.slots.flatMap fun i => usedIds (s.chan i)).Nodup

/-- The loss law (R28, R29): a channel in NO_CLOCK holds no break record, and its entries are all in WAIT_PEER. -/
def LossLaw (s : State) : Prop :=
  ∀ i, (s.chan i).clock.state = .noClock →
    (∀ r ∈ records (s.chan i), r.break? = none) ∧ ∀ e ∈ (s.chan i).cues, e.isTimed = false

/-- The key law (R37): a channel's hold stack is in ascending key order, and its active record's key exceeds every held key;
and every alert reference is to an OVERRIDE record of the table, of its level. -/
def KeyLaw (s : State) : Prop :=
  ∀ i, (s.chan i).hold.Pairwise (fun lower upper => s.keyGreater upper lower = true) ∧
    (∀ top ∈ (s.chan i).active, ∀ r ∈ (s.chan i).hold, s.keyGreater top r = true) ∧
    (∀ a, Record.alert a ∈ records (s.chan i) →
      ∃ r ∈ s.alerts, r.alertId = a.alertId ∧ r.level = a.level ∧ r.mode = .override)

/-- The channel set law (R105): a channel is in an alert record's channel set if and only if that alert is the channel's active
record or in its hold stack. -/
def ChannelSetLaw (s : State) : Prop :=
  ∀ r ∈ s.alerts, ∀ i, inMask r.channelSet i = (records (s.chan i)).any (Record.refersTo r.alertId)

/-- The ring law (R12 to R14, R103): the newest unit start is one; a positioned reader has at most 96 cells unread and reaches
the writer index with them; and the reader of a channel in ALERT_WAIT stands at an unread eligible unit start. -/
def RingLaw (s : State) : Prop :=
  (∀ p ∈ s.ring.newest, s.ring.cells[p].any isUnitStart = true) ∧
  ∀ i p n, (s.chan i).reader = some (.positioned p n) →
    n ≤ 96 ∧ (p.val + n) % 96 = s.ring.writer.val ∧
    ((s.chan i).state = .alertWait → 1 ≤ n ∧ s.ring.cells[p].any isUnitStart = true)

/-- The cells sent for a channel, in order. -/
def sentFor (s : State) (i : Slot) : List StreamCell := s.sout.filter fun c => c.tag == s.tagOf i

/-- The sequence law (R16): the cells sent for a channel since reset carry the sequence counts 0, 1, 2 and so on modulo 16, out_seq
is the next one, and a part that is held has sent none. -/
def SequenceLaw (s : State) : Prop :=
  (s.isHeld = true → s.sout = []) ∧
  ∀ i, (sentFor s i).map (·.seq) = (List.range (sentFor s i).length).map (BitVec.ofNat 4) ∧
    (s.chan i).outSeq = BitVec.ofNat 4 (sentFor s i).length

/-- The settings law (R65, R162): the setup values stay in their ranges, and outside STRAP_FAULT the station number is 1 to 62 and
the block base 1 to 254. -/
def SettingsLaw (s : State) : Prop :=
  s.prerollByte.toNat ≤ 100 ∧ s.lateLimitByte.toNat ≤ 200 ∧
  (s.station ≠ .strapFault →
    1 ≤ s.stationNumber.toNat ∧ s.stationNumber.toNat ≤ 62 ∧ 1 ≤ s.blockBase.toNat ∧ s.blockBase.toNat ≤ 254)

/-! ## Situations that statements speak of -/

/-- The bytes with one bit inverted: bit slot n of the frame, most significant bit of each byte first (R126). -/
def invertBit (bytes : List Byte) (n : Nat) : List Byte := bytes.modify (n / 8) fun b => b ^^^ (0x80#8 >>> (n % 8))

/-- The part runs and hears a frame of another station from its start mark on (log entry 5). -/
def Hears (s : State) : Prop := s.isHeld = false ∧ s.canReceive = true

/-- The station is in SETUP or ACTIVE, where it drives the line. -/
def InService (s : State) : Prop := s.station = .setup ∨ s.station = .active

/-- The source of a frame is a station number (R140). -/
def fromStation (h : FrameHeader) : Prop := 1 ≤ h.source.toNat ∧ h.source.toNat ≤ 62

/-- A frame of another station to this station's number alone (R140, R141). -/
def ToOwn (s : State) (h : FrameHeader) : Prop := h.destination = s.stationNumber.setWidth 8 ∧ fromStation h

/-- A frame of another station to this station's number or to all stations (R140, R141). -/
def ToGroup (s : State) (h : FrameHeader) : Prop :=
  (h.destination = s.stationNumber.setWidth 8 ∨ h.destination = 63#8) ∧ fromStation h

/-- The state s at the end-of-data, at t, of a frame of this response type, with the station's response decided (R129, R146); the
line has been recessive since the end of its last byte, 24 µs before (R127). -/
def answered (s : State) (t : Time) (type : ResponseType) (d : Decision) : State :=
  { s with
    timer := t
    line := { s.line with rx := .window { type := type, seen := 0, decision := d }, recessiveSince := t - 24#36, dominant := false } }

/-- A station of this number contends for a group-list window when it responds and its number is above the floor. -/
def numberAbove (s : State) (floor : Nat) (responds : Prop) [Decidable responds] : Decision :=
  if responds ∧ floor < s.stationNumber.toNat then .number else .silent

/-- A 16-bit count one higher, saturating at 65,535. -/
def bumped (c : Count) : Count := if c = 65535#16 then c else c + 1

/-- A network cell of channel i reaches its channel unit: its start gate is open, or it is the eligible unit start that opens it
(R3, R4). -/
def Reaches (s : State) (i : Slot) (cell : StreamCell) : Prop :=
  s.isHeld = false ∧ s.station ≠ .strapFault ∧ cell.mark = cellMark ∧ cell.tag = s.tagOf i ∧ cell.tag ≠ 0 ∧
  ((s.chan i).gateOpen = true ∨ cell.unit = true ∧ cell.stamp = true)

/-- The clock after the stamp arrival of a slot event at t that finds neither silence nor a jump (R20 to R24). -/
def clockAfter (k : Clock) (t : Time) (cell : StreamCell) : Clock :=
  if cell.stamp then
    { lastStamp := cell.time, lastTime := t
      state := match k.state with
        | .noClock => .acquiring
        | .acquiring => if (signed cell.time (k.predict t)).natAbs ≤ 100000 ∧ cell.disc = false then .locked else .acquiring
        | .locked => .locked }
  else k

/-- The slot event at t finds no silence, no jump, no held break and no cue entry on the channel, so that it changes nothing but
the clock before its output is chosen. -/
def Undisturbed (c : Channel) (t : Time) (cell : StreamCell) : Prop :=
  c.clock.silent t = false ∧
  (cell.stamp = true → c.clock.state = .locked → c.clock.agrees cell.time t cell.disc = true) ∧
  c.heldBreak = none ∧ c.cues = []

/-- The cell as channel i sends it: its mark, tag, sequence count and DISC rewritten (R15). -/
def sentAs (s : State) (i : Slot) (cell : StreamCell) (disc : Bool) : StreamCell :=
  { cell with mark := 0xB8#8, tag := s.tagOf i, seq := (s.chan i).outSeq, disc := cell.disc || disc }

/-- The fill cell as channel i sends it (R2, R15, R43). -/
def fillOf (s : State) (i : Slot) : StreamCell where
  mark    := 0xB8#8
  tag     := s.tagOf i
  seq     := (s.chan i).outSeq
  unit    := false
  stamp   := false
  disc    := (s.chan i).discDue
  fill    := true
  time    := 0
  payload := List.replicate 152 0

/-- The state after a slot event of channel i at t that left the channel this record, sent this cell, and did nothing else. -/
def slotDone (s : State) (t : Time) (i : Slot) (c : Channel) (out : StreamCell) : State :=
  { s with timer := t, channels := s.channels.set i c, sout := s.sout ++ [out] }

/-- HOLD of a port whose queue now has this depth (R6). -/
def holdAt (depth : Nat) (before : Bool) : Bool := if 40 ≤ depth then true else if depth ≤ 24 then false else before

/-- No entry waits in PORT_WAIT for the port on a channel in NETWORK, so the arbiter finds none when the port is freed (R10). -/
def NoneWaits (s : State) (p : PortId) : Prop :=
  ∀ j, (s.chan j).state = .network → ∀ e ∈ (s.chan j).cues, e.waitsFor p = false

/-- The port as a release leaves it when the arbiter grants it to none (R10). -/
def freed (q : InsertPort) : InsertPort :=
  { q with queue := [], hold := false, drained := countAdd q.drained q.queue.length, seeking := false, mode := .free, owner := none }

/-- The port as a drain request leaves it (R9). -/
def drained (q : InsertPort) : InsertPort :=
  { q with queue := [], hold := false, drained := countAdd q.drained q.queue.length, seeking := false, mode := .drain }

/-- The channel record after a slot event at t that sent one cell and changed nothing else (R20, R43). -/
def carried (s : State) (t : Time) (i : Slot) (cell : StreamCell) : Channel :=
  { s.chan i with gateOpen := true, clock := clockAfter (s.chan i).clock t cell, outSeq := (s.chan i).outSeq + 1, discDue := false }

/-- The outcome of a CUE with these fields that an ACTIVE station takes at t: the checks of R68 and R69 in their order, the first
that fails deciding. -/
def cueOutcome (s : State) (t : Time) (f : CueFields) : OutcomeCode :=
  let c := s.chan f.slot
  let d := signed f.splice (c.clock.lastStamp + (t - c.clock.lastTime))
  let len := breakLength (clampDuration f.duration)
  let others := c.cues.filter fun e => e.cueId != f.cueId
  let timed := f.peerTrigger = false
  if (timed ∧ f.triggerHigh ≠ 0) ∨ (¬ timed ∧ (f.peerStation = 0 ∨ 62 < f.peerStation.toNat)) then .field
  else if c.rights = .guarded then .guarded
  else if ∃ j : Slot, j ≠ f.slot ∧ f.cueId ∈ usedIds (s.chan j) then .idClash
  else if (∃ e ∈ c.cues, e.cueId = f.cueId ∧ e.state = .cutWait) ∨
      (∃ r ∈ records c, r.break?.map (·.cueId) = some f.cueId) then .inProgress
  else if timed ∧ c.clock.state ≠ .locked then .noClock
  else if timed ∧ d < -(10000 * s.lateLimitByte.toNat : Int) then .tooLate
  else if timed ∧ 14400000000 < d then .tooFar
  else if timed ∧ ((∃ e ∈ others, e.splice.any (fun se => intervalsOverlap f.splice len se (1000 * e.duration)) = true) ∨
      (∃ r ∈ records c, r.break?.any (fun b => intervalsOverlap f.splice len
        (b.returnPoint - BitVec.ofNat 36 (1000 * b.duration)) (1000 * b.duration)) = true)) then .overlap
  else if 64 + c.cues.length ≤ s.cueTotal + others.length ∨ 8 ≤ others.length then .full
  else if ∃ e ∈ c.cues, e.cueId = f.cueId then .replaced else .accepted

/-- The channel's part of the cue list with the entry of an admitted CUE in it (R70): a timed entry behind those whose splice time it
is at or after, one without a splice time at the end. -/
def cuePlaced (c : Channel) (e : CueEntry) : List CueEntry :=
  let others := c.cues.filter fun x => x.cueId != e.cueId
  match e.splice with
  | some sp =>
    let before := fun x : CueEntry => x.splice.any fun sx => atOrAfter sp sx
    others.takeWhile before ++ [e] ++ others.dropWhile before
  | none => others ++ [e]

/-! ## Which commands a whole-machine rule speaks of -/

/-- The commands of power-on and of the RSTn pin. -/
def isReset : Instr → Bool
  | .powerOn _ | .rstnAssert | .rstnRelease _ => true
  | _ => false

/-- The commands that a part in reset still takes: those of power-on and of its pins. -/
def takenInReset : Instr → Bool
  | .powerOn _ | .rstnAssert | .rstnRelease _ | .rlkChange _ => true
  | _ => false

/-- The station time, the header, the kind and the bytes before the check byte of a command that is a frame of another station
(R142, R169). -/
def frameOf : Instr → Option (Time × FrameHeader × FrameKind × List Byte)
  | .cue t h p => some (t, h, .cue, receivedBytes .cue h p)
  | .cueCancel t h p => some (t, h, .cueCancel, receivedBytes .cueCancel h p)
  | .alertOn t h p => some (t, h, .alertOn, receivedBytes .alertOn h p)
  | .alertOff t h p => some (t, h, .alertOff, receivedBytes .alertOff h p)
  | .rights t h p => some (t, h, .rights, receivedBytes .rights h p)
  | .rightsLock t h p => some (t, h, .rightsLock, receivedBytes .rightsLock h p)
  | .rightsFix t h p => some (t, h, .rightsFix, receivedBytes .rightsFix h p)
  | .query t h p => some (t, h, .query, receivedBytes .query h p)
  | .latchClear t h p => some (t, h, .latchClear, receivedBytes .latchClear h p)
  | .stateRead t h p => some (t, h, .stateRead, receivedBytes .stateRead h p)
  | .setupTimes t h p => some (t, h, .setupTimes, receivedBytes .setupTimes h p)
  | .setupWindow t h p => some (t, h, .setupWindow, receivedBytes .setupWindow h p)
  | .setupDone t h => some (t, h, .setupDone, receivedBytes .setupDone h (0 : BitVec 0))
  | .cutFrameReceived t h p => some (t, h, .cut, receivedBytes .cut h p)
  | .presentReceived t h p => some (t, h, .present, receivedBytes .present h p)
  | .alertReportReceived t h p => some (t, h, .alertReport, receivedBytes .alertReport h p)
  | _ => none

end Sys2Proof.Safety
end

