-- ==== Sys2Proof/Certificates/Slice0/Obligations.lean ====
section
/-!
DEFINITION. The statements about the SZ-1640 for the provers, chapter by chapter. A statement about a command says what exec answers
under hypotheses on the state and the operands alone; a statement about the device is a law of Safety.lean that every step keeps.
Where a command arrives at the station time it brings, the timer of the next state is that time (log entry 2), and a frame is heard
under the convention of log entry 5: both are the model's choices and are no part of a rule that a statement cites.
-/

open Sys2Proof Sys2Proof.Machine Sys2Proof.Safety

/-! ## The machine -/

/-- The command at the front of the queue is run on the state with the queue's rest; on an empty queue the block idles, which is the
model's choice (log entry 2). -/
def Obligations.StepRunsFrontCommand : Prop :=
  (∀ (c : Instr) (rest : List Instr) (s : State), step { s with pending := c :: rest } = exec c { s with pending := rest }) ∧
  (∀ s : State, s.pending = [] → step s = .next s)

/-- State.reset, the part before power-on has ended (log entry 1), holds in every block the value the manual gives after power-on: the
channel record of R33 with its start gate (R4), clock (R31), rights (R112) and cues (R67); the ports and the ring (R17); the station
timer (R18), start latch (R159), setup values (R65), flags of the rights unit (R112), alert unit (R91, R111) and the line interface in
RECOVER with every count 0. The rest is the model's choice: HOLD released there (log entry 20), the recessive period counted from 0
(log entry 6), no cell sent yet in the model's own log (log entry 11) and no command waiting (log entry 1). -/
def Obligations.ResetLeavesTheManualsValues : Prop :=
  (∀ i : Slot,
    let c := State.reset.chan i
    c.gateOpen = false ∧ c.state = .network ∧ c.returnCondition = none ∧ c.returnReport = none ∧ c.clock = ⟨.noClock, 0, 0⟩ ∧
    c.active = none ∧ c.hold = [] ∧ c.pendingEntry = none ∧ c.rights = .guarded ∧ c.fixed = false ∧ c.activity = false ∧
    c.outSeq = 0 ∧ c.discDue = true ∧ c.reader = none ∧ c.alertWaitTime = 0 ∧ c.rejoinWaitTime = 0 ∧ c.starved = false ∧
    c.fillCount = 0 ∧ c.underrunCount = 0 ∧ c.truncatedCount = 0 ∧ c.missCount = 0 ∧ c.ringSkipCount = 0 ∧ c.cues = []) ∧
  (∀ p : PortId, State.reset.port p = ⟨[], .free, none, false, false, 0, 0, 0⟩) ∧
  ((∀ p : RingPos, State.reset.ring.cells[p] = none) ∧ State.reset.ring.writer = 0 ∧ State.reset.ring.newest = none ∧
    State.reset.ring.markErrors = 0) ∧
  State.reset.timer = 0 ∧ State.reset.startLatch = true ∧
  State.reset.prerollByte = 40 ∧ State.reset.lateLimitByte = 50 ∧ State.reset.rejoinMinByte = 20 ∧
  State.reset.lock = false ∧ State.reset.fixPermitted = false ∧ State.reset.networkMarkErrors = 0 ∧ State.reset.alerts = [] ∧
  State.reset.window0 = ⟨0x0000, 0xFFFF, .either, .override, 0xFFFF⟩ ∧
  State.reset.window1 = ⟨0x0000, 0xFFFF, .disabled, .override, 0xFFFF⟩ ∧
  State.reset.integrityCount = 0 ∧ State.reset.conflictCount = 0 ∧
  State.reset.line = ⟨.recover, [], false, none, 0, false, 0, 0, 0, 0, 0⟩ ∧ State.reset.sout = [] ∧ State.reset.pending = []

/-- Every law of the device of Safety.lean holds in the reset state. -/
def Obligations.LawsHoldAtReset : Prop :=
  AlertTableLaw State.reset ∧ DriveLaw State.reset ∧ GuardLaw State.reset ∧ PortsLaw State.reset ∧ TxQueueLaw State.reset ∧
  ChannelsLaw State.reset ∧ CuesLaw State.reset ∧ IdLaw State.reset ∧ LossLaw State.reset ∧ KeyLaw State.reset ∧
  ChannelSetLaw State.reset ∧ RingLaw State.reset ∧ SequenceLaw State.reset ∧ SettingsLaw State.reset ∧ BindingLaw State.reset ∧
  TimedLaw State.reset

/-- While RSTn is asserted or power-on has not ended (log entries 1 and 4), a command that is not power-on or a change of a pin does
nothing. -/
def Obligations.HeldPartTakesNoOtherCommand : Prop :=
  ∀ (c : Instr) (s : State), s.isHeld = true → takenInReset c = false → exec c s = .next s

/-- What power-on, the two edges of RSTn and a change of RLK do. Power-on ends with every block at its value after reset, the straps
read, and the station in LISTEN or, with straps outside their ranges, in STRAP_FAULT, with the recessive period of the line counted from
there, or from the end of the run when the line is dominant (sections 11.1, 11.2, 11.5). While RSTn is asserted every
block holds its value after reset, HOLD is asserted, and rights, fixed flags and lock are kept (sections 1.5, 11.5); its release reads the
straps. That the recessive period counts from timer value 0 at power-on and at the release, with the line dominant or not as the command
says, is the model's choice (log entry 6); the station state and the strap values of a part that is held are its placeholders (log entry
1); and RSTn before power-on, or released twice, is its reading (log entry 4). -/
def Obligations.ResetCommandsSetEveryBlock : Prop :=
  ∀ (s : State) (levels : ReleaseLevels),
    let joined (u : State) : State :=
      { u with stationNumber := levels.number, blockBase := levels.base, quietStart := 0,
               line := { u.line with recessiveSince := 0, dominant := levels.lineDominant },
               station := if 1 ≤ levels.number.toNat ∧ levels.number.toNat ≤ 62 ∧ 1 ≤ levels.base.toNat ∧ levels.base.toNat ≤ 254
                 then .listen else .strapFault }
    (s.rstAsserted = false → exec (.powerOn levels) s =
      .next (joined { State.reset with powered := true, rlk := s.rlk, pending := s.pending })) ∧
    (s.rstAsserted = true → exec (.powerOn levels) s =
      .next { State.reset with powered := true, rstAsserted := true, rlk := s.rlk, pending := s.pending,
                               ports := Vector.replicate 4 { InsertPort.reset with hold := true } }) ∧
    exec .rstnAssert s = .next
      { State.reset with
        powered := s.powered, rstAsserted := true, rlk := s.rlk, lock := s.lock, pending := s.pending
        channels := s.channels.map fun c => { Channel.reset with rights := c.rights, fixed := c.fixed }
        ports := Vector.replicate 4 { InsertPort.reset with hold := true } } ∧
    (s.powered = true → s.rstAsserted = true → s.timer = 0 → exec (.rstnRelease levels) s =
      .next (joined { s with rstAsserted := false, ports := Vector.replicate 4 InsertPort.reset })) ∧
    (s.powered = false → s.rstAsserted = true → exec (.rstnRelease levels) s =
      .next { s with rstAsserted := false, ports := Vector.replicate 4 InsertPort.reset }) ∧
    (s.rstAsserted = false → exec (.rstnRelease levels) s = .next s) ∧
    (∀ level : Bool, exec (.rlkChange level) s = .next { s with rlk := level })

/-! ## Arithmetic, cells and frames -/

/-- R50, and the order of times of section 4.1: sums and differences of times are modulo M = 2^36, every duration that is added is at most 14,400,000,000 µs, and the
signed difference and the order of times are as defined there, H being 2^35. -/
def Obligations.TimesAddAndCompareModuloM : Prop :=
  ∀ x y : Time,
    ((x + y).toNat = if 68719476736 ≤ x.toNat + y.toNat then x.toNat + y.toNat - 68719476736 else x.toNat + y.toNat) ∧
    ((diff x y).toNat = if y.toNat ≤ x.toNat then x.toNat - y.toNat else 68719476736 - y.toNat + x.toNat) ∧
    (∀ us : Nat, us ≤ 14400000000 → (addMicros x us).toNat =
      if 68719476736 ≤ x.toNat + us then x.toNat + us - 68719476736 else x.toNat + us) ∧
    (∀ ms : Nat, breakLength (clampDuration ms) ≤ 14400000000) ∧
    (∀ p : BitVec 96, (cueFields p).peerOffset * 1000 ≤ 14400000000) ∧
    (signed x y = if (diff x y).toNat < 34359738368 then ((diff x y).toNat : Int) else ((diff x y).toNat : Int) - 68719476736) ∧
    (-34359738368 ≤ signed x y ∧ signed x y ≤ 34359738367) ∧
    (atOrAfter x y = true ↔ (diff x y).toNat < 34359738368) ∧ (atOrAfter x y = true ↔ 0 ≤ signed x y) ∧
    (atOrAfter x y = false ↔ signed x y < 0) ∧
    ((signed x y).natAbs = if 0 ≤ signed x y then (signed x y).toNat else (-(signed x y)).toNat)

/-- Two intervals overlap exactly when each begins before the other ends; the earlier one decides, and intervals that touch do
not overlap (section 4.3). -/
def Obligations.IntervalsOverlapWhenEachBeginsInTheOther : Prop :=
  ∀ (a b : Time) (la lb : Nat), 0 < la → 0 < lb →
    (intervalsOverlap a la b lb = true ↔ signed b a < la ∧ signed a b < lb) ∧
    (atOrAfter b a = true → signed a b ≤ 0 ∧ (intervalsOverlap a la b lb = true ↔ signed b a < la)) ∧
    (atOrAfter b a = false → (intervalsOverlap a la b lb = true ↔ signed a b < lb)) ∧
    (signed b a = la → intervalsOverlap a la b lb = false)

/-- Every field of a cell header survives its eight bytes, in both directions (section 12.1). -/
def Obligations.CellHeaderRoundTrips : Prop :=
  (∀ c : StreamCell, cellOfHeaderBits (cellHeaderBits c) c.payload = c) ∧
  (∀ (w : BitVec 64) (payload : List Byte),
    cellHeaderBits (cellOfHeaderBits w payload) = w ∧ (cellOfHeaderBits w payload).payload = payload)

/-- The payloads of CUT, CUE, ALERT_ON, QUERY and SETUP_WINDOW, written out field by field at the places of section 12.1, are read
back as those fields. -/
def Obligations.PayloadLayoutsRoundTrip : Prop :=
  (∀ (tag : BitVec 12) (kind : CutKind) (cueId : Ident) (reason : CutReason) (stamp : Time) (late : Byte),
    let f := cutFields (cutPayload tag kind cueId reason stamp late)
    f = ⟨tag, kind.value, cueId, reason.value, stamp, late⟩ ∧ CutKind.ofValue f.kind = some kind) ∧
  (∀ (cueId : Ident) (slot : BitVec 4) (port : BitVec 2) (early : Bool) (splice : Time) (duration : BitVec 24) (wait : Byte),
    let f := cueFields (cueId ++ slot ++ port ++ BitVec.ofBool early ++ 0#1 ++ 0#4 ++ splice ++ duration ++ wait)
    f.cueId = cueId ∧ f.slot = slot.toFin ∧ f.port = port.toFin ∧ f.earlyReturn = early ∧ f.peerTrigger = false ∧
      f.triggerHigh = 0 ∧ f.splice = splice ∧ f.duration = duration.toNat ∧ f.peerWait = wait.toNat) ∧
  (∀ (cueId : Ident) (slot : BitVec 4) (port : BitVec 2) (early : Bool) (station : Byte) (peerCue offset : BitVec 16)
      (duration : BitVec 24) (wait : Byte),
    let f := cueFields (cueId ++ slot ++ port ++ BitVec.ofBool early ++ 1#1 ++ station ++ peerCue ++ offset ++ duration ++ wait)
    f.cueId = cueId ∧ f.slot = slot.toFin ∧ f.port = port.toFin ∧ f.earlyReturn = early ∧ f.peerTrigger = true ∧
      f.peerStation = station ∧ f.peerCueId = peerCue ∧ f.peerOffset = offset.toNat ∧ f.duration = duration.toNat ∧
      f.peerWait = wait.toNat) ∧
  (∀ (alertId : Ident) (region : BitVec 16) (test : Bool) (level : BitVec 3) (inverted : BitVec 24) (duration : BitVec 16) (floor : Byte),
    let f := alertOnFields (alertId ++ region ++ (0#4 ++ BitVec.ofBool test ++ level) ++ inverted ++ duration ++ floor)
    f.alertId = alertId ∧ f.region = region ∧ f.level = level.toNat ∧ f.scope = (if test then .test else .live) ∧
      f.inverted = inverted ∧ f.duration = duration.toNat ∧ f.floor = floor.toNat ∧
      (f.intact = true ↔ inverted = ~~~ (region ++ (0#4 ++ BitVec.ofBool test ++ level)) ∧ level ≠ 0)) ∧
  (∀ (floor : Byte) (mask : ChanMask) (all inverts : Bool) (test : BitVec 3),
    queryFields (floor ++ mask ++ (0#3 ++ BitVec.ofBool all ++ BitVec.ofBool inverts ++ test)) = ⟨floor.toNat, mask, test, inverts, all⟩) ∧
  (∀ (index : Byte) (base mask set : BitVec 16) (scope : WindowScope) (mode : AlertMode),
    let code : Byte := match scope with | .liveOnly => 0 | .testOnly => 1 | .either => 2 | .disabled => 3
    let modeCode : Byte := match mode with | .override => 0 | .observe => 1
    let p : BitVec 72 := index ++ base ++ mask ++ code ++ modeCode ++ set
    setupWindowIndex p = index ∧ setupWindowOf p = some ⟨base, mask, scope, mode, set⟩)

/-- Every frame the part sends passes the receiver's check, kind and length (section 8.3, section 9.2). -/
def Obligations.SentFramesAreJudgedIntact : Prop :=
  ∀ (number : StationNo) (r : Report), judgeFrame (r.frameBytes number) = .intact

/-- A frame read with any one bit inverted, in the check byte or before it, is a check error (section 8.3). -/
def Obligations.OneInvertedBitIsACheckError : Prop :=
  ∀ (covered : List Byte) (bit : Nat), bit < 8 * (covered.length + 1) →
    judgeFrame (invertBit (covered ++ [checkByte covered]) bit) = .checkError

/-! ## Streams and channel clocks (chapters 1 to 3) -/

/-- The network input discards a cell with a bad mark, counting it, and a null cell, a cell of another station, any cell in
STRAP_FAULT and a cell at a closed start gate without a count; a channel in NETWORK carries every other cell of its own, with the
header fields rewritten, where nothing else falls due at the slot event (sections 1.2, 1.5, 2.3, 3.5). -/
def Obligations.NetworkInputFiltersAndNetworkStateCarries : Prop :=
  ∀ (t : Time) (cell : StreamCell) (s : State), s.isHeld = false →
    (cell.mark ≠ 0xB8#8 → exec (.networkCellArrival t cell) s =
      .next { s with timer := t, networkMarkErrors := bumped s.networkMarkErrors }) ∧
    (cell.mark = 0xB8#8 → cell.tag = 0 ∨ s.station = .strapFault ∨ (∀ i : Slot, cell.tag ≠ s.tagOf i) ∨
        (∃ i : Slot, cell.tag = s.tagOf i ∧ (s.chan i).gateOpen = false ∧ ¬ (cell.unit = true ∧ cell.stamp = true)) →
      exec (.networkCellArrival t cell) s = .next { s with timer := t }) ∧
    (∀ i : Slot, Reaches s i cell → Undisturbed (s.chan i) t cell → (s.chan i).state = .network →
      exec (.networkCellArrival t cell) s = .next (slotDone s t i
        { s.chan i with gateOpen := true, clock := clockAfter (s.chan i).clock t cell, outSeq := (s.chan i).outSeq + 1,
                        discDue := false }
        (sentAs s i cell (s.chan i).discDue)))

/-- In every state of its channel, a network cell that reaches the channel unit gives exactly one output cell, with the cell mark,
the channel's tag, the next sequence count and any DISC that was due; and no other channel's sequence count or gate moves (sections
1.2, 1.5, 3.5). -/
def Obligations.OneOutputCellForEachSlotEvent : Prop :=
  ∀ (t : Time) (cell : StreamCell) (s : State) (i : Slot), Reaches s i cell →
    ∃ (s' : State) (out : StreamCell), exec (.networkCellArrival t cell) s = .next s' ∧
      s'.sout = s.sout ++ [out] ∧ out.mark = 0xB8#8 ∧ out.tag = s.tagOf i ∧ out.seq = (s.chan i).outSeq ∧
      ((s.chan i).discDue = true → out.disc = true) ∧
      (s'.chan i).outSeq = (s.chan i).outSeq + 1 ∧ (s'.chan i).discDue = false ∧ (s'.chan i).gateOpen = true ∧
      ∀ j : Slot, j ≠ i → (s'.chan j).outSeq = (s.chan j).outSeq ∧ (s'.chan j).gateOpen = (s.chan j).gateOpen

/-- R22: in NO_CLOCK an arriving stamp starts acquisition, whatever its DISC flag, and so does the stamp of a slot event that finds
the clock silent. -/
def Obligations.StampInNoClockStartsAcquisition : Prop :=
  ∀ (t : Time) (cell : StreamCell) (s : State) (i : Slot), Reaches s i cell → cell.stamp = true →
    (s.chan i).clock.state = .noClock ∨ 2000000 < (t - (s.chan i).clock.lastTime).toNat →
    ∃ s' : State, exec (.networkCellArrival t cell) s = .next s' ∧ (s'.chan i).clock = ⟨.acquiring, cell.time, t⟩

/-- A stamp that reaches a clock which is not silent is taken with its own time: in ACQUIRING it locks the clock when it agrees and
leaves it ACQUIRING when not; in LOCKED it keeps the clock LOCKED when it is no jump and takes it to ACQUIRING when it is
(section 2.3). A cell without a stamp leaves the clock alone. -/
def Obligations.StampLocksOrJumpsTheClock : Prop :=
  ∀ (t : Time) (cell : StreamCell) (s : State) (i : Slot), Reaches s i cell →
    (t - (s.chan i).clock.lastTime).toNat ≤ 2000000 →
    let k := (s.chan i).clock
    let agrees : Prop := (signed cell.time (k.lastStamp + (t - k.lastTime))).natAbs ≤ 100000 ∧ cell.disc = false
    ∃ s' : State, exec (.networkCellArrival t cell) s = .next s' ∧
      (cell.stamp = true → k.state = .acquiring ∨ k.state = .locked → agrees → (s'.chan i).clock = ⟨.locked, cell.time, t⟩) ∧
      (cell.stamp = true → k.state = .acquiring ∨ k.state = .locked → ¬ agrees → (s'.chan i).clock = ⟨.acquiring, cell.time, t⟩) ∧
      (cell.stamp = false → (s'.chan i).clock = k)

/-- A jump withdraws every entry of the channel that has a splice time, in list order with WITHDRAWN CLOCK_JUMP, keeps those in
WAIT_PEER, and moves the return point by the jump: of a break on air or in hand, which the network cell of the same slot event then meets
or not, of a break held beneath an alert, which is not stale at the moved point, and of a return condition that has a point of its own
(section 2.3.1). -/
def Obligations.JumpWithdrawsEntriesAndMovesTheReturnPoint : Prop :=
  ∀ (t : Time) (cell : StreamCell) (s : State) (i : Slot), Reaches s i cell → CueLaw (s.chan i) → cell.stamp = true →
    (s.chan i).clock.state = .locked → (t - (s.chan i).clock.lastTime).toNat ≤ 2000000 →
    let j : Time := cell.time - ((s.chan i).clock.lastStamp + (t - (s.chan i).clock.lastTime))
    100000 < j.toInt.natAbs ∨ cell.disc = true →
    ∃ s' : State, exec (.networkCellArrival t cell) s = .next s' ∧
      (s'.chan i).cues = (s.chan i).cues.filter (fun e => !e.isTimed) ∧
      (∀ b, (s.chan i).active = some (.brk b) → cell.unit = false →
        (s'.chan i).active = some (.brk { b with returnPoint := b.returnPoint + j })) ∧
      (∀ b rest, (s.chan i).state = .alertWait ∨ (s.chan i).state = .alert → (s.chan i).hold = .brk b :: rest →
        (∀ r ∈ rest, r.break? = none) → -3600000000 ≤ signed (b.returnPoint + j) cell.time →
        (s'.chan i).hold = .brk { b with returnPoint := b.returnPoint + j } :: rest) ∧
      (∀ p, (s.chan i).state = .returnWait → (s.chan i).returnCondition = some (.afterPoint p) → cell.unit = false →
        (s'.chan i).returnCondition = some (.afterPoint (p + j))) ∧
      ((s.chan i).state ≠ .rejoinWait → (s.chan i).heldBreak = none → cell.unit = false →
        s'.line = (((s.chan i).cues.filter fun e => e.isTimed).foldl
          (fun u e => u.offer (.cut (s.tagOf i) .withdrawn e.cueId .clockJump 0 0)) s).line)

/-- When the silence limit of a channel has passed, the channel's clock is lost: every entry with a splice time is withdrawn, the
channel's break record leaves it, a break on air, waiting to rejoin or waiting to return goes to RETURN_WAIT ANY with no report due, an
alert goes on, and with no entry withdrawn the CUT_OUT CLOCK_LOST of the break is the one report raised (section 2.4). A limit that has
not passed changes nothing but the timer (log entry 3). No cell is sent, and nothing but channels, ports and queued reports changes. That
last stamp and its station time stay as they were is the model's reading (log entry 14), and so is the CUT_OUT of a break whose end was
reported before (log entry 32). -/
def Obligations.SilenceEndsEntriesAndBreak : Prop :=
  ∀ (t : Time) (s : State) (i : Slot), s.isHeld = false →
    ((s.chan i).clock.state = .noClock ∨ (t - (s.chan i).clock.lastTime).toNat ≤ 2000000 →
      exec (.silenceExpiry t i) s = .next { s with timer := t }) ∧
    ((s.chan i).clock.state ≠ .noClock → 2000000 < (t - (s.chan i).clock.lastTime).toNat →
      ChannelLaw (s.chan i) → CueLaw (s.chan i) →
      ∃ s' : State, exec (.silenceExpiry t i) s = .next s' ∧
        s' = { s with timer := t, channels := s'.channels, ports := s'.ports,
                      line := { s.line with queue := s'.line.queue, drops := s'.line.drops } } ∧
        (s'.chan i).clock = { (s.chan i).clock with state := .noClock } ∧
        (s'.chan i).cues = (s.chan i).cues.filter (fun e => !e.isTimed) ∧
        (∀ r ∈ records (s'.chan i), r.break? = none) ∧
        (s'.chan i).state = (match (s.chan i).state with
          | .network | .cutWait => .network
          | .onBreak | .rejoinWait | .returnWait => .returnWait
          | .alertWait => .alertWait
          | .alert => .alert) ∧
        ((s'.chan i).state = .returnWait → (s'.chan i).returnCondition = some .any ∧ (s'.chan i).returnReport = none) ∧
        ((∀ e ∈ (s.chan i).cues, e.isTimed = false) → s'.line =
          match (s.chan i).breakRecord with
          | some b => (s.offer (.cut (s.tagOf i) .cutOut b.cueId .clockLost b.cutStamp 0)).line
          | none => s.line))

/-- What an insert port does with a cell, by its mode, depth and seeking flag, with HOLD following the depth (section 1.3); in
STRAP_FAULT the cell is discarded without a count. -/
def Obligations.InsertPortTakesACell : Prop :=
  ∀ (t : Time) (p : PortId) (cell : StreamCell) (s : State), s.isHeld = false →
    let q := s.port p
    let n := q.queue.length
    (s.station = .strapFault → exec (.insertCellArrival t p cell) s = .next { s with timer := t }) ∧
    (s.station ≠ .strapFault → exec (.insertCellArrival t p cell) s = .next
      { s with
        timer := t
        ports := s.ports.set p
          (if cell.mark ≠ 0xB8#8 then { q with markErrors := bumped q.markErrors }
          else if q.mode = .drain then { q with drained := bumped q.drained }
          else if 48 ≤ n then { q with overflow := bumped q.overflow }
          else if q.seeking = true ∧ n = 0 ∧ ¬ (cell.unit = true ∧ cell.stamp = true) then
            { q with drained := bumped q.drained, hold := false }
          else { q with queue := q.queue ++ [cell], hold := if 40 ≤ n + 1 then true else if n + 1 ≤ 24 then false else q.hold }) })

/-- What the alert port does with a cell (section 1.4): a valid cell is written at the writer index, the newest unit start follows,
and every reader follows: one lapped is moved to the newest unit start with a ring skip and DISC due, another has one more cell
unread, and one that is AWAITING is placed at an eligible unit start. -/
def Obligations.AlertCellIsWrittenAndReadersFollow : Prop :=
  ∀ (t : Time) (cell : StreamCell) (s : State), s.isHeld = false →
    let w := s.ring.writer
    let start : Prop := cell.unit = true ∧ cell.stamp = true
    let newest : Option RingPos := if start then some w else if s.ring.newest = some w then none else s.ring.newest
    (s.station = .strapFault → exec (.alertCellArrival t cell) s = .next { s with timer := t }) ∧
    (s.station ≠ .strapFault → cell.mark ≠ 0xB8#8 → exec (.alertCellArrival t cell) s =
      .next { s with timer := t, ring := { s.ring with markErrors := bumped s.ring.markErrors } }) ∧
    (s.station ≠ .strapFault → cell.mark = 0xB8#8 →
      ∃ s' : State, exec (.alertCellArrival t cell) s = .next s' ∧
        s' = { s with timer := t, channels := s'.channels,
                      ring := { s.ring with cells := s.ring.cells.set w (some cell), writer := w + 1, newest := newest } } ∧
        ∀ i : Slot, s'.chan i = match (s.chan i).reader with
          | none => s.chan i
          | some .awaiting => if start then { s.chan i with reader := some (.positioned w 1) } else s.chan i
          | some (.positioned p n) =>
            if n = 96 then
              { s.chan i with
                reader := some (match newest with
                  | some q => .positioned q (((w + 1).val + 95 - q.val) % 96 + 1)
                  | none => .awaiting)
                ringSkipCount := bumped (s.chan i).ringSkipCount, discDue := true }
            else { s.chan i with reader := some (.positioned p (n + 1)) })

/-! ## Cues and breaks (chapter 5) -/

/-- What an ACTIVE station does with a CUE: the checks in their order decide the outcome (cueOutcome), the outcome is the ack, and an
admitted CUE puts its entry, PENDING or WAIT_PEER with clamped duration and wait, in its place in the list, in place of one with its id
(sections 5.1, 5.2). In SETUP and CLASH the outcome is NOT_NOW. Nothing else changes. -/
def Obligations.CueIsJudgedInOrderAndPlaced : Prop :=
  ∀ (t : Time) (h : FrameHeader) (p : BitVec 96) (s : State), Hears s → ToOwn s h → ChannelsLaw s → CuesLaw s →
    let f := cueFields p
    let c := s.chan f.slot
    let outcome := cueOutcome s t f
    let entry : CueEntry :=
      { cueId := f.cueId, port := f.port, earlyReturn := f.earlyReturn
        trigger := if f.peerTrigger then .peer f.peerStation f.peerCueId f.peerOffset else .time
        splice := if f.peerTrigger then none else some f.splice
        duration := max 1000 (min f.duration 14400000)
        state := if f.peerTrigger then .waitPeer t (1000000 * max 1 f.peerWait) else .pending false }
    (s.station = .active → outcome = .accepted ∨ outcome = .replaced → exec (.cue t h p) s =
      .next (answered (s.setChan f.slot { c with cues := cuePlaced c entry }) t .ack (.ack outcome))) ∧
    (s.station = .active → outcome ≠ .accepted → outcome ≠ .replaced → exec (.cue t h p) s =
      .next (answered s t .ack (.ack outcome))) ∧
    (s.station = .setup ∨ s.station = .clash → exec (.cue t h p) s = .next (answered s t .ack (.ack .notNow)))

/-- What a CUT frame of another station does to the entry of a channel that awaits it, wherever it stands among the channel's entries: a
CUT_IN gives it its splice time and places it in splice time order when the clock is LOCKED and the time is neither late, beyond the
horizon nor overlapping the channel's break or another of its timed entries, and otherwise withdraws it with the reason; MISSED,
WITHDRAWN and SHED withdraw it, and any other kind leaves it waiting; a frame that nothing awaits changes no entry (section 5.3). In every
station state an entry whose peer deadline passes is withdrawn PEER_SILENT; that a deadline not due changes nothing but the timer is the
model's choice (log entry 3). -/
def Obligations.PeerReportResolvesAWaitingEntry : Prop :=
  (∀ (t : Time) (h : FrameHeader) (p : BitVec 88) (s : State) (i : Slot) (e : CueEntry) (station : Byte) (peerCue : Ident) (ms : Nat),
    Hears s → fromStation h → h.destination.toNat < 64 → s.station ≠ .listen →
    let f := cutFields p
    let c := s.chan i
    ((∀ j, ∀ x ∈ (s.chan j).cues, x.awaits h.source f.cueId = false) →
      exec (.cutFrameReceived t h p) s = .next (answered s t .none .silent)) ∧
    ((c.cues.map (·.cueId)).Nodup → e ∈ c.cues → e.trigger = .peer station peerCue ms → (∃ since wait, e.state = .waitPeer since wait) →
      h.source = station → f.cueId = peerCue →
      (∀ j, ∀ x ∈ (s.chan j).cues, j ≠ i ∨ x.cueId ≠ e.cueId → x.awaits h.source f.cueId = false) →
      let others := c.cues.filter fun x => x.cueId != e.cueId
      let sp := f.cutStamp + BitVec.ofNat 36 (1000 * ms)
      let d := signed sp (c.clock.lastStamp + (t - c.clock.lastTime))
      let withdrawn (reason : CutReason) : Prop := exec (.cutFrameReceived t h p) s = .next
        (answered { s.setChan i { c with cues := others } with
          line := (s.offer (.cut (s.tagOf i) .withdrawn e.cueId reason 0 0)).line } t .none .silent)
      let overlaps : Prop :=
        (∃ x ∈ others, ∃ se, x.splice = some se ∧ intervalsOverlap sp (1000 * e.duration) se (1000 * x.duration) = true) ∨
        (∃ b, c.breakRecord = some b ∧ intervalsOverlap sp (1000 * e.duration) (b.returnPoint - BitVec.ofNat 36 (1000 * b.duration))
          (1000 * b.duration) = true)
      (f.kind = 1#4 → c.clock.state = .locked → -(10000 * s.lateLimitByte.toNat : Int) ≤ d → d ≤ 14400000000 →
        (¬ overlaps → exec (.cutFrameReceived t h p) s = .next (answered
          (s.setChan i { c with cues := cuePlaced c { e with splice := some sp, state := .pending false } }) t .none .silent)) ∧
        (overlaps → withdrawn .overlap)) ∧
      (f.kind = 1#4 → c.clock.state ≠ .locked → withdrawn .noClock) ∧
      (f.kind = 1#4 → c.clock.state = .locked → d < -(10000 * s.lateLimitByte.toNat : Int) ∨ 14400000000 < d → withdrawn .tooLate) ∧
      (f.kind = 5#4 ∨ f.kind = 6#4 ∨ f.kind = 7#4 → withdrawn .peerMissed) ∧
      (f.kind ≠ 1#4 → f.kind ≠ 5#4 → f.kind ≠ 6#4 → f.kind ≠ 7#4 →
        exec (.cutFrameReceived t h p) s = .next (answered s t .none .silent)))) ∧
  ∀ (t : Time) (s : State) (i : Slot) (e : CueEntry) (since : Time) (wait : Nat), s.isHeld = false →
    let c := s.chan i
    c.entry e.cueId = some e → e.state = .waitPeer since wait → (∀ j, j ≠ i → (s.chan j).entry e.cueId = none) →
    (wait < (t - since).toNat → exec (.peerDeadlineExpiry t e.cueId) s = .next
      { s.setChan i { c with cues := c.cues.filter fun x => x.cueId != e.cueId } with
        timer := t, line := (s.offer (.cut (s.tagOf i) .withdrawn e.cueId .peerSilent 0 0)).line }) ∧
    ((t - since).toNat ≤ wait → exec (.peerDeadlineExpiry t e.cueId) s = .next { s with timer := t })

/-- The one entry of a channel in NETWORK: before its preroll it waits; within it, it is mature and asks its port, which grants a FREE
port, discarding the cells before the first eligible unit start, and otherwise leaves it in PORT_WAIT; the network cell is carried
(sections 5.4, 1.3.1). -/
def Obligations.MatureEntryReservesItsPort : Prop :=
  ∀ (t : Time) (cell : StreamCell) (s : State) (i : Slot) (e : CueEntry) (sp : Time) (m : Bool), Reaches s i cell →
    Undisturbed { s.chan i with cues := [] } t cell → (s.chan i).state = .network → (s.chan i).cues = [e] → e.state = .pending m →
    e.splice = some sp → cell.unit = false ∨ atOrAfter cell.time sp = false →
    let k := clockAfter (s.chan i).clock t cell
    let now := k.lastStamp + (t - k.lastTime)
    let q := s.port e.port
    let start := q.queue.dropWhile fun x => !(x.unit && x.stamp)
    let out := sentAs s i cell (s.chan i).discDue
    k.state ≠ .noClock →
    (m = false → (100000 * s.prerollByte.toNat : Int) < signed sp now → exec (.networkCellArrival t cell) s =
      .next (slotDone s t i (carried s t i cell) out)) ∧
    (m = true ∨ signed sp now ≤ (100000 * s.prerollByte.toNat : Int) → signed now sp ≤ (10000 * s.lateLimitByte.toNat : Int) →
      q.mode = .free → exec (.networkCellArrival t cell) s =
        .next { slotDone s t i { carried s t i cell with cues := [{ e with state := .cutWait }], pendingEntry := some e.cueId,
                                                         state := .cutWait } out with
          ports := s.ports.set e.port
            { q with mode := .reserved, owner := some i, seeking := true, queue := start, hold := holdAt start.length q.hold,
                     drained := countAdd q.drained (q.queue.length - start.length) } }) ∧
    (m = true ∨ signed sp now ≤ (100000 * s.prerollByte.toNat : Int) → signed now sp ≤ (10000 * s.lateLimitByte.toNat : Int) →
      q.mode ≠ .free → exec (.networkCellArrival t cell) s =
        .next (slotDone s t i { carried s t i cell with cues := [{ e with state := .portWait }] } out)) ∧
    (m = true ∨ signed sp now ≤ (100000 * s.prerollByte.toNat : Int) → (10000 * s.lateLimitByte.toNat : Int) < signed now sp →
      exec (.networkCellArrival t cell) s =
        .next { slotDone s t i { carried s t i cell with cues := [], missCount := bumped (s.chan i).missCount } out with
          line := (s.offer (.cut (s.tagOf i) .missed e.cueId .noCutPoint 0 0)).line })

/-- A network cut point with stamp u in CUT_WAIT: at or after the splice time and within the late limit, with an eligible unit start at
the port's head, it is the cut-in, with R = u + L and D = u − i0; before the splice time, or with no head, the network cell is carried;
beyond the late limit the entry is missed and its port freed (section 5.5). -/
def Obligations.CutInAtTheFirstCutPointFromTheSpliceTime : Prop :=
  ∀ (t : Time) (cell : StreamCell) (s : State) (i : Slot) (e : CueEntry) (sp : Time), Reaches s i cell →
    Undisturbed { s.chan i with cues := [] } t cell → (s.chan i).state = .cutWait → (s.chan i).cues = [e] → e.state = .cutWait →
    (s.chan i).pendingEntry = some e.cueId → e.splice = some sp → cell.unit = true → cell.stamp = true →
    let u := cell.time
    let q := s.port e.port
    let late : Int := 10000 * s.lateLimitByte.toNat
    q.owner = some i → q.mode = .reserved → (∀ x ∈ q.queue.head?, isUnitStart x = true) →
    (∀ head rest, q.queue = head :: rest → 0 ≤ signed u sp → signed u sp ≤ late → exec (.networkCellArrival t cell) s =
      .next { slotDone s t i
          { carried s t i cell with
            cues := [], pendingEntry := none, state := .onBreak, activity := true
            active := some (.brk { cueId := e.cueId, port := e.port, offset := u - head.time,
                                   returnPoint := u + BitVec.ofNat 36 (1000 * e.duration), duration := e.duration,
                                   earlyReturn := e.earlyReturn, cutStamp := u }) }
          (sentAs s i { head with time := u } true) with
        ports := s.ports.set e.port { q with mode := .live, seeking := false, queue := rest, hold := holdAt rest.length q.hold }
        line := (s.offer (.cut (s.tagOf i) .cutIn e.cueId .scheduled u (BitVec.ofNat 8 (min ((signed u sp).toNat / 1000) 255)))).line }) ∧
    (signed u sp < 0 ∨ q.queue = [] → signed u sp ≤ late → exec (.networkCellArrival t cell) s =
      .next (slotDone s t i (carried s t i cell) (sentAs s i cell (s.chan i).discDue))) ∧
    (late < signed u sp → NoneWaits s e.port → exec (.networkCellArrival t cell) s =
      .next { slotDone s t i { carried s t i cell with cues := [], pendingEntry := none, state := .network,
                                                       missCount := bumped (s.chan i).missCount }
          (sentAs s i cell (s.chan i).discDue) with
        ports := s.ports.set e.port (freed q)
        line := (s.offer (.cut (s.tagOf i) .missed e.cueId (if q.queue = [] then .insertNotReady else .noCutPoint) 0 0)).line })

/-- A break on air at a network cell that is no return cut: an empty queue is an underrun and gives fill, an end mark ends the content
early, an eligible unit start whose rebased stamp has reached R truncates it, and any other head is carried, rebased by D (sections 4.4,
5.6). -/
def Obligations.BreakOnAirCarriesItsPort : Prop :=
  ∀ (t : Time) (cell : StreamCell) (s : State) (i : Slot) (b : BreakRecord), Reaches s i cell →
    Undisturbed (s.chan i) t cell → (s.chan i).state = .onBreak → (s.chan i).active = some (.brk b) →
    ¬ (cell.unit = true ∧ cell.stamp = true ∧ atOrAfter cell.time b.returnPoint = true) →
    let q := s.port b.port
    let c := carried s t i cell
    let filled := { c with fillCount := bumped c.fillCount }
    q.owner = some i → q.mode = .live → q.seeking = false →
    (q.queue = [] → exec (.networkCellArrival t cell) s =
      .next (slotDone s t i { filled with underrunCount := bumped c.underrunCount } (fillOf s i))) ∧
    (∀ head rest, q.queue = head :: rest →
      (head.unit = true ∧ head.stamp = false ∧ head.fill = true → exec (.networkCellArrival t cell) s =
        .next { slotDone s t i { filled with state := .returnWait, truncatedCount := countAdd c.truncatedCount rest.length
                                             returnCondition := some (if b.earlyReturn then .any else .afterBreak)
                                             returnReport := some .earlyEnd } (fillOf s i) with
          ports := s.ports.set b.port (drained { q with queue := rest }) }) ∧
      (head.unit = true ∧ head.stamp = true ∧ atOrAfter (head.time + b.offset) b.returnPoint = true →
        exec (.networkCellArrival t cell) s =
        .next { slotDone s t i { filled with state := .returnWait, truncatedCount := countAdd c.truncatedCount q.queue.length
                                             returnCondition := some .afterBreak, returnReport := some .scheduled } (fillOf s i) with
          ports := s.ports.set b.port (drained q) }) ∧
      (¬ (head.unit = true ∧ head.stamp = false ∧ head.fill = true) →
        ¬ (head.unit = true ∧ head.stamp = true ∧ atOrAfter (head.time + b.offset) b.returnPoint = true) →
        exec (.networkCellArrival t cell) s =
        .next { slotDone s t i c (sentAs s i (if head.stamp then { head with time := head.time + b.offset } else head)
                  (s.chan i).discDue) with
          ports := s.ports.set b.port { q with queue := rest, hold := holdAt rest.length q.hold } }))

/-- The return cut of a break on air: the network cell is carried with DISC, the record leaves, CUT_OUT SCHEDULED is raised, and the
port is flushed and freed, or goes at once to the waiting entry of the lowest slot (sections 5.6, 1.3.1). -/
def Obligations.ReturnCutFreesThePortForTheLowestSlot : Prop :=
  ∀ (t : Time) (cell : StreamCell) (s : State) (i : Slot) (b : BreakRecord), Reaches s i cell →
    Undisturbed (s.chan i) t cell → (s.chan i).state = .onBreak → (s.chan i).active = some (.brk b) →
    cell.unit = true → cell.stamp = true → atOrAfter cell.time b.returnPoint = true →
    let q := s.port b.port
    let c := { carried s t i cell with state := .network, returnCondition := none, returnReport := none, active := none, activity := true }
    let line := (s.offer (.cut (s.tagOf i) .cutOut b.cueId .scheduled b.cutStamp 0)).line
    q.owner = some i → q.mode = .live →
    (NoneWaits s b.port → exec (.networkCellArrival t cell) s =
      .next { slotDone s t i c (sentAs s i cell true) with ports := s.ports.set b.port (freed q), line := line }) ∧
    (∀ (j : Slot) (e : CueEntry), j ≠ i → (s.chan j).state = .network →
      (s.chan j).cues.find? (fun x => x.waitsFor b.port) = some e →
      (∀ k, k < j → (s.chan k).state = .network → ∀ x ∈ (s.chan k).cues, x.waitsFor b.port = false) →
      exec (.networkCellArrival t cell) s =
        .next { slotDone (s.setChan j { s.chan j with
              cues := (s.chan j).cues.map fun x => if x.cueId = e.cueId then { x with state := .cutWait } else x
              pendingEntry := some e.cueId, state := .cutWait }) t i c (sentAs s i cell true) with
          ports := s.ports.set b.port { freed q with mode := .reserved, owner := some j, seeking := true }
          line := line })

/-- RETURN_WAIT carries fill until its condition is met; then the network cell is carried with DISC, a break record that is left frees
its port and raises the CUT_OUT that is due, and the channel is in NETWORK (section 5.6). -/
def Obligations.ReturnWaitFillsUntilItsCondition : Prop :=
  ∀ (t : Time) (cell : StreamCell) (s : State) (i : Slot), Reaches s i cell →
    Undisturbed (s.chan i) t cell → (s.chan i).state = .returnWait →
    let start : Prop := cell.unit = true ∧ cell.stamp = true
    let met : Prop := match (s.chan i).returnCondition with
      | some .any => start
      | some .afterBreak => start ∧ ∃ b, (s.chan i).active = some (.brk b) ∧ atOrAfter cell.time b.returnPoint = true
      | some (.afterPoint r) => start ∧ atOrAfter cell.time r = true
      | none => False
    let c := carried s t i cell
    let home := { c with state := .network, returnCondition := none, returnReport := none, activity := true }
    (¬ met → exec (.networkCellArrival t cell) s =
      .next (slotDone s t i { c with fillCount := bumped c.fillCount } (fillOf s i))) ∧
    (met → (s.chan i).active = none → exec (.networkCellArrival t cell) s = .next (slotDone s t i home (sentAs s i cell true))) ∧
    (∀ b, met → (s.chan i).active = some (.brk b) → (s.port b.port).owner = some i → (s.port b.port).mode ≠ .free →
      NoneWaits s b.port → exec (.networkCellArrival t cell) s =
        .next { slotDone s t i { home with active := none } (sentAs s i cell true) with
          ports := s.ports.set b.port (freed (s.port b.port))
          line := match (s.chan i).returnReport with
            | some .scheduled => (s.offer (.cut (s.tagOf i) .cutOut b.cueId .scheduled b.cutStamp 0)).line
            | some .earlyEnd => (s.offer (.cut (s.tagOf i) .cutOut b.cueId .earlyEnd b.cutStamp 0)).line
            | some .cancelled => (s.offer (.cut (s.tagOf i) .cutOut b.cueId .cancelled b.cutStamp 0)).line
            | none => s.line })

/-- REJOIN_WAIT: a network cut point at or after R is the return cut, with CUT_OUT SCHEDULED and the port freed; otherwise an eligible
unit start before R at the port's head rejoins the break, one at or after R truncates it, and any other head or an empty queue gives
fill. A rejoin limit that has passed, found by its own expiry or by a slot event, ends the break with CUT_OUT REJOIN_NO_INSERT in
RETURN_WAIT ANY, where a cut point of the same slot event returns at once; an expiry that is not due changes nothing but the timer, which
is the model's choice (log entry 3) (section 5.8). -/
def Obligations.RejoinWaitRejoinsOrGivesUp : Prop :=
  ∀ (t : Time) (cell : StreamCell) (s : State) (i : Slot) (b : BreakRecord), s.isHeld = false → (s.chan i).state = .rejoinWait →
    (s.chan i).active = some (.brk b) →
    let q := s.port b.port
    let c := carried s t i cell
    let home := { c with state := .network, returnCondition := none, returnReport := none, active := none, activity := true }
    let unready := (s.offer (.cut (s.tagOf i) .cutOut b.cueId .rejoinNoInsert b.cutStamp 0)).line
    q.owner = some i → q.mode = .live →
    (Reaches s i cell → Undisturbed (s.chan i) t cell → (t - (s.chan i).rejoinWaitTime).toNat ≤ 1000000 →
      ¬ (cell.unit = true ∧ cell.stamp = true ∧ atOrAfter cell.time b.returnPoint = true) →
      (q.queue = [] → exec (.networkCellArrival t cell) s =
        .next (slotDone s t i { c with fillCount := bumped c.fillCount } (fillOf s i))) ∧
      (∀ head rest, q.queue = head :: rest → head.unit = true → head.stamp = true →
        atOrAfter (head.time + b.offset) b.returnPoint = false → exec (.networkCellArrival t cell) s =
          .next { slotDone s t i { c with state := .onBreak, activity := true }
              (sentAs s i { head with time := head.time + b.offset } true) with
            ports := s.ports.set b.port { q with queue := rest, hold := holdAt rest.length q.hold, seeking := false }
            line := (s.offer (.cut (s.tagOf i) .rejoined b.cueId .scheduled b.cutStamp 0)).line }) ∧
      (∀ head rest, q.queue = head :: rest → head.unit = true → head.stamp = true →
        atOrAfter (head.time + b.offset) b.returnPoint = true → exec (.networkCellArrival t cell) s =
          .next { slotDone s t i { c with fillCount := bumped c.fillCount, state := .returnWait
                                          truncatedCount := countAdd c.truncatedCount q.queue.length
                                          returnCondition := some .afterBreak, returnReport := some .scheduled } (fillOf s i) with
            ports := s.ports.set b.port (drained q) }) ∧
      (∀ head rest, q.queue = head :: rest → head.unit = false ∨ head.stamp = false → exec (.networkCellArrival t cell) s =
        .next (slotDone s t i { c with fillCount := bumped c.fillCount } (fillOf s i)))) ∧
    (Reaches s i cell → Undisturbed (s.chan i) t cell → (t - (s.chan i).rejoinWaitTime).toNat ≤ 1000000 →
      cell.unit = true → cell.stamp = true → atOrAfter cell.time b.returnPoint = true → NoneWaits s b.port →
      exec (.networkCellArrival t cell) s =
        .next { slotDone s t i home (sentAs s i cell true) with
          ports := s.ports.set b.port (freed q)
          line := (s.offer (.cut (s.tagOf i) .cutOut b.cueId .scheduled b.cutStamp 0)).line }) ∧
    (Reaches s i cell → Undisturbed (s.chan i) t cell → 1000000 < (t - (s.chan i).rejoinWaitTime).toNat →
      (cell.unit = false ∨ cell.stamp = false → exec (.networkCellArrival t cell) s =
        .next { slotDone s t i { c with state := .returnWait, returnCondition := some .any, returnReport := none
                                        fillCount := bumped c.fillCount } (fillOf s i) with
          ports := s.ports.set b.port (drained q), line := unready }) ∧
      (cell.unit = true → cell.stamp = true → NoneWaits s b.port → exec (.networkCellArrival t cell) s =
        .next { slotDone s t i home (sentAs s i cell true) with
          ports := s.ports.set b.port (freed (drained q)), line := unready })) ∧
    (1000000 < (t - (s.chan i).rejoinWaitTime).toNat → exec (.rejoinLimitExpiry t i) s =
      .next { s.setChan i { s.chan i with state := .returnWait, returnCondition := some .any, returnReport := none } with
        timer := t, ports := s.ports.set b.port (drained q), line := unready }) ∧
    ((t - (s.chan i).rejoinWaitTime).toNat ≤ 1000000 → exec (.rejoinLimitExpiry t i) s = .next { s with timer := t })

/-- CUE_CANCEL in ACTIVE: an id that the station does not hold is NO_SUCH_CUE; an entry without a port is withdrawn CANCELLED, and one in
CUT_WAIT returns its channel to NETWORK and frees its port as well; a break on air is drained into the truncated count, one that waits to
rejoin is drained, and both wait for the next cut point with CANCELLED due; a break that waits to return does so at the next cut point,
with CANCELLED in place of a report that is due and none in place of none; a held break leaves the stack, frees its port and is reported
WITHDRAWN CANCELLED (section 5.7). In SETUP and CLASH the outcome is NOT_NOW. That a report which is CANCELLED already stays so is the
model's reading (log entry 26). -/
def Obligations.CueCancelEndsTheCueWhereverItStands : Prop :=
  ∀ (t : Time) (h : FrameHeader) (id : Ident) (s : State) (i : Slot), Hears s → ToOwn s h →
    let c := s.chan i
    (s.station = .setup ∨ s.station = .clash → exec (.cueCancel t h id) s = .next (answered s t .ack (.ack .notNow))) ∧
    (s.station = .active → (∀ j, id ∉ usedIds (s.chan j)) →
      exec (.cueCancel t h id) s = .next (answered s t .ack (.ack .noSuchCue))) ∧
    (∀ e, s.station = .active → (∀ j, j ≠ i → id ∉ usedIds (s.chan j)) → c.entry id = some e → e.state ≠ .cutWait →
      exec (.cueCancel t h id) s = .next (answered
        { s.setChan i { c with cues := c.cues.filter fun x => x.cueId != id } with
          line := (s.offer (.cut (s.tagOf i) .withdrawn id .cancelled 0 0)).line } t .ack (.ack .accepted))) ∧
    (∀ e, s.station = .active → (∀ j, j ≠ i → id ∉ usedIds (s.chan j)) → c.entry id = some e → e.state = .cutWait →
      c.state = .cutWait → (s.port e.port).owner = some i → (s.port e.port).mode = .reserved → NoneWaits s e.port →
      (∀ x ∈ c.cues, x.waitsFor e.port = false) →
      exec (.cueCancel t h id) s = .next (answered
        { s.setChan i { c with cues := c.cues.filter fun x => x.cueId != id, pendingEntry := none, state := .network } with
          ports := s.ports.set e.port (freed (s.port e.port))
          line := (s.offer (.cut (s.tagOf i) .withdrawn id .cancelled 0 0)).line } t .ack (.ack .accepted))) ∧
    (∀ b, s.station = .active → (∀ j, j ≠ i → id ∉ usedIds (s.chan j)) → c.entry id = none → c.active = some (.brk b) → b.cueId = id →
      c.state = .onBreak → (s.port b.port).owner = some i → (s.port b.port).mode = .live →
      exec (.cueCancel t h id) s = .next (answered
        { s.setChan i { c with state := .returnWait, returnCondition := some .any, returnReport := some .cancelled
                               truncatedCount := countAdd c.truncatedCount (s.port b.port).queue.length } with
          ports := s.ports.set b.port (drained (s.port b.port)) } t .ack (.ack .accepted))) ∧
    (∀ b, s.station = .active → (∀ j, j ≠ i → id ∉ usedIds (s.chan j)) → c.entry id = none → c.active = some (.brk b) → b.cueId = id →
      c.state = .rejoinWait → (s.port b.port).owner = some i → (s.port b.port).mode = .live →
      exec (.cueCancel t h id) s = .next (answered
        { s.setChan i { c with state := .returnWait, returnCondition := some .any, returnReport := some .cancelled } with
          ports := s.ports.set b.port (drained (s.port b.port)) } t .ack (.ack .accepted))) ∧
    (∀ b, s.station = .active → (∀ j, j ≠ i → id ∉ usedIds (s.chan j)) → c.entry id = none → c.active = some (.brk b) → b.cueId = id →
      c.state = .returnWait → exec (.cueCancel t h id) s = .next (answered
        (s.setChan i { c with returnCondition := some .any
                              returnReport := if c.returnReport = none then none else some .cancelled }) t .ack (.ack .accepted))) ∧
    (∀ b rest, s.station = .active → (∀ j, j ≠ i → id ∉ usedIds (s.chan j)) → c.entry id = none → (∀ a, c.active ≠ some (.brk a)) →
      c.hold = .brk b :: rest → (∀ r ∈ rest, r.break? = none) → b.cueId = id → (s.port b.port).owner = some i →
      (s.port b.port).mode = .drain → NoneWaits s b.port →
      exec (.cueCancel t h id) s = .next (answered
        { s.setChan i { c with hold := rest } with
          ports := s.ports.set b.port (freed (s.port b.port))
          line := (s.offer (.cut (s.tagOf i) .withdrawn id .cancelled b.cutStamp 0)).line } t .ack (.ack .accepted)))


/-! ## Alerts (chapter 6) -/

/-- A region window matches when every region bit that its mask does not hide equals the base bit and its scope admits the alert's;
window 0 governs before window 1 (section 6.2). -/
def Obligations.WindowsMatchByBareBitsAndScope : Prop :=
  ∀ (s : State) (w : RegionWindow) (region : BitVec 16) (scope : AlertScope),
    (w.matches region scope = true ↔
      (∀ n, n < 16 → w.mask.getLsbD n = false → region.getLsbD n = w.base.getLsbD n) ∧
      (w.scope = .either ∨ (w.scope = .liveOnly ∧ scope = .live) ∨ (w.scope = .testOnly ∧ scope = .test))) ∧
    s.governing region scope = (if s.window0.matches region scope then some s.window0
      else if s.window1.matches region scope then some s.window1 else none)

/-- An ALERT_ON that takes no channel: a word that fails its checks and a conflict only count, a refresh restarts the record's limit and
replaces its source, an alert that no window matches does nothing, a full table declines, and an OBSERVE alert is recorded with an empty
set; a station that took it and is above the floor answers, but not in CLASH (sections 6.1 to 6.4). -/
def Obligations.AlertOnIsJudgedBeforeAnyChannelIsTouched : Prop :=
  ∀ (t : Time) (h : FrameHeader) (p : BitVec 88) (s : State), Hears s → ToGroup s h →
    let f := alertOnFields p
    let done (u : State) := exec (.alertOn t h p) s = .next (answered u t .groupList .silent)
    let heard (u : State) := exec (.alertOn t h p) s = .next (answered u t .groupList (numberAbove s f.floor (s.station ≠ .clash)))
    let intact : Prop := f.inverted = ~~~ (f.region ++ f.control) ∧ f.control.toNat < 16 ∧ 1 ≤ f.control.toNat % 8
    let limit := 1000000 * (if f.duration = 0 ∨ 3600 < f.duration then 3600 else f.duration)
    s.station = .setup ∨ s.station = .active ∨ s.station = .clash →
    (¬ intact → done { s with integrityCount := bumped s.integrityCount }) ∧
    (∀ r, intact → s.alerts.find? (fun x => x.alertId == f.alertId) = some r →
      (r.level = f.level ∧ r.scope = f.scope → heard { s with alerts := s.alerts.map fun x =>
        if x.alertId = f.alertId then { x with limitStart := t, limit := limit, source := h.source } else x }) ∧
      (r.level ≠ f.level ∨ r.scope ≠ f.scope → done { s with conflictCount := bumped s.conflictCount })) ∧
    (intact → (∀ x ∈ s.alerts, x.alertId ≠ f.alertId) →
      (s.governing f.region f.scope = none → done s) ∧
      (∀ w, s.governing f.region f.scope = some w →
        (8 ≤ s.alerts.length →
          done { s with line := (s.offer (.alert h.source f.alertId .declined 0 .tableFull f.level)).line }) ∧
        (s.alerts.length < 8 → w.mode = .observe →
          heard { s with
            alerts := s.alerts ++ [{ alertId := f.alertId, level := f.level, scope := f.scope, region := f.region, mode := .observe,
                                     channelSet := 0, limitStart := t, limit := limit, source := h.source }]
            line := (s.offer (.alert h.source f.alertId .observed 0 .none f.level)).line })))

/-- A new OVERRIDE alert of a window's channel set: every channel of the set with nothing or something of lower level on air goes to
ALERT_WAIT under it, with its break held in a drained port; a channel under an alert of no lower level keeps it and holds the new one
beneath while it has room; the record's set names exactly the channels that hold the alert, and the channels outside the window's set
keep their records (sections 6.4, 6.5). The order of the channels, ascending slots, is log entry 12. Where the set names one channel, the
whole next state is given, by what the channel was doing: its CUT_WAIT entry is MISSED PREEMPTED and its port freed, its break on air or
waiting to rejoin is HELD PREEMPTED, its break waiting to return ends with CUT_OUT PREEMPTED where a report was due, an alert of lower
level goes beneath, on a full hold stack in place of the bottom record, which is shed, SHED HOLD_FULL where it is a break; and TAKEN is
raised last, with the set (sections 3.3, 6.4, 6.5). That the record keeps its region is log entry 30. -/
def Obligations.OverrideAlertTakesTheChannelsOfItsWindow : Prop :=
  ∀ (t : Time) (h : FrameHeader) (p : BitVec 88) (s : State) (w : RegionWindow), Hears s → ToGroup s h →
    let f := alertOnFields p
    let ref : AlertRef := { alertId := f.alertId, level := f.level, offset := none }
    s.station = .setup ∨ s.station = .active ∨ s.station = .clash → f.intact = true →
    (∀ x ∈ s.alerts, x.alertId ≠ f.alertId) → s.governing f.region f.scope = some w → s.alerts.length < 8 → w.mode = .override →
    (∃ (s' : State) (r : AlertRecord), exec (.alertOn t h p) s = .next s' ∧
      s'.sout = s.sout ∧ s'.timer = t ∧
      s'.line.rx = .window ⟨.groupList, 0, numberAbove s f.floor (s.station ≠ .clash)⟩ ∧
      s'.alerts.map (fun x => (x.alertId, x.level, x.mode)) =
        s.alerts.map (fun x => (x.alertId, x.level, x.mode)) ++ [(f.alertId, f.level, .override)] ∧
      s'.alerts.find? (fun x => x.alertId == f.alertId) = some r ∧ r.scope = f.scope ∧ r.region = f.region ∧
      r.limitStart = t ∧ r.source = h.source ∧
      ∀ i : Slot,
        (inMask w.channelSet i = false →
          (s'.chan i).active = (s.chan i).active ∧ (s'.chan i).hold = (s.chan i).hold ∧ inMask r.channelSet i = false) ∧
        ((∀ x ∈ records (s.chan i), x.refersTo f.alertId = false) →
          inMask r.channelSet i = (records (s'.chan i)).any (Record.refersTo f.alertId)) ∧
        (inMask w.channelSet i = true →
          ((s.chan i).active = none ∨ (∃ b, (s.chan i).active = some (.brk b)) ∨
              (∃ a, (s.chan i).active = some (.alert a) ∧ a.level < f.level) →
            (s'.chan i).state = .alertWait ∧ (s'.chan i).active = some (.alert ref) ∧ (s'.chan i).alertWaitTime = t ∧
            (s'.chan i).starved = false ∧ (s'.chan i).reader = some s.ring.newReader ∧ inMask r.channelSet i = true) ∧
          (∀ a, (s.chan i).state = .alertWait ∨ (s.chan i).state = .alert → (s.chan i).active = some (.alert a) → f.level ≤ a.level →
            (∃ x ∈ s.alerts, x.alertId = a.alertId) →
            (s'.chan i).active = (s.chan i).active ∧ (s'.chan i).state = (s.chan i).state ∧
            ((s.chan i).hold.length < 3 → (.alert ref) ∈ (s'.chan i).hold ∧ inMask r.channelSet i = true)) ∧
          (∀ b, (s.chan i).state = .onBreak ∨ (s.chan i).state = .rejoinWait → (s.chan i).active = some (.brk b) →
            (s.chan i).hold = [] → (s.port b.port).owner = some i → (s.port b.port).mode = .live →
            (s'.chan i).hold = [.brk b] ∧ s'.port b.port = drained (s.port b.port)))) ∧
    ∀ i : Slot, w.channelSet = slotMask i →
      let c := s.chan i
      let waiting (c : Channel) : Channel :=
        { c with active := some (.alert ref), state := .alertWait, returnCondition := none, returnReport := none, alertWaitTime := t,
                 starved := false, reader := some s.ring.newReader }
      let takes (u : State) (set : ChanMask) : Prop := exec (.alertOn t h p) s = .next (answered { u with
          alerts := u.alerts ++ [{ alertId := f.alertId, level := f.level, scope := f.scope, region := f.region, mode := .override,
                                   channelSet := set, limitStart := t, source := h.source
                                   limit := 1000000 * (if f.duration = 0 ∨ 3600 < f.duration then 3600 else f.duration) }]
          line := (u.offer (.alert h.source f.alertId .taken set .none f.level)).line } t .groupList
        (numberAbove s f.floor (s.station ≠ .clash)))
      let freeing (p : PortId) (u : State) : State := { u with ports := s.ports.set p (freed (s.port p)) }
      let reporting (kind : CutKind) (reason : CutReason) (id : Ident) (stamp : Time) (u : State) : State :=
        { u with line := (s.offer (.cut (s.tagOf i) kind id reason stamp 0)).line }
      let mine (p : PortId) : Prop := (s.port p).owner = some i ∧ (s.port p).mode ≠ .free ∧ NoneWaits s p
      let leaving (a : AlertRef) (u : State) : State := { u with alerts := s.alerts.map fun r =>
        if r.alertId = a.alertId then { r with channelSet := r.channelSet &&& ~~~ slotMask i } else r }
      (c.state = .network ∨ c.state = .returnWait → c.active = none → takes (s.setChan i (waiting c)) (slotMask i)) ∧
      (∀ e, c.state = .cutWait → c.active = none → c.pendingEntry = some e.cueId → c.entry e.cueId = some e → e.state = .cutWait →
        mine e.port → (∀ x ∈ c.cues, x.waitsFor e.port = false) →
        takes (reporting .missed .preempted e.cueId 0 (freeing e.port (s.setChan i (waiting
          { c with cues := c.cues.filter fun x => x.cueId != e.cueId, pendingEntry := none, missCount := bumped c.missCount }))))
          (slotMask i)) ∧
      (∀ b, c.state = .onBreak ∨ c.state = .rejoinWait → c.active = some (.brk b) → c.hold = [] → (s.port b.port).owner = some i →
        (s.port b.port).mode = .live →
        takes (reporting .held .preempted b.cueId b.cutStamp { s.setChan i (waiting { c with hold := [.brk b] }) with
          ports := s.ports.set b.port (drained (s.port b.port)) }) (slotMask i)) ∧
      (∀ b, c.state = .returnWait → c.active = some (.brk b) → mine b.port →
        (c.returnReport = none → takes (freeing b.port (s.setChan i (waiting c))) (slotMask i)) ∧
        (c.returnReport ≠ none →
          takes (reporting .cutOut .preempted b.cueId b.cutStamp (freeing b.port (s.setChan i (waiting c)))) (slotMask i))) ∧
      (∀ a, c.state = .alertWait ∨ c.state = .alert → c.active = some (.alert a) → a.level < f.level →
        let beneath := Record.alert { a with offset := none }
        (c.hold = [] → takes (s.setChan i (waiting { c with hold := [beneath] })) (slotMask i)) ∧
        (∀ bottom x y, c.hold = [bottom, x, y] → bottom.level < a.level → x.level < a.level → y.level < a.level →
          let u := s.setChan i (waiting { c with hold := [x, y, beneath] })
          (∀ b, bottom = .brk b → mine b.port →
            takes (reporting .shed .holdFull b.cueId b.cutStamp (freeing b.port u)) (slotMask i)) ∧
          (∀ lost, bottom = .alert lost → takes (leaving lost u) (slotMask i)))) ∧
      (∀ a bottom x y, c.state = .alertWait ∨ c.state = .alert → c.active = some (.alert a) → f.level < a.level →
        c.hold = [bottom, x, y] →
        let u := s.setChan i { c with hold := [.alert ref, x, y] }
        (f.level < bottom.level → takes s 0) ∧
        (bottom.level < f.level → f.level < x.level →
          (∀ b, bottom = .brk b → mine b.port →
            takes (reporting .shed .holdFull b.cueId b.cutStamp (freeing b.port u)) (slotMask i)) ∧
          (∀ lost, bottom = .alert lost → takes (leaving lost u) (slotMask i))))

/-- An alert record that ends, by ALERT_OFF or when its limit has passed, leaves the table, and every channel of its set gives it up: a
channel under it goes to what the top of its hold stack calls for, any other loses the held reference; and where no channel of the set
holds a break, CLEARED with the set as its mask is the one report and no port changes. Where the set is of one channel, the whole next
state is given: a stack without a record leads to RETURN_WAIT ANY, an alert on top to ALERT_WAIT for it, and a break is judged by its
remaining time: fit to rejoin, its port goes from DRAIN to LIVE, seeking, and the channel waits to rejoin; else CUT_OUT EXPIRED_IN_HOLD
or REJOIN_TOO_SHORT is raised, its port is freed, and the channel waits for its return point; CLEARED follows. An ALERT_OFF for an
unknown id changes nothing else (sections 6.8, 3.4, 5.8). That an expiry which is not due changes nothing but the timer is the model's
choice (log entry 3). -/
def Obligations.EndedAlertLeavesTheTableAndItsChannels : Prop :=
  ∀ (t : Time) (h : FrameHeader) (p : BitVec 24) (s : State) (id : Ident), s.isHeld = false →
    let c := s.chan
    let given (r : AlertRecord) (s' : State) : Prop :=
      s'.alerts = s.alerts.filter (fun x => x.alertId != id) ∧ s'.sout = s.sout ∧ s'.timer = t ∧
      ∀ i : Slot,
        (inMask r.channelSet i = false → (s'.chan i).active = (c i).active ∧ (s'.chan i).hold = (c i).hold) ∧
        (inMask r.channelSet i = true → (∀ a, (c i).active = some (.alert a) → a.alertId ≠ id) →
          (s'.chan i).active = (c i).active ∧ (s'.chan i).hold = (c i).hold.filter (fun x => !x.refersTo id)) ∧
        (∀ a, inMask r.channelSet i = true → (c i).active = some (.alert a) → a.alertId = id →
          (s'.chan i).hold = (c i).hold.dropLast ∧ (s'.chan i).starved = false ∧
          ((c i).hold = [] → (s'.chan i).state = .returnWait ∧ (s'.chan i).returnCondition = some .any ∧
            (s'.chan i).returnReport = none ∧ (s'.chan i).active = none ∧ (s'.chan i).reader = none) ∧
          (∀ below, (c i).hold.getLast? = some (.alert below) → (s'.chan i).state = .alertWait ∧
            (s'.chan i).active = some (.alert { below with offset := none }) ∧ (s'.chan i).alertWaitTime = t ∧
            (s'.chan i).reader = some s.ring.newReader) ∧
          (∀ b, (c i).hold.getLast? = some (.brk b) →
            let rem := signed b.returnPoint ((c i).clock.lastStamp + (t - (c i).clock.lastTime))
            (100000 * s.rejoinMinByte.toNat < rem → (s'.chan i).state = .rejoinWait ∧
              (s'.chan i).active = some (.brk b) ∧ (s'.chan i).rejoinWaitTime = t ∧ (s'.chan i).reader = none) ∧
            (rem ≤ 100000 * s.rejoinMinByte.toNat → (s'.chan i).state = .returnWait ∧
              (s'.chan i).returnCondition = some (.afterPoint b.returnPoint) ∧ (s'.chan i).active = none ∧
              (s'.chan i).reader = none)))
    let unbroken (r : AlertRecord) : Prop := ∀ j, inMask r.channelSet j = true → ∀ x ∈ (c j).hold, x.break? = none
    (∀ r, s.alerts.find? (fun x => x.alertId == id) = some r →
      ((t - r.limitStart).toNat ≤ r.limit → exec (.alertExpiry t id) s = .next { s with timer := t }) ∧
      (r.limit < (t - r.limitStart).toNat → ∃ s', exec (.alertExpiry t id) s = .next s' ∧ given r s' ∧ s'.line.rx = s.line.rx ∧
        (unbroken r → s'.ports = s.ports ∧ s'.line = (s.offer (.alert r.source id .cleared r.channelSet .expired r.level)).line) ∧
        (r.channelSet = 0 → s' = { s with
          timer := t, alerts := s.alerts.filter fun x => x.alertId != id
          line := (s.offer (.alert r.source id .cleared 0 .expired r.level)).line })) ∧
      (Hears s → ToGroup s h → s.station = .setup ∨ s.station = .active ∨ s.station = .clash → word3 p = id →
        ∃ s', exec (.alertOff t h p) s = .next s' ∧ given r s' ∧
          s'.line.rx = .window ⟨.groupList, 0, numberAbove s (last3 p).toNat (s.station ≠ .clash)⟩ ∧
          (unbroken r → s'.ports = s.ports ∧
            s'.line.queue = (s.offer (.alert r.source id .cleared r.channelSet .alertOff r.level)).line.queue ∧
            s'.line.drops = (s.offer (.alert r.source id .cleared r.channelSet .alertOff r.level)).line.drops) ∧
          (r.channelSet = 0 → s' = answered { s with
              alerts := s.alerts.filter fun x => x.alertId != id
              line := (s.offer (.alert r.source id .cleared 0 .alertOff r.level)).line } t .groupList
            (numberAbove s (last3 p).toNat (s.station ≠ .clash))))) ∧
    ((∀ x ∈ s.alerts, x.alertId ≠ id) → exec (.alertExpiry t id) s = .next { s with timer := t } ∧
      (Hears s → ToGroup s h → s.station = .setup ∨ s.station = .active ∨ s.station = .clash → word3 p = id →
        exec (.alertOff t h p) s = .next (answered s t .groupList .silent))) ∧
    (∀ (r : AlertRecord) (i : Slot), s.alerts.find? (fun x => x.alertId == id) = some r → r.channelSet = slotMask i →
      let cleared (reason : AlertReason) (u : State) : State := { u with
        alerts := s.alerts.filter fun x => x.alertId != id
        line := (u.offer (.alert r.source id .cleared (slotMask i) reason r.level)).line }
      let becomes (u : State) : Prop :=
        (r.limit < (t - r.limitStart).toNat → exec (.alertExpiry t id) s = .next { cleared .expired u with timer := t }) ∧
        (Hears s → ToGroup s h → s.station = .setup ∨ s.station = .active ∨ s.station = .clash → word3 p = id →
          exec (.alertOff t h p) s = .next (answered (cleared .alertOff u) t .groupList
            (numberAbove s (last3 p).toNat (s.station ≠ .clash))))
      let left : Channel := { c i with active := none, reader := none, starved := false, hold := (c i).hold.dropLast }
      ((∀ a, (c i).active = some (.alert a) → a.alertId ≠ id) →
        becomes (s.setChan i { c i with hold := (c i).hold.filter fun x => !x.refersTo id })) ∧
      (∀ a, (c i).active = some (.alert a) → a.alertId = id →
        ((c i).hold = [] → becomes (s.setChan i
          { left with state := .returnWait, returnCondition := some .any, returnReport := none })) ∧
        (∀ below, (c i).hold.getLast? = some (.alert below) → becomes (s.setChan i
          { left with active := some (.alert { below with offset := none }), state := .alertWait, returnCondition := none
                      returnReport := none, alertWaitTime := t, reader := some s.ring.newReader })) ∧
        (∀ b, (c i).hold.getLast? = some (.brk b) → (s.port b.port).owner = some i → (s.port b.port).mode = .drain →
          let rem := signed b.returnPoint ((c i).clock.lastStamp + (t - (c i).clock.lastTime))
          (100000 * s.rejoinMinByte.toNat < rem → becomes
            { s.setChan i { left with active := some (.brk b), state := .rejoinWait, rejoinWaitTime := t } with
              ports := s.ports.set b.port { s.port b.port with mode := .live, seeking := true } }) ∧
          (rem ≤ 100000 * s.rejoinMinByte.toNat → NoneWaits s b.port → becomes
            { s.setChan i { left with state := .returnWait, returnCondition := some (.afterPoint b.returnPoint)
                                      returnReport := none } with
              ports := s.ports.set b.port (freed (s.port b.port))
              line := (s.offer (.cut (s.tagOf i) .cutOut b.cueId (if rem ≤ 0 then .expiredInHold else .rejoinTooShort)
                b.cutStamp 0)).line }))))

/-- A slot event in ALERT_WAIT cuts to the alert at the unit start its reader stands at, with D from the channel clock and 0 without
one, and otherwise gives fill, or the network cell once the starvation limit has passed; a slot event in ALERT carries the cell at its
reader, rebased by D, or fill, and ends a break held beneath that has become stale, more than an hour past its return point, with CUT_OUT
EXPIRED_IN_HOLD and its port freed (section 4.4); and the starvation limit sets the starved flag of a channel in ALERT_WAIT (sections
6.6, 6.7). That an expiry of a limit that has not passed, or of a channel that is not in ALERT_WAIT, changes nothing but the timer is the
model's choice (log entry 3). -/
def Obligations.AlertIsCutToAndCarriedFromTheRing : Prop :=
  (∀ (t : Time) (cell : StreamCell) (s : State) (i : Slot) (a : AlertRef) (reader : Reader), (s.chan i).reader = some reader →
    (s.chan i).active = some (.alert a) →
    let k := clockAfter (s.chan i).clock t cell
    let c := carried s t i cell
    let due : Prop := (s.chan i).starved = true ∨ 2000000 < (t - (s.chan i).alertWaitTime).toNat
    let next (c' : Channel) (out : StreamCell) : Prop := exec (.networkCellArrival t cell) s = .next (slotDone s t i c' out)
    (Reaches s i cell → Undisturbed (s.chan i) t cell → (s.chan i).state = .alertWait →
      (∀ (q : RingPos) (n : Nat) (x : StreamCell), reader = .positioned q (n + 1) → s.ring.cells[q] = some x → x.stamp = true →
        let d := if k.state = .noClock then 0 else k.lastStamp + (t - k.lastTime) - x.time
        next { c with active := some (.alert { a with offset := some d }), reader := some (.positioned (q + 1) n),
                      state := .alert, starved := false, activity := true }
          (sentAs s i { x with time := x.time + d } true)) ∧
      (reader = .awaiting ∨ (∃ q, reader = .positioned q 0) →
        (due → next { c with starved := true } (sentAs s i cell (s.chan i).discDue)) ∧
        (¬ due → next { c with fillCount := bumped c.fillCount } (fillOf s i)))) ∧
    (Reaches s i cell → Undisturbed (s.chan i) t cell → (s.chan i).state = .alert →
      (∀ (q : RingPos) (n : Nat) (x : StreamCell) (d : Time), reader = .positioned q (n + 1) → s.ring.cells[q] = some x →
        a.offset = some d →
        next { c with reader := some (.positioned (q + 1) n) }
          (sentAs s i (if x.stamp then { x with time := x.time + d } else x) (s.chan i).discDue)) ∧
      (reader = .awaiting ∨ (∃ q, reader = .positioned q 0) →
        next { c with fillCount := bumped c.fillCount } (fillOf s i))) ∧
    (∀ b rest, Reaches s i cell → Undisturbed { s.chan i with hold := [] } t cell → (s.chan i).state = .alert →
      reader = .awaiting ∨ (∃ q, reader = .positioned q 0) → (s.chan i).hold = .brk b :: rest → (∀ r ∈ rest, r.break? = none) →
      k.state ≠ .noClock →
      let past := signed b.returnPoint (k.lastStamp + (t - k.lastTime))
      (-3600000000 ≤ past → next { c with fillCount := bumped c.fillCount } (fillOf s i)) ∧
      (past < -3600000000 → (s.port b.port).owner = some i → (s.port b.port).mode ≠ .free → NoneWaits s b.port →
        exec (.networkCellArrival t cell) s =
          .next { slotDone s t i { c with fillCount := bumped c.fillCount, hold := rest } (fillOf s i) with
            ports := s.ports.set b.port (freed (s.port b.port))
            line := (s.offer (.cut (s.tagOf i) .cutOut b.cueId .expiredInHold b.cutStamp 0)).line }))) ∧
  ∀ (t : Time) (s : State) (i : Slot), s.isHeld = false →
    ((s.chan i).state = .alertWait → 2000000 < (t - (s.chan i).alertWaitTime).toNat → exec (.starvationExpiry t i) s =
      .next { s.setChan i { s.chan i with starved := true } with timer := t }) ∧
    ((s.chan i).state ≠ .alertWait ∨ (t - (s.chan i).alertWaitTime).toNat ≤ 2000000 →
      exec (.starvationExpiry t i) s = .next { s with timer := t })

/-! ## Insertion rights (chapter 7) -/

/-- RIGHTS in SETUP and ACTIVE: field, lock, fixed channels and live breaks are checked in this order, and a frame that passes gives
every masked channel the rights at once, a guard withdrawing its entries with WITHDRAWN GUARDED in slot and list order (section 7.4). In
CLASH the outcome is NOT_NOW. -/
def Obligations.RightsAreJudgedInOrderAndApplied : Prop :=
  ∀ (t : Time) (h : FrameHeader) (p : BitVec 24) (s : State), Hears s → ToOwn s h → CuesLaw s →
    let masked (i : Slot) : Prop := inMask (word3 p) i = true
    let action := last3 p
    let refused (code : OutcomeCode) : Prop := exec (.rights t h p) s = .next (answered s t .ack (.ack code))
    let fixedOtherwise (asked : Rights) : Prop := ∃ i, masked i ∧ (s.chan i).fixed = true ∧ (s.chan i).rights ≠ asked
    let live : Prop := ∃ i, masked i ∧
      ((∃ r ∈ records (s.chan i), r.break?.isSome = true) ∨ (s.chan i).pendingEntry.isSome = true)
    let reports : List Report := (Config.slots.filter fun i => inMask (word3 p) i).flatMap fun i =>
      (s.chan i).cues.map fun e => .cut (s.tagOf i) .withdrawn e.cueId .guarded 0 0
    (s.station = .setup ∨ s.station = .active →
      (action ≠ 1 → action ≠ 2 → refused .field) ∧
      (action = 1 ∨ action = 2 → s.lock = true → refused .locked) ∧
      (action = 1 → s.lock = false → fixedOtherwise .opened → refused .fixed) ∧
      (action = 2 → s.lock = false → fixedOtherwise .guarded → refused .fixed) ∧
      (action = 2 → s.lock = false → ¬ fixedOtherwise .guarded → live → refused .breakLive) ∧
      (action = 1 → s.lock = false → ¬ fixedOtherwise .opened → exec (.rights t h p) s = .next (answered
        { s with channels := Vector.ofFn fun i : Slot => if inMask (word3 p) i then { s.chan i with rights := .opened } else s.chan i }
        t .ack (.ack .accepted))) ∧
      (action = 2 → s.lock = false → ¬ fixedOtherwise .guarded → ¬ live → exec (.rights t h p) s = .next (answered
        { s with
          channels := Vector.ofFn fun i : Slot =>
            if inMask (word3 p) i then { s.chan i with rights := .guarded, cues := [] } else s.chan i
          line := (reports.foldl State.offer s).line } t .ack (.ack .accepted)))) ∧
    (s.station = .clash → refused .notNow)

/-- R119: the lock flag after a RIGHTS_LOCK that the rights unit judges, and its outcome, by action, lock flag and RLK; no channel's
rights, fixed flag, entry or record changes, and no report is raised. -/
def Obligations.RightsLockFollowsItsTable : Prop :=
  ∀ (t : Time) (h : FrameHeader) (p : BitVec 8) (s : State), Hears s → ToOwn s h → s.station = .setup ∨ s.station = .active →
    let gives (after : Bool) (code : OutcomeCode) : Prop :=
      exec (.rightsLock t h p) s = .next (answered { s with lock := after } t .ack (.ack code))
    (p = 1 → gives true .accepted) ∧
    (p = 2 → s.lock = true → s.rlk = false → gives false .accepted) ∧
    (p = 2 → s.lock = true → s.rlk = true → gives true .locked) ∧
    (p = 2 → s.lock = false → gives false .accepted) ∧
    (p ≠ 1 → p ≠ 2 → gives s.lock .field)

/-- RIGHTS_FIX in SETUP and ACTIVE: without permission it is refused, then for the lock; else every masked channel is fixed, with its
rights, entries and records kept (section 7.6). In CLASH this frame and RIGHTS_LOCK are refused with NOT_NOW. -/
def Obligations.RightsFixNeedsPermissionAndNoLock : Prop :=
  ∀ (t : Time) (h : FrameHeader) (p : BitVec 16) (s : State), Hears s → ToOwn s h →
    let refused (code : OutcomeCode) : Prop := exec (.rightsFix t h p) s = .next (answered s t .ack (.ack code))
    (s.station = .setup ∨ s.station = .active →
      (s.fixPermitted = false → refused .fixNotPermitted) ∧
      (s.fixPermitted = true → s.lock = true → refused .locked) ∧
      (s.fixPermitted = true → s.lock = false → exec (.rightsFix t h p) s = .next (answered
        { s with channels := Vector.ofFn fun i : Slot => if inMask p i then { s.chan i with fixed := true } else s.chan i }
        t .ack (.ack .accepted)))) ∧
    (s.station = .clash → refused .notNow ∧
      ∀ action : BitVec 8, exec (.rightsLock t h action) s = .next (answered s t .ack (.ack .notNow)))

/-! ## The cue line (chapter 8) -/

/-- What the transmit queue takes and what the transmitter does with it. A report offered in SETUP and ACTIVE joins the queue behind the
frames of its own or a lower priority number, takes the place of the oldest waiting frame of the lowest priority when the queue is full,
if that is lower than its own, and is dropped if not, both counted as a drop; in any other state it is discarded (section 8.7). The head
of the queue is driven on an idle line in SETUP and ACTIVE alone, and not after a falling edge of another station; arbitration is lost
where the frame in flight sends a 1 in a header bit slot, and the frame stays in the queue with its retries while the receiver reads on
(sections 8.2, 8.4). Anything else changes nothing but the timer: that a slot in which no 1 is sent loses nothing is log entry 8; and
the own start mark is judged when its run has ended, not at TRANSMIT_START, and a lost arbitration finds the receiver in FRAME, which is
log entry 7. -/
def Obligations.TransmitterQueuesReportsAndStartsTheHead : Prop :=
  (∀ (s : State) (r : Report),
    let f : TxFrame := ⟨r, 0, false⟩
    let q := s.line.queue
    let first (g : TxFrame) : Bool := decide (g.report.priority ≤ r.priority)
    let joined (l : List TxFrame) : List TxFrame := l.takeWhile first ++ f :: l.dropWhile first
    (InService s → q.length < 8 → s.offer r = { s with line := { s.line with queue := joined q } }) ∧
    (∀ front old back, InService s → 8 ≤ q.length → q = front ++ old :: back → old.inFlight = false →
      (∀ g ∈ q, g.inFlight = false → g.report.priority ≤ old.report.priority) →
      (∀ g ∈ front, g.inFlight = true ∨ g.report.priority ≠ old.report.priority) → r.priority < old.report.priority →
      s.offer r = { s with line := { s.line with queue := joined (front ++ back), drops := bumped s.line.drops } }) ∧
    (InService s → 8 ≤ q.length → (∀ g ∈ q, g.inFlight = false → g.report.priority ≤ r.priority) →
      s.offer r = { s with line := { s.line with drops := bumped s.line.drops } }) ∧
    (¬ InService s → s.offer r = s)) ∧
  ∀ (t : Time) (n : Nat) (s : State), s.isHeld = false →
    let quietly (c : Instr) : Prop := exec c s = .next { s with timer := t }
    (∀ f rest, InService s → s.line.rx = .quiet → s.line.dominant = false → s.line.queue = f :: rest →
      (∀ g ∈ s.line.queue, g.inFlight = false) → exec (.transmitStart t) s = .next
        { s with timer := t, line := { s.line with queue := { f with inFlight := true } :: rest, recessiveSince := t, dominant := true } }) ∧
    (¬ InService s ∨ s.line.rx ≠ .quiet ∨ s.line.dominant = true ∨ s.line.queue = [] ∨ (∃ g ∈ s.line.queue, g.inFlight = true) →
      quietly (.transmitStart t)) ∧
    (∀ f, s.line.queue.find? (fun g => g.inFlight) = some f →
      let sent := (f.report.frameBytes s.stationNumber)[n / 8]?.map fun b => b.getMsbD (n % 8)
      (n < 24 → sent = some true → exec (.arbitrationLoss t n) s = .next
        { s with timer := t, line := { s.line with rx := .frame, queue := s.line.queue.map fun g => { g with inFlight := false } } }) ∧
      (24 ≤ n ∨ sent ≠ some true → quietly (.arbitrationLoss t n))) ∧
    ((∀ g ∈ s.line.queue, g.inFlight = false) → quietly (.arbitrationLoss t n))

/-- A frame sent clean leaves the queue, clears the transmit fault flag and is handed on: a CUT report that no entry awaits, or
of kind CUT_OUT, HELD or REJOINED, changes no entry, a MISSED, WITHDRAWN or SHED one withdraws the entry that awaits it, and a CUT_IN
gives it its splice time or withdraws it, as another station's would (sections 8.4, 5.3). A bit error drives a line break and keeps the
frame with one more retry, or after the third retry abandons it (section 8.5). A BIT_ERROR in a slot in which no bit error can be
found changes nothing but the timer, and the receiver stands in FRAME at a bit error, which is the model's reading (log entry 8). -/
def Obligations.FrameInFlightIsSentCleanRetriedOrAbandoned : Prop :=
  ∀ (t : Time) (n : Nat) (s : State) (f : TxFrame), s.isHeld = false → s.line.queue.find? (fun g => g.inFlight) = some f →
    let clean : State := { s with
      timer := t
      line := { s.line with rx := .window ⟨.none, 0, .silent⟩, queue := s.line.queue.filter (fun g => !g.inFlight),
                            transmitFault := false, recessiveSince := t - 24, dominant := false } }
    let broken : LineInterface := { s.line with rx := .frame, ownBreak := some t, recessiveSince := t, dominant := true }
    let own : Byte := s.stationNumber.setWidth 8
    let awaited (cueId : Ident) (j : Slot) : Prop := ∃ x ∈ (s.chan j).cues, x.awaits own cueId = true
    let sent := (f.report.frameBytes s.stationNumber)[n / 8]?.map fun b => b.getMsbD (n % 8)
    (∀ destination id kind mask reason level, f.report = .alert destination id kind mask reason level →
      exec (.cleanSend t) s = .next clean) ∧
    (∀ base station latch, f.report = .present base station latch → exec (.cleanSend t) s = .next clean) ∧
    (∀ tag kind id reason stamp late, f.report = .cut tag kind id reason stamp late →
      (kind = .cutOut ∨ kind = .held ∨ kind = .rejoined ∨ (∀ j, ¬ awaited id j) → exec (.cleanSend t) s = .next clean) ∧
      (∀ i e, (s.chan i).cues = [e] → awaited id i → (∀ j, j ≠ i → ¬ awaited id j) →
        let c := s.chan i
        let withdrawn (why : CutReason) : Prop := exec (.cleanSend t) s = .next
          { clean.setChan i { c with cues := [] } with
            line := (clean.offer (.cut (s.tagOf i) .withdrawn e.cueId why 0 0)).line }
        (kind = .missed ∨ kind = .withdrawn ∨ kind = .shed → withdrawn .peerMissed) ∧
        (∀ ms, kind = .cutIn → e.trigger = .peer own id ms →
          let sp := stamp + BitVec.ofNat 36 (1000 * ms)
          let d := signed sp (c.clock.lastStamp + (t - c.clock.lastTime))
          let overlaps (b : BreakRecord) : Bool := intervalsOverlap sp (1000 * e.duration)
            (b.returnPoint - BitVec.ofNat 36 (1000 * b.duration)) (1000 * b.duration)
          (c.clock.state ≠ .locked → withdrawn .noClock) ∧
          (c.clock.state = .locked → d < -(10000 * s.lateLimitByte.toNat : Int) ∨ 14400000000 < d → withdrawn .tooLate) ∧
          (c.clock.state = .locked → -(10000 * s.lateLimitByte.toNat : Int) ≤ d → d ≤ 14400000000 →
            ((∃ b, c.breakRecord = some b ∧ overlaps b = true) → withdrawn .overlap) ∧
            ((∀ b, c.breakRecord = some b → overlaps b = false) → exec (.cleanSend t) s = .next
              (clean.setChan i { c with cues := [{ e with splice := some sp, state := .pending false }] })))))) ∧
    (24 ≤ n ∧ sent.isSome = true ∨ sent = some false →
      (f.retries < 3 → exec (.bitError t n) s = .next { s with
        timer := t
        line := { broken with
          queue := s.line.queue.map fun g => if g.inFlight then { g with retries := g.retries + 1, inFlight := false } else g } }) ∧
      (3 ≤ f.retries → exec (.bitError t n) s = .next { s with
        timer := t
        line := { broken with
          transmitFault := true, abandons := bumped s.line.abandons, queue := s.line.queue.filter fun g => !g.inFlight } })) ∧
    (sent = none ∨ n < 24 ∧ sent = some true → exec (.bitError t n) s = .next { s with timer := t })

/-- A line break in any receive state, a run that is no start mark in QUIET, and a measured error of a bit slot or of the response window
in FRAME and WINDOW cut off what is on the line, a frame in flight with its own start mark too, count once, and leave the receiver in
RECOVER until the line is idle; so do a check error and a length error at end-of-data, while a frame of unknown kind is ignored; a run of
40 to 56 µs in QUIET is a start mark, and a noise pulse only counts (sections 8.1 to 8.6). Each moves the recessive period, and in
LISTEN the end of a run moves the quiet start (section 11.2). Which observation shows what, and that a slot's error is judged in QUIET too,
are log entries 5, 6 and 10; that an edge more than 48 µs after a window's last byte is judged as in the window is log entry 33, and that
a check error of no error changes nothing is log entry 19. -/
def Obligations.DisturbancesCountAndLeadToRecover : Prop :=
  ∀ (t : Time) (o : LineObservation) (bytes : List Byte) (s : State), s.isHeld = false →
    let quiet (runEnd : Time) : Time := if s.station = .listen then runEnd else s.quietStart
    let landed := s.line.queue.map fun g => { g with inFlight := false }
    let seen (rx : RxState) (queue : List TxFrame) (errors : Count) : State := match o with
      | .run us => { s with
          timer := t, quietStart := if us < 2 then s.quietStart else quiet t
          line := { s.line with rx := rx, queue := queue, receiveErrors := errors
                                recessiveSince := if us < 2 then s.line.recessiveSince else t
                                dominant := if us < 2 then s.line.dominant else false } }
      | .pause slots ago => { s with
          timer := t, quietStart := quiet (t - BitVec.ofNat 36 ago)
          line := { s.line with rx := rx, queue := queue, receiveErrors := errors
                                recessiveSince := if slots < 8 then t - BitVec.ofNat 36 ago else t - 1, dominant := false } }
      | _ => { s with
          timer := t
          line := { s.line with rx := rx, queue := queue, receiveErrors := errors, recessiveSince := t, dominant := true } }
    let startMark (us : Nat) : Prop := 40 ≤ us ∧ us ≤ 56
    let noMark : Prop := ∃ us, o = .run us ∧ 2 ≤ us ∧ us < 160 ∧ ¬ startMark us
    let slot : Prop := (∃ us, o = .earlyEdge us ∧ us < 7) ∨ (∃ k ago, o = .pause k ago ∧ k < 8) ∨
      (∃ a b, o = .lateEdge a b ∧ 9 < a ∧ b < 24) ∨ o = .extraByte
    let long : Prop := ∃ us, o = .run us ∧ 7 < us ∧ us < 160
    let beyond (w : Window) : Prop := ∃ a b, o = .lateEdge a b ∧ 9 < a ∧
      (32 < b ∨ (match w.type with | .none => 0 | .ack => 1 | .data => 8 | .groupList => 8) ≤ w.seen)
    let isError : Prop := (s.line.rx = .quiet ∧ (noMark ∨ slot)) ∨ (s.line.rx = .frame ∧ (long ∨ slot)) ∨
      (∃ w, s.line.rx = .window w ∧ (long ∨ slot ∨ beyond w))
    let reading : Prop := s.line.rx = .quiet ∨ s.line.rx = .frame
    let known (k : FrameKind) : Prop := k.value = (bytes.headD 0).extractLsb' 0 5
    let checked : Prop := checkByte bytes.dropLast = bytes.getLastD 0
    let fits : Prop := ∃ k, known k ∧ bytes.length = k.payloadBytes + 4
    let unknown : Prop := ∀ k, ¬ known k
    let ended (rx : RxState) (queue : List TxFrame) (errors : Count) : State := { s with
      timer := t, quietStart := quiet (t - 24 - (if (bytes.getLastD 0).getLsbD 0 then 6 else 2))
      line := { s.line with rx := rx, queue := queue, receiveErrors := errors, recessiveSince := t - 24, dominant := false } }
    exec (.lineBreak t) s = .next { s with
      timer := t
      line := { s.line with rx := .recover, queue := landed, lineBreaks := bumped s.line.lineBreaks, recessiveSince := t
                            dominant := true } } ∧
    exec (.noisePulse t) s = .next { s with timer := t, line := { s.line with noise := bumped s.line.noise } } ∧
    (isError → exec (.receiveError t o) s = .next (seen .recover landed (bumped s.line.receiveErrors))) ∧
    (¬ isError →
      ((∃ us, o = .run us ∧ 160 ≤ us) → exec (.receiveError t o) s = .next (seen .recover landed s.line.receiveErrors)) ∧
      ((∃ us, o = .run us ∧ startMark us) → s.line.rx = .quiet →
        exec (.receiveError t o) s = .next (seen .frame s.line.queue s.line.receiveErrors)) ∧
      ((∀ us, o = .run us → us < 160 ∧ (¬ startMark us ∨ s.line.rx ≠ .quiet)) →
        exec (.receiveError t o) s = .next (seen s.line.rx s.line.queue s.line.receiveErrors))) ∧
    (checked ∧ fits → exec (.checkError t bytes) s = .next { s with timer := t }) ∧
    (reading → ¬ checked ∨ ¬ unknown ∧ ¬ fits →
      exec (.checkError t bytes) s = .next (ended .recover landed (bumped s.line.receiveErrors))) ∧
    (reading → checked → unknown →
      exec (.checkError t bytes) s = .next (ended (.window ⟨.none, 0, .silent⟩) s.line.queue s.line.receiveErrors)) ∧
    (¬ reading → ¬ (checked ∧ fits) →
      exec (.checkError t bytes) s = .next (ended s.line.rx s.line.queue s.line.receiveErrors))

/-- A response byte, or the bit slots of it that pass before it is cut off, in the window: an ack and the last data byte end this
station's part, a bit that reads otherwise than the station sent it ends it and counts a receive error, a group-list number that is read
back has been heard, a smaller number lets this one try again while the window has room, a greater one stops it, and a byte that begins
before the 24 µs gap has ended, after the 32 µs in which one can begin, or beyond the window's type is a receive error (section 8.6). A
station that may not drive the line keeps what it has decided (log entry 18). That the bits are compared as they read on the line, at
the end of what passed, is log entry 9, and that a byte more than 48 µs after the one before is judged as in the window log entry 33. The
recessive period counts from the end of a whole byte, and from the end of the last run of one that was cut off, where the quiet start of
LISTEN stands too (log entry 6). -/
def Obligations.ResponseByteMovesTheWindowOn : Prop :=
  ∀ (t : Time) (gap slots : Nat) (line : Byte) (s : State), s.isHeld = false → 1 ≤ slots → slots ≤ 8 →
    let number : Byte := s.stationNumber.setWidth 8
    let head (b : Byte) : Nat := b.toNat / 2 ^ (8 - slots)
    let runEnd : Time := t - (if line.getMsbD (slots - 1) then 6 else 2)
    let passed (l : LineInterface) : State := { s with
      timer := t
      quietStart := if s.station = .listen then runEnd else s.quietStart
      line := { l with recessiveSince := if slots = 8 then t else runEnd, dominant := false } }
    let becomes (l : LineInterface) : Prop := exec (.responseByte t ⟨gap, slots, line⟩) s = .next (passed l)
    let failed : LineInterface := { s.line with
      rx := .recover, receiveErrors := bumped s.line.receiveErrors
      queue := s.line.queue.map fun g => { g with inFlight := false } }
    (∀ w, s.line.rx = .window w →
      let limit := match w.type with | .none => 0 | .ack => 1 | .data => 8 | .groupList => 8
      let next (d : Decision) : LineInterface :=
        { s.line with rx := .window { w with seen := if slots = 8 then w.seen + 1 else w.seen, decision := d } }
      let sees (d : Decision) : Prop := becomes (next d)
      let differs : Prop := becomes { next .silent with receiveErrors := bumped s.line.receiveErrors }
      (InService s → 24 ≤ gap → gap ≤ 32 → w.seen < limit →
        (w.decision = .silent → sees .silent) ∧
        (∀ code, w.decision = .ack code →
          (head line = head code.value → slots < 8 → sees (.ack code)) ∧
          (head line = head code.value → slots = 8 → sees .silent) ∧ (head line ≠ head code.value → differs)) ∧
        (∀ bytes, w.decision = .data bytes →
          (head line = head (bytes.getD w.seen 0) → slots < 8 ∨ w.seen + 1 < bytes.length → sees (.data bytes)) ∧
          (head line = head (bytes.getD w.seen 0) → slots = 8 → bytes.length ≤ w.seen + 1 → sees .silent) ∧
          (head line ≠ head (bytes.getD w.seen 0) → differs)) ∧
        (w.decision = .number →
          (head number < head line → sees .silent) ∧ (head line ≤ head number → slots < 8 → sees .number) ∧
          (line < number → slots = 8 → w.seen < 7 → sees .number) ∧
          (slots = 8 → line = number ∨ line < number ∧ 7 ≤ w.seen → sees .silent))) ∧
      (¬ InService s → 24 ≤ gap → gap ≤ 32 → w.seen < limit → sees w.decision) ∧
      (gap < 24 ∨ 32 < gap ∨ limit ≤ w.seen → becomes failed)) ∧
    (s.line.rx = .quiet → becomes failed) ∧
    (s.line.rx = .frame ∨ s.line.rx = .recover → becomes s.line)

/-! ## Roll-call, reading, joining (chapters 9 to 11) -/

/-- A QUERY in SETUP and ACTIVE changes nothing but the decision to answer: the station is above the floor, and its condition, the test
with polarity over the masked channels, ANY or ALL, is true, or its start latch is set (R156 to R158). In CLASH it is not acted on. -/
def Obligations.QueryIsAnsweredByConditionOrStartLatch : Prop :=
  ∀ (t : Time) (h : FrameHeader) (p : BitVec 32) (s : State), Hears s → ToGroup s h →
    let f := queryFields p
    let masked (i : Slot) : Prop := inMask f.mask i = true
    let broken (c : Channel) : Prop := ∃ b, c.active = some (.brk b)
    let test (c : Channel) : Prop :=
      (f.test = 0 ∧ (c.state = .onBreak ∨ c.state = .rejoinWait ∨ c.state = .returnWait ∧ broken c)) ∨
      (f.test = 1 ∧ (c.state = .alertWait ∨ c.state = .alert)) ∨ (f.test = 2 ∧ c.cues ≠ []) ∨
      (f.test = 3 ∧ c.clock.state = .locked) ∨ (f.test = 4 ∧ c.activity = true) ∨ (f.test = 5 ∧ c.rights = .guarded)
    let result (i : Slot) : Prop := test (s.chan i) ↔ f.inverts = false
    let condition : Prop := (∃ i, masked i ∧ result i) ∧ (f.all = true → ∀ i, masked i → result i)
    let answers : Prop := f.floor < s.stationNumber.toNat ∧ (condition ∨ s.startLatch = true)
    (InService s → answers → exec (.query t h p) s = .next (answered s t .groupList .number)) ∧
    (InService s → ¬ answers → exec (.query t h p) s = .next (answered s t .groupList .silent)) ∧
    (s.station = .clash → exec (.query t h p) s = .next (answered s t .groupList .silent))

/-- LATCH_CLEAR in SETUP and ACTIVE clears the activity latches of the masked channels and, where its flag says so, the start
latch; the station answers, above the floor 0, when a latch it names was set, and nothing else changes. In STRAP_FAULT, LISTEN and CLASH
it is not acted on (section 10.3). That LISTEN puts the quiet start at the end of the frame's last dominant run as computed from its check
byte is the model's choice (log entry 6). -/
def Obligations.LatchClearClearsTheNamedLatches : Prop :=
  ∀ (t : Time) (h : FrameHeader) (p : BitVec 24) (s : State), Hears s → ToGroup s h →
    let start : Bool := (last3 p).getLsbD 0
    (InService s → exec (.latchClear t h p) s = .next (answered
      { s with
        channels := Vector.ofFn fun i : Slot => if inMask (word3 p) i then { s.chan i with activity := false } else s.chan i
        startLatch := if start then false else s.startLatch }
      t .groupList (numberAbove s 0 ((∃ i, inMask (word3 p) i = true ∧ (s.chan i).activity = true) ∨
        (start = true ∧ s.startLatch = true))))) ∧
    (s.station = .clash ∨ s.station = .strapFault → exec (.latchClear t h p) s = .next (answered s t .groupList .silent)) ∧
    (s.station = .listen → exec (.latchClear t h p) s = .next (answered
      { s with quietStart := frameRunEnd t (checkByte (receivedBytes .latchClear h p)) } t .groupList .silent))

/-- STATE_READ in SETUP and ACTIVE changes nothing but the data response, which is the page its item and index name and the check byte
over it; a page that does not exist is seven bytes of FFh, and no page of a station with lawful settings begins with FFh (section 9.6).
In CLASH it is not acted on. -/
def Obligations.StateReadAnswersWithThePage : Prop :=
  ∀ (t : Time) (h : FrameHeader) (p : BitVec 16) (s : State), Hears s → ToOwn s h →
    let item := (p.extractLsb' 8 8).toNat
    let index := (p.extractLsb' 0 8).toNat
    let reads (page : List Byte) : Prop :=
      page.length = 7 ∧ exec (.stateRead t h p) s = .next (answered s t .data (.data (page ++ [checkByte page])))
    let two (x : BitVec 16) : List Byte := [x.extractLsb' 8 8, x.extractLsb' 0 8]
    (InService s →
      (∀ i : Slot, item = 0 → index = i.val → reads (s.channelPage i)) ∧
      (∀ i : Slot, item = 1 → index = i.val → let c := s.chan i
        reads (c.outSeq.setWidth 8 :: (two c.fillCount ++ two c.underrunCount ++ two c.truncatedCount))) ∧
      (∀ i : Slot, item = 1 → index = 16 + i.val → let c := s.chan i
        reads (BitVec.ofNat 8 i.val :: (two c.missCount ++ two c.ringSkipCount ++ [0, 0]))) ∧
      (∀ q : PortId, item = 2 → index = q.val → reads (s.portPage1 q)) ∧
      (∀ q : PortId, item = 2 → index = 4 + q.val →
        reads (BitVec.ofNat 8 q.val :: (two (s.port q).markErrors ++ [0, 0, 0, 0]))) ∧
      (item = 3 → index = 0 → reads ([s.station.value, s.stationFlags, BitVec.ofNat 8 s.cueTotal, BitVec.ofNat 8 s.alerts.length,
        BitVec.ofNat 8 s.line.queue.length] ++ two s.line.drops)) ∧
      (item = 3 → index = 1 → reads (s.stationNumber.setWidth 8 :: (two s.line.receiveErrors ++ two s.line.lineBreaks ++
        two s.line.abandons))) ∧
      (item = 3 → index = 2 → reads (s.blockBase :: (two s.line.noise ++ two s.networkMarkErrors ++ two s.ring.markErrors))) ∧
      (item = 3 → index = 3 → reads ([s.prerollByte, s.lateLimitByte, s.rejoinMinByte] ++ two s.integrityCount ++ two s.conflictCount)) ∧
      (4 ≤ item ∨ (item = 0 ∧ 16 ≤ index) ∨ (item = 1 ∧ 32 ≤ index) ∨ (item = 2 ∧ 8 ≤ index) ∨ (item = 3 ∧ 4 ≤ index) →
        reads (List.replicate 7 0xFF#8)) ∧
      (SettingsLaw s → (s.page (p.extractLsb' 8 8) (p.extractLsb' 0 8)).head? = some 0xFF#8 →
        4 ≤ item ∨ (item = 0 ∧ 16 ≤ index) ∨ (item = 1 ∧ 32 ≤ index) ∨ (item = 2 ∧ 8 ≤ index) ∨ (item = 3 ∧ 4 ≤ index))) ∧
    (s.station = .clash → exec (.stateRead t h p) s = .next (answered s t .data .silent))

/-- The bits of the pages that pack several fields in a byte stand where section 12.2 puts them: the channel summary, the first port
page and the station flags; and the codes of states, modes, outcomes, kinds and reasons have the values of that section. -/
def Obligations.PackedPagesCarryTheirFields : Prop :=
  ([StationState.strapFault, .listen, .setup, .active, .clash].map StationState.value = [0, 1, 2, 3, 4] ∧
    [ChannelState.network, .cutWait, .onBreak, .returnWait, .rejoinWait, .alertWait, .alert].map ChannelState.value =
      [0, 1, 2, 3, 4, 5, 6] ∧
    [ClockState.noClock, .acquiring, .locked].map ClockState.value = [0, 1, 2] ∧
    [PortMode.free, .reserved, .live, .drain].map PortMode.value = [0, 1, 2, 3] ∧
    [OutcomeCode.accepted, .replaced, .notNow, .guarded, .idClash, .tooLate, .tooFar, .overlap, .full, .inProgress, .noClock, .noSuchCue,
        .locked, .fixed, .fixNotPermitted, .breakLive, .field].map OutcomeCode.value =
      [0x01, 0x02, 0x10, 0x11, 0x12, 0x13, 0x14, 0x15, 0x16, 0x17, 0x18, 0x19, 0x20, 0x21, 0x22, 0x23, 0x30] ∧
    [CutKind.cutIn, .cutOut, .held, .rejoined, .missed, .withdrawn, .shed].map CutKind.value = [1, 2, 3, 4, 5, 6, 7] ∧
    [CutReason.scheduled, .earlyEnd, .cancelled, .clockJump, .clockLost, .noClock, .insertNotReady, .noCutPoint, .portBusy, .preempted,
        .guarded, .peerMissed, .peerSilent, .overlap, .tooLate, .expiredInHold, .rejoinTooShort, .rejoinNoInsert,
        .holdFull].map CutReason.value = (List.range 19).map (BitVec.ofNat 8) ∧
    [AlertKind.taken, .observed, .cleared, .declined].map AlertKind.value = [1, 2, 3, 4] ∧
    [AlertReason.none, .alertOff, .expired, .tableFull].map AlertReason.value = [0, 1, 2, 3]) ∧
  ∀ (s : State) (i : Slot) (q : PortId),
    let c := s.chan i
    let byte (page : List Byte) (n : Nat) : Byte := page.getD n 0
    let summary := byte (s.channelPage i)
    let first := byte (s.portPage1 q)
    (summary 0).extractLsb' 0 3 = c.state.value ∧
    ((summary 0).getLsbD 3 = true ↔ c.state = .returnWait ∧ c.returnCondition = some .any) ∧
    ((summary 0).getLsbD 4 = true ↔ c.state = .alertWait ∧ c.starved = true) ∧ (summary 0).extractLsb' 5 3 = 0 ∧
    (c.active = none → (summary 1).extractLsb' 0 2 = 0 ∧ summary 2 ++ summary 3 = 0#16) ∧
    (∀ b, c.active = some (.brk b) → (summary 1).extractLsb' 0 2 = 1 ∧ summary 2 ++ summary 3 = b.cueId) ∧
    (∀ a, c.active = some (.alert a) → (summary 1).extractLsb' 0 2 = 2 ∧ summary 2 ++ summary 3 = a.alertId) ∧
    (c.hold.length ≤ 3 → ((summary 1).extractLsb' 2 2).toNat = c.hold.length) ∧ (summary 1).extractLsb' 4 2 = c.clock.state.value ∧
    (summary 1).extractLsb' 6 2 = 0 ∧ ((summary 4).getLsbD 0 = true ↔ c.rights = .guarded) ∧ (summary 4).getLsbD 1 = c.fixed ∧
    (summary 4).getLsbD 2 = c.activity ∧ (summary 4).extractLsb' 3 5 = 0 ∧ (c.cues.length ≤ 8 → (summary 5).toNat = c.cues.length) ∧
    ((∀ x, (s.port x).owner ≠ some i) → summary 6 = 0x80#8) ∧
    ((s.port q).owner = some i → (∀ x, x ≠ q → (s.port x).owner ≠ some i) → summary 6 = BitVec.ofNat 8 q.val) ∧
    (first 0).extractLsb' 0 2 = (s.port q).mode.value ∧ (first 0).getLsbD 2 = (s.port q).seeking ∧
    (first 0).getLsbD 3 = (s.port q).hold ∧ (first 0).extractLsb' 4 4 = 0 ∧
    ((s.port q).owner = none → first 1 = 0x80#8) ∧ ((s.port q).owner = some i → first 1 = BitVec.ofNat 8 i.val) ∧
    ((s.port q).queue.length ≤ 48 → (first 2).toNat = (s.port q).queue.length) ∧
    first 3 ++ first 4 = (s.port q).overflow ∧ first 5 ++ first 6 = (s.port q).drained ∧
    s.stationFlags.getLsbD 0 = s.lock ∧ s.stationFlags.getLsbD 1 = s.fixPermitted ∧ s.stationFlags.getLsbD 2 = s.rlk ∧
    s.stationFlags.getLsbD 3 = s.startLatch ∧ s.stationFlags.getLsbD 4 = s.line.transmitFault ∧ s.stationFlags.extractLsb' 5 3 = 0

/-- The setup frames in SETUP: SETUP_TIMES replaces the three times, clamped, and the fix-permitted flag; SETUP_WINDOW replaces the
window it names, or is refused with FIELD; SETUP_DONE takes the station to ACTIVE with its PRESENT raised (sections 11.3, 9.7). In
ACTIVE and CLASH all three are refused with NOT_NOW. -/
def Obligations.SetupFramesSetTheSetupValues : Prop :=
  ∀ (t : Time) (h : FrameHeader) (times : BitVec 32) (p : BitVec 72) (s : State), Hears s → ToOwn s h →
    let preroll : Byte := times.extractLsb' 24 8
    let lateLimit : Byte := times.extractLsb' 16 8
    let index : Byte := p.extractLsb' 64 8
    let scopes (sc : WindowScope) : Prop := p.extractLsb' 24 8 =
      (match sc with | .liveOnly => 0#8 | .testOnly => 1#8 | .either => 2#8 | .disabled => 3#8)
    let modes (m : AlertMode) : Prop := p.extractLsb' 16 8 = (match m with | .override => 0#8 | .observe => 1#8)
    let done (c : Instr) (u : State) (code : OutcomeCode) : Prop := exec c s = .next (answered u t .ack (.ack code))
    (s.station = .setup →
      done (.setupTimes t h times)
        { s with prerollByte := if 100 < preroll.toNat then 100 else preroll
                 lateLimitByte := if 200 < lateLimit.toNat then 200 else lateLimit
                 rejoinMinByte := times.extractLsb' 8 8, fixPermitted := times.getLsbD 0 } .accepted ∧
      (∀ sc m, scopes sc → modes m →
        let window : RegionWindow := ⟨p.extractLsb' 48 16, p.extractLsb' 32 16, sc, m, p.extractLsb' 0 16⟩
        (index = 0 → done (.setupWindow t h p) { s with window0 := window } .accepted) ∧
        (index = 1 → done (.setupWindow t h p) { s with window1 := window } .accepted)) ∧
      (1 < index.toNat ∨ (∀ sc, ¬ scopes sc) ∨ (∀ m, ¬ modes m) → done (.setupWindow t h p) s .field) ∧
      done (.setupDone t h)
        { s with station := .active
                 line := (State.offer { s with station := .active } (.present s.blockBase .active s.startLatch)).line } .accepted) ∧
    (s.station = .active ∨ s.station = .clash →
      done (.setupTimes t h times) s .notNow ∧ done (.setupWindow t h p) s .notNow ∧ done (.setupDone t h) s .notNow)

/-- The line joins the station: after 64 µs of recessive line LINE_IDLE takes the receiver from RECOVER, or from the end of a frame, to
QUIET, with the own line break over; it does nothing but move the timer within 64 µs of the release of the own line break, which comes 200
µs after its start, and while this station has a frame in flight or a response to send, since a line that is driven is not recessive;
100,000 µs of quiet on a line that is not dominant take LISTEN to SETUP, and 2,000,000 µs of SETUP to ACTIVE, where PRESENT is raised
(sections 8.1, 8.2, 8.5, 11.2, 11.3). A time that has not passed changes nothing but the timer (log entry 3); that a run whose end was not
reported ended 64 µs before LINE_IDLE, where the quiet start of LISTEN then stands, is log entry 6. -/
def Obligations.QuietLineAndSetupWindowJoinTheStation : Prop :=
  ∀ (t : Time) (s : State), s.isHeld = false →
    let rx : RxState := match s.line.rx with
      | .window _ => .quiet
      | .recover => .quiet
      | .quiet => .quiet
      | .frame => .frame
    let clear : Prop := ∀ since, s.line.ownBreak = some since → 264 ≤ (t - since).toNat
    let sends : Prop := (∃ f ∈ s.line.queue, f.inFlight = true) ∨ (InService s ∧ ∃ w, s.line.rx = .window w ∧ w.decision ≠ .silent)
    (64 ≤ (t - s.line.recessiveSince).toNat → clear → ¬ sends →
      (s.line.dominant = false → exec (.lineIdle t) s = .next { s with
        timer := t, line := { s.line with rx := rx, ownBreak := none } }) ∧
      (s.line.dominant = true → exec (.lineIdle t) s = .next { s with
        timer := t, quietStart := if s.station = .listen then t - 64 else s.quietStart
        line := { s.line with rx := rx, ownBreak := none, recessiveSince := t - 64, dominant := false } })) ∧
    ((t - s.line.recessiveSince).toNat < 64 ∨ ¬ clear ∨ sends → exec (.lineIdle t) s = .next { s with timer := t }) ∧
    (s.station = .listen → s.line.dominant = false → 100000 ≤ (t - s.quietStart).toNat → exec (.quietPeriodEnd t) s = .next { s with
      timer := t, station := .setup, setupStart := t, line := { s.line with rx := .quiet } }) ∧
    (s.station ≠ .listen ∨ s.line.dominant = true ∨ (t - s.quietStart).toNat < 100000 → exec (.quietPeriodEnd t) s = .next { s with timer := t }) ∧
    (s.station = .setup → 2000000 < (t - s.setupStart).toNat → exec (.setupWindowExpiry t) s = .next { s with
      timer := t, station := .active
      line := (State.offer { s with station := .active } (.present s.blockBase .active s.startLatch)).line }) ∧
    (s.station ≠ .setup ∨ (t - s.setupStart).toNat ≤ 2000000 → exec (.setupWindowExpiry t) s = .next { s with timer := t })

/-- A PRESENT of another station with this station's number takes LISTEN, SETUP and ACTIVE to CLASH, where the line is released and the
queue flushed without a count; any other PRESENT, and every ALERT_REPORT, change nothing (sections 11.4, 9.2); where LISTEN puts the quiet
start is log entry 6. FAULT is asserted in
STRAP_FAULT, in CLASH and with the transmit fault flag, while the part runs. -/
def Obligations.ClashIsEnteredOnAPresentWithTheOwnNumber : Prop :=
  ∀ (t : Time) (h : FrameHeader) (p : BitVec 24) (q : BitVec 56) (s : State), Hears s → fromStation h → h.destination.toNat < 64 →
    let same : Prop := h.source = s.stationNumber.setWidth 8
    (InService s → same → exec (.presentReceived t h p) s = .next (answered
      { s with station := .clash, line := { s.line with queue := [], ownBreak := none } } t .none .silent)) ∧
    (s.station = .listen → same → exec (.presentReceived t h p) s = .next (answered
      { s with
        station := .clash, quietStart := frameRunEnd t (checkByte (receivedBytes .present h p))
        line := { s.line with queue := [], ownBreak := none } } t .none .silent)) ∧
    (InService s → ¬ same → exec (.presentReceived t h p) s = .next (answered s t .none .silent)) ∧
    (s.station = .strapFault ∨ s.station = .clash → exec (.presentReceived t h p) s = .next (answered s t .none .silent)) ∧
    (s.station ≠ .listen → exec (.alertReportReceived t h q) s = .next (answered s t .none .silent)) ∧
    (s.faultPin = true ↔ s.station = .strapFault ∨ s.station = .clash ∨ s.line.transmitFault = true)

/-- In LISTEN no command is taken: a frame opens the window of its kind's response type and moves the quiet start to the end of its last
dominant run, an ack command for this station is refused with NOT_NOW and no other command is answered; only a PRESENT with the own number
does more, and a CUT finds no entry to match where the cue list is empty (sections 9.2, 9.4, 11.2, 11.4). In STRAP_FAULT a frame opens
its window alone. The moment of that run's end is computed from the check byte (log entry 6). -/
def Obligations.ListenAndStrapFaultTakeNoCommand : Prop :=
  ∀ (c : Instr) (t : Time) (h : FrameHeader) (kind : FrameKind) (covered : List Byte) (s : State),
    frameOf c = some (t, h, kind, covered) → Hears s → fromStation h → h.destination.toNat < 64 →
    (∀ i, (s.chan i).cues = []) →
    ((s.station = .listen → (∀ p, c = .presentReceived t h p → h.source ≠ s.stationNumber.setWidth 8) →
      exec c s = .next (answered { s with quietStart := frameRunEnd t (checkByte covered) } t kind.responseType
        (if kind.responseType = .ack ∧ h.destination = s.stationNumber.setWidth 8 then .ack .notNow else .silent))) ∧
     (s.station = .strapFault → exec c s = .next (answered s t kind.responseType .silent)))

/-! ## Laws of the whole device -/

/-- Outside reset each control of the station changes under its own command alone: the lock by RIGHTS_LOCK, rights by RIGHTS on an unfixed
channel, a fixed flag is set by RIGHTS_FIX and never cleared, times and fix-permitted flag by SETUP_TIMES and windows by SETUP_WINDOW in
SETUP, an activity latch is cleared by LATCH_CLEAR alone, the start latch too, and the straps and the RLK level stand (chapters 7, 10,
11, section 3.6). -/
def Obligations.ControlsChangeUnderTheirOwnCommandsAlone : Prop :=
  ∀ (c : Instr) (s s' : State) (i : Slot), exec c s = .next s' → isReset c = false →
    s'.stationNumber = s.stationNumber ∧ s'.blockBase = s.blockBase ∧
    ((∀ level, c ≠ .rlkChange level) → s'.rlk = s.rlk) ∧
    ((∀ t h p, c ≠ .rightsLock t h p) → s'.lock = s.lock) ∧
    ((∀ t h p, c ≠ .setupTimes t h p) ∨ s.station ≠ .setup → s'.prerollByte = s.prerollByte ∧ s'.lateLimitByte = s.lateLimitByte ∧
      s'.rejoinMinByte = s.rejoinMinByte ∧ s'.fixPermitted = s.fixPermitted) ∧
    ((∀ t h p, c ≠ .setupWindow t h p) ∨ s.station ≠ .setup → s'.window0 = s.window0 ∧ s'.window1 = s.window1) ∧
    ((∀ t h p, c = .rights t h p → inMask (word3 p) i = false) ∨ (s.chan i).fixed = true ∨ s.lock = true →
      (s'.chan i).rights = (s.chan i).rights) ∧
    ((s.chan i).fixed = true → (s'.chan i).fixed = true) ∧
    ((s'.chan i).fixed = true → (s.chan i).fixed = true ∨ ∃ t h p, c = .rightsFix t h p ∧ inMask p i = true) ∧
    ((s.chan i).activity = true → (s'.chan i).activity = true ∨ ∃ t h p, c = .latchClear t h p ∧ inMask (word3 p) i = true) ∧
    (s.startLatch = true → s'.startLatch = true ∨ ∃ t h p, c = .latchClear t h p ∧ (last3 p).getLsbD 0 = true) ∧
    (s'.startLatch = true → s.startLatch = true)

/-- The station state moves as the table of section 11.2 says: outside reset, LISTEN goes to SETUP at the end of the quiet period, SETUP to
ACTIVE at SETUP_DONE or the end of the setup window, each of the three to CLASH at a PRESENT with the own number, and STRAP_FAULT and
CLASH stay. -/
def Obligations.StationStateMovesAsItsTable : Prop :=
  ∀ (c : Instr) (s s' : State), exec c s = .next s' → isReset c = false → s'.station ≠ s.station →
    (s.station = .listen ∧ s'.station = .setup ∧ ∃ t, c = .quietPeriodEnd t ∧ 100000 ≤ (t - s.quietStart).toNat ∧ s'.setupStart = t) ∨
    (s.station = .setup ∧ s'.station = .active ∧
      ((∃ t h, c = .setupDone t h ∧ h.destination = s.stationNumber.setWidth 8) ∨
        ∃ t, c = .setupWindowExpiry t ∧ 2000000 < (t - s.setupStart).toNat)) ∨
    ((s.station = .listen ∨ s.station = .setup ∨ s.station = .active) ∧ s'.station = .clash ∧ s'.line.queue = [] ∧
      s'.drivesLine = false ∧ s'.faultPin = true ∧ ∃ t h p, c = .presentReceived t h p ∧ h.source = s.stationNumber.setWidth 8)

/-- Every step keeps the alert table law (section 6.3). -/
def Obligations.StepKeepsTheAlertTableLaw : Prop := ∀ s s' : State, AlertTableLaw s → step s = .next s' → AlertTableLaw s'

/-- Every step keeps the guard law (section 7.1), the drive law (sections 8.1, 11.5) and the settings law (chapters 4 and 11), each by
itself. -/
def Obligations.StepKeepsTheGuardDriveAndSettingsLaws : Prop :=
  ∀ s s' : State, step s = .next s' →
    (GuardLaw s → GuardLaw s') ∧ (DriveLaw s → DriveLaw s') ∧ (SettingsLaw s → SettingsLaw s')

/-- Every step keeps the laws of the insert ports and of HOLD (sections 1.3, 1.5); and it keeps the binding law, which ties each port to
the state of the channel that owns it (sections 1.3, 3.2), where the channels keep their record and cue laws. -/
def Obligations.StepKeepsThePortLaws : Prop :=
  ∀ s s' : State, step s = .next s' →
    (PortsLaw s → PortsLaw s') ∧ (ChannelsLaw s → CuesLaw s → BindingLaw s → BindingLaw s')

/-- Every step keeps the transmit queue law (section 8.7). -/
def Obligations.StepKeepsTheTransmitQueueLaw : Prop := ∀ s s' : State, TxQueueLaw s → step s = .next s' → TxQueueLaw s'

/-- Every step keeps the sequence law (section 1.5). -/
def Obligations.StepKeepsTheSequenceLaw : Prop := ∀ s s' : State, SequenceLaw s → step s = .next s' → SequenceLaw s'

/-- Every step keeps the channel record law (chapter 3). -/
def Obligations.StepKeepsTheChannelRecordLaw : Prop := ∀ s s' : State, ChannelsLaw s → step s = .next s' → ChannelsLaw s'

/-- Every step keeps the law of the alert ring and its readers (section 1.4). -/
def Obligations.StepKeepsTheRingLaw : Prop := ∀ s s' : State, RingLaw s → step s = .next s' → RingLaw s'

/-- Every step keeps the cue law (sections 5.1, 5.4), where the channels keep their record law, and with it the timed law: the timed
entries of a channel stand before the waiting ones and have pairwise disjoint intervals (sections 4.3, 5.1). -/
def Obligations.StepKeepsTheCueLaw : Prop :=
  ∀ s s' : State, ChannelsLaw s → CuesLaw s → step s = .next s' → CuesLaw s' ∧ (TimedLaw s → TimedLaw s')

/-- Every step keeps the cue id law (section 5.1) and the loss law (section 2.4), where the channels keep their record and cue laws. -/
def Obligations.StepKeepsTheIdAndLossLaws : Prop :=
  ∀ s s' : State, ChannelsLaw s → CuesLaw s → step s = .next s' → (IdLaw s → IdLaw s') ∧ (LossLaw s → LossLaw s')

/-- Every step keeps the key law and the channel set law together (sections 3.3, 6.8), where the alert table and the channels keep
theirs. -/
def Obligations.StepKeepsTheKeyAndChannelSetLaws : Prop :=
  ∀ s s' : State, AlertTableLaw s → ChannelsLaw s → KeyLaw s → ChannelSetLaw s → step s = .next s' → KeyLaw s' ∧ ChannelSetLaw s'
end

