-- ==== Sys2Proof/Laws/State.lean ====
section
/-!
SUPPORT. The small lemmas of the state: what each update of one part of State leaves as it was, one lemma for each field, true by
rfl, and reading one channel or one port after an update.
-/
namespace Sys2Proof.Machine

/-! ## setChan -/

@[simp] theorem State.setChan_powered (s : State) (i : Slot) (c : Channel) : (s.setChan i c).powered = s.powered := rfl
@[simp] theorem State.setChan_rstAsserted (s : State) (i : Slot) (c : Channel) : (s.setChan i c).rstAsserted = s.rstAsserted := rfl
@[simp] theorem State.setChan_rlk (s : State) (i : Slot) (c : Channel) : (s.setChan i c).rlk = s.rlk := rfl
@[simp] theorem State.setChan_timer (s : State) (i : Slot) (c : Channel) : (s.setChan i c).timer = s.timer := rfl
@[simp] theorem State.setChan_station (s : State) (i : Slot) (c : Channel) : (s.setChan i c).station = s.station := rfl
@[simp] theorem State.setChan_stationNumber (s : State) (i : Slot) (c : Channel) : (s.setChan i c).stationNumber = s.stationNumber := rfl
@[simp] theorem State.setChan_blockBase (s : State) (i : Slot) (c : Channel) : (s.setChan i c).blockBase = s.blockBase := rfl
@[simp] theorem State.setChan_quietStart (s : State) (i : Slot) (c : Channel) : (s.setChan i c).quietStart = s.quietStart := rfl
@[simp] theorem State.setChan_setupStart (s : State) (i : Slot) (c : Channel) : (s.setChan i c).setupStart = s.setupStart := rfl
@[simp] theorem State.setChan_startLatch (s : State) (i : Slot) (c : Channel) : (s.setChan i c).startLatch = s.startLatch := rfl
@[simp] theorem State.setChan_prerollByte (s : State) (i : Slot) (c : Channel) : (s.setChan i c).prerollByte = s.prerollByte := rfl
@[simp] theorem State.setChan_lateLimitByte (s : State) (i : Slot) (c : Channel) : (s.setChan i c).lateLimitByte = s.lateLimitByte := rfl
@[simp] theorem State.setChan_rejoinMinByte (s : State) (i : Slot) (c : Channel) : (s.setChan i c).rejoinMinByte = s.rejoinMinByte := rfl
@[simp] theorem State.setChan_lock (s : State) (i : Slot) (c : Channel) : (s.setChan i c).lock = s.lock := rfl
@[simp] theorem State.setChan_fixPermitted (s : State) (i : Slot) (c : Channel) : (s.setChan i c).fixPermitted = s.fixPermitted := rfl
@[simp] theorem State.setChan_ports (s : State) (i : Slot) (c : Channel) : (s.setChan i c).ports = s.ports := rfl
@[simp] theorem State.setChan_ring (s : State) (i : Slot) (c : Channel) : (s.setChan i c).ring = s.ring := rfl
@[simp] theorem State.setChan_networkMarkErrors (s : State) (i : Slot) (c : Channel) : (s.setChan i c).networkMarkErrors = s.networkMarkErrors := rfl
@[simp] theorem State.setChan_alerts (s : State) (i : Slot) (c : Channel) : (s.setChan i c).alerts = s.alerts := rfl
@[simp] theorem State.setChan_window0 (s : State) (i : Slot) (c : Channel) : (s.setChan i c).window0 = s.window0 := rfl
@[simp] theorem State.setChan_window1 (s : State) (i : Slot) (c : Channel) : (s.setChan i c).window1 = s.window1 := rfl
@[simp] theorem State.setChan_integrityCount (s : State) (i : Slot) (c : Channel) : (s.setChan i c).integrityCount = s.integrityCount := rfl
@[simp] theorem State.setChan_conflictCount (s : State) (i : Slot) (c : Channel) : (s.setChan i c).conflictCount = s.conflictCount := rfl
@[simp] theorem State.setChan_line (s : State) (i : Slot) (c : Channel) : (s.setChan i c).line = s.line := rfl
@[simp] theorem State.setChan_sout (s : State) (i : Slot) (c : Channel) : (s.setChan i c).sout = s.sout := rfl
@[simp] theorem State.setChan_pending (s : State) (i : Slot) (c : Channel) : (s.setChan i c).pending = s.pending := rfl
@[simp] theorem State.setChan_port (s : State) (i : Slot) (c : Channel) (r : PortId) : (s.setChan i c).port r = s.port r := rfl

/-! ## modChan -/

@[simp] theorem State.modChan_powered (s : State) (i : Slot) (f : Channel → Channel) : (s.modChan i f).powered = s.powered := rfl
@[simp] theorem State.modChan_rstAsserted (s : State) (i : Slot) (f : Channel → Channel) : (s.modChan i f).rstAsserted = s.rstAsserted := rfl
@[simp] theorem State.modChan_rlk (s : State) (i : Slot) (f : Channel → Channel) : (s.modChan i f).rlk = s.rlk := rfl
@[simp] theorem State.modChan_timer (s : State) (i : Slot) (f : Channel → Channel) : (s.modChan i f).timer = s.timer := rfl
@[simp] theorem State.modChan_station (s : State) (i : Slot) (f : Channel → Channel) : (s.modChan i f).station = s.station := rfl
@[simp] theorem State.modChan_stationNumber (s : State) (i : Slot) (f : Channel → Channel) : (s.modChan i f).stationNumber = s.stationNumber := rfl
@[simp] theorem State.modChan_blockBase (s : State) (i : Slot) (f : Channel → Channel) : (s.modChan i f).blockBase = s.blockBase := rfl
@[simp] theorem State.modChan_quietStart (s : State) (i : Slot) (f : Channel → Channel) : (s.modChan i f).quietStart = s.quietStart := rfl
@[simp] theorem State.modChan_setupStart (s : State) (i : Slot) (f : Channel → Channel) : (s.modChan i f).setupStart = s.setupStart := rfl
@[simp] theorem State.modChan_startLatch (s : State) (i : Slot) (f : Channel → Channel) : (s.modChan i f).startLatch = s.startLatch := rfl
@[simp] theorem State.modChan_prerollByte (s : State) (i : Slot) (f : Channel → Channel) : (s.modChan i f).prerollByte = s.prerollByte := rfl
@[simp] theorem State.modChan_lateLimitByte (s : State) (i : Slot) (f : Channel → Channel) : (s.modChan i f).lateLimitByte = s.lateLimitByte := rfl
@[simp] theorem State.modChan_rejoinMinByte (s : State) (i : Slot) (f : Channel → Channel) : (s.modChan i f).rejoinMinByte = s.rejoinMinByte := rfl
@[simp] theorem State.modChan_lock (s : State) (i : Slot) (f : Channel → Channel) : (s.modChan i f).lock = s.lock := rfl
@[simp] theorem State.modChan_fixPermitted (s : State) (i : Slot) (f : Channel → Channel) : (s.modChan i f).fixPermitted = s.fixPermitted := rfl
@[simp] theorem State.modChan_ports (s : State) (i : Slot) (f : Channel → Channel) : (s.modChan i f).ports = s.ports := rfl
@[simp] theorem State.modChan_ring (s : State) (i : Slot) (f : Channel → Channel) : (s.modChan i f).ring = s.ring := rfl
@[simp] theorem State.modChan_networkMarkErrors (s : State) (i : Slot) (f : Channel → Channel) : (s.modChan i f).networkMarkErrors = s.networkMarkErrors := rfl
@[simp] theorem State.modChan_alerts (s : State) (i : Slot) (f : Channel → Channel) : (s.modChan i f).alerts = s.alerts := rfl
@[simp] theorem State.modChan_window0 (s : State) (i : Slot) (f : Channel → Channel) : (s.modChan i f).window0 = s.window0 := rfl
@[simp] theorem State.modChan_window1 (s : State) (i : Slot) (f : Channel → Channel) : (s.modChan i f).window1 = s.window1 := rfl
@[simp] theorem State.modChan_integrityCount (s : State) (i : Slot) (f : Channel → Channel) : (s.modChan i f).integrityCount = s.integrityCount := rfl
@[simp] theorem State.modChan_conflictCount (s : State) (i : Slot) (f : Channel → Channel) : (s.modChan i f).conflictCount = s.conflictCount := rfl
@[simp] theorem State.modChan_line (s : State) (i : Slot) (f : Channel → Channel) : (s.modChan i f).line = s.line := rfl
@[simp] theorem State.modChan_sout (s : State) (i : Slot) (f : Channel → Channel) : (s.modChan i f).sout = s.sout := rfl
@[simp] theorem State.modChan_pending (s : State) (i : Slot) (f : Channel → Channel) : (s.modChan i f).pending = s.pending := rfl
@[simp] theorem State.modChan_port (s : State) (i : Slot) (f : Channel → Channel) (r : PortId) : (s.modChan i f).port r = s.port r := rfl

/-! ## setPort -/

@[simp] theorem State.setPort_powered (s : State) (p : PortId) (q : InsertPort) : (s.setPort p q).powered = s.powered := rfl
@[simp] theorem State.setPort_rstAsserted (s : State) (p : PortId) (q : InsertPort) : (s.setPort p q).rstAsserted = s.rstAsserted := rfl
@[simp] theorem State.setPort_rlk (s : State) (p : PortId) (q : InsertPort) : (s.setPort p q).rlk = s.rlk := rfl
@[simp] theorem State.setPort_timer (s : State) (p : PortId) (q : InsertPort) : (s.setPort p q).timer = s.timer := rfl
@[simp] theorem State.setPort_station (s : State) (p : PortId) (q : InsertPort) : (s.setPort p q).station = s.station := rfl
@[simp] theorem State.setPort_stationNumber (s : State) (p : PortId) (q : InsertPort) : (s.setPort p q).stationNumber = s.stationNumber := rfl
@[simp] theorem State.setPort_blockBase (s : State) (p : PortId) (q : InsertPort) : (s.setPort p q).blockBase = s.blockBase := rfl
@[simp] theorem State.setPort_quietStart (s : State) (p : PortId) (q : InsertPort) : (s.setPort p q).quietStart = s.quietStart := rfl
@[simp] theorem State.setPort_setupStart (s : State) (p : PortId) (q : InsertPort) : (s.setPort p q).setupStart = s.setupStart := rfl
@[simp] theorem State.setPort_startLatch (s : State) (p : PortId) (q : InsertPort) : (s.setPort p q).startLatch = s.startLatch := rfl
@[simp] theorem State.setPort_prerollByte (s : State) (p : PortId) (q : InsertPort) : (s.setPort p q).prerollByte = s.prerollByte := rfl
@[simp] theorem State.setPort_lateLimitByte (s : State) (p : PortId) (q : InsertPort) : (s.setPort p q).lateLimitByte = s.lateLimitByte := rfl
@[simp] theorem State.setPort_rejoinMinByte (s : State) (p : PortId) (q : InsertPort) : (s.setPort p q).rejoinMinByte = s.rejoinMinByte := rfl
@[simp] theorem State.setPort_lock (s : State) (p : PortId) (q : InsertPort) : (s.setPort p q).lock = s.lock := rfl
@[simp] theorem State.setPort_fixPermitted (s : State) (p : PortId) (q : InsertPort) : (s.setPort p q).fixPermitted = s.fixPermitted := rfl
@[simp] theorem State.setPort_channels (s : State) (p : PortId) (q : InsertPort) : (s.setPort p q).channels = s.channels := rfl
@[simp] theorem State.setPort_ring (s : State) (p : PortId) (q : InsertPort) : (s.setPort p q).ring = s.ring := rfl
@[simp] theorem State.setPort_networkMarkErrors (s : State) (p : PortId) (q : InsertPort) : (s.setPort p q).networkMarkErrors = s.networkMarkErrors := rfl
@[simp] theorem State.setPort_alerts (s : State) (p : PortId) (q : InsertPort) : (s.setPort p q).alerts = s.alerts := rfl
@[simp] theorem State.setPort_window0 (s : State) (p : PortId) (q : InsertPort) : (s.setPort p q).window0 = s.window0 := rfl
@[simp] theorem State.setPort_window1 (s : State) (p : PortId) (q : InsertPort) : (s.setPort p q).window1 = s.window1 := rfl
@[simp] theorem State.setPort_integrityCount (s : State) (p : PortId) (q : InsertPort) : (s.setPort p q).integrityCount = s.integrityCount := rfl
@[simp] theorem State.setPort_conflictCount (s : State) (p : PortId) (q : InsertPort) : (s.setPort p q).conflictCount = s.conflictCount := rfl
@[simp] theorem State.setPort_line (s : State) (p : PortId) (q : InsertPort) : (s.setPort p q).line = s.line := rfl
@[simp] theorem State.setPort_sout (s : State) (p : PortId) (q : InsertPort) : (s.setPort p q).sout = s.sout := rfl
@[simp] theorem State.setPort_pending (s : State) (p : PortId) (q : InsertPort) : (s.setPort p q).pending = s.pending := rfl
@[simp] theorem State.setPort_chan (s : State) (p : PortId) (q : InsertPort) (j : Slot) : (s.setPort p q).chan j = s.chan j := rfl

/-! ## modPort -/

@[simp] theorem State.modPort_powered (s : State) (p : PortId) (f : InsertPort → InsertPort) : (s.modPort p f).powered = s.powered := rfl
@[simp] theorem State.modPort_rstAsserted (s : State) (p : PortId) (f : InsertPort → InsertPort) : (s.modPort p f).rstAsserted = s.rstAsserted := rfl
@[simp] theorem State.modPort_rlk (s : State) (p : PortId) (f : InsertPort → InsertPort) : (s.modPort p f).rlk = s.rlk := rfl
@[simp] theorem State.modPort_timer (s : State) (p : PortId) (f : InsertPort → InsertPort) : (s.modPort p f).timer = s.timer := rfl
@[simp] theorem State.modPort_station (s : State) (p : PortId) (f : InsertPort → InsertPort) : (s.modPort p f).station = s.station := rfl
@[simp] theorem State.modPort_stationNumber (s : State) (p : PortId) (f : InsertPort → InsertPort) : (s.modPort p f).stationNumber = s.stationNumber := rfl
@[simp] theorem State.modPort_blockBase (s : State) (p : PortId) (f : InsertPort → InsertPort) : (s.modPort p f).blockBase = s.blockBase := rfl
@[simp] theorem State.modPort_quietStart (s : State) (p : PortId) (f : InsertPort → InsertPort) : (s.modPort p f).quietStart = s.quietStart := rfl
@[simp] theorem State.modPort_setupStart (s : State) (p : PortId) (f : InsertPort → InsertPort) : (s.modPort p f).setupStart = s.setupStart := rfl
@[simp] theorem State.modPort_startLatch (s : State) (p : PortId) (f : InsertPort → InsertPort) : (s.modPort p f).startLatch = s.startLatch := rfl
@[simp] theorem State.modPort_prerollByte (s : State) (p : PortId) (f : InsertPort → InsertPort) : (s.modPort p f).prerollByte = s.prerollByte := rfl
@[simp] theorem State.modPort_lateLimitByte (s : State) (p : PortId) (f : InsertPort → InsertPort) : (s.modPort p f).lateLimitByte = s.lateLimitByte := rfl
@[simp] theorem State.modPort_rejoinMinByte (s : State) (p : PortId) (f : InsertPort → InsertPort) : (s.modPort p f).rejoinMinByte = s.rejoinMinByte := rfl
@[simp] theorem State.modPort_lock (s : State) (p : PortId) (f : InsertPort → InsertPort) : (s.modPort p f).lock = s.lock := rfl
@[simp] theorem State.modPort_fixPermitted (s : State) (p : PortId) (f : InsertPort → InsertPort) : (s.modPort p f).fixPermitted = s.fixPermitted := rfl
@[simp] theorem State.modPort_channels (s : State) (p : PortId) (f : InsertPort → InsertPort) : (s.modPort p f).channels = s.channels := rfl
@[simp] theorem State.modPort_ring (s : State) (p : PortId) (f : InsertPort → InsertPort) : (s.modPort p f).ring = s.ring := rfl
@[simp] theorem State.modPort_networkMarkErrors (s : State) (p : PortId) (f : InsertPort → InsertPort) : (s.modPort p f).networkMarkErrors = s.networkMarkErrors := rfl
@[simp] theorem State.modPort_alerts (s : State) (p : PortId) (f : InsertPort → InsertPort) : (s.modPort p f).alerts = s.alerts := rfl
@[simp] theorem State.modPort_window0 (s : State) (p : PortId) (f : InsertPort → InsertPort) : (s.modPort p f).window0 = s.window0 := rfl
@[simp] theorem State.modPort_window1 (s : State) (p : PortId) (f : InsertPort → InsertPort) : (s.modPort p f).window1 = s.window1 := rfl
@[simp] theorem State.modPort_integrityCount (s : State) (p : PortId) (f : InsertPort → InsertPort) : (s.modPort p f).integrityCount = s.integrityCount := rfl
@[simp] theorem State.modPort_conflictCount (s : State) (p : PortId) (f : InsertPort → InsertPort) : (s.modPort p f).conflictCount = s.conflictCount := rfl
@[simp] theorem State.modPort_line (s : State) (p : PortId) (f : InsertPort → InsertPort) : (s.modPort p f).line = s.line := rfl
@[simp] theorem State.modPort_sout (s : State) (p : PortId) (f : InsertPort → InsertPort) : (s.modPort p f).sout = s.sout := rfl
@[simp] theorem State.modPort_pending (s : State) (p : PortId) (f : InsertPort → InsertPort) : (s.modPort p f).pending = s.pending := rfl
@[simp] theorem State.modPort_chan (s : State) (p : PortId) (f : InsertPort → InsertPort) (j : Slot) : (s.modPort p f).chan j = s.chan j := rfl

/-! ## atTime -/

@[simp] theorem State.atTime_powered (s : State) (t : Time) : (s.atTime t).powered = s.powered := rfl
@[simp] theorem State.atTime_rstAsserted (s : State) (t : Time) : (s.atTime t).rstAsserted = s.rstAsserted := rfl
@[simp] theorem State.atTime_rlk (s : State) (t : Time) : (s.atTime t).rlk = s.rlk := rfl
@[simp] theorem State.atTime_station (s : State) (t : Time) : (s.atTime t).station = s.station := rfl
@[simp] theorem State.atTime_stationNumber (s : State) (t : Time) : (s.atTime t).stationNumber = s.stationNumber := rfl
@[simp] theorem State.atTime_blockBase (s : State) (t : Time) : (s.atTime t).blockBase = s.blockBase := rfl
@[simp] theorem State.atTime_quietStart (s : State) (t : Time) : (s.atTime t).quietStart = s.quietStart := rfl
@[simp] theorem State.atTime_setupStart (s : State) (t : Time) : (s.atTime t).setupStart = s.setupStart := rfl
@[simp] theorem State.atTime_startLatch (s : State) (t : Time) : (s.atTime t).startLatch = s.startLatch := rfl
@[simp] theorem State.atTime_prerollByte (s : State) (t : Time) : (s.atTime t).prerollByte = s.prerollByte := rfl
@[simp] theorem State.atTime_lateLimitByte (s : State) (t : Time) : (s.atTime t).lateLimitByte = s.lateLimitByte := rfl
@[simp] theorem State.atTime_rejoinMinByte (s : State) (t : Time) : (s.atTime t).rejoinMinByte = s.rejoinMinByte := rfl
@[simp] theorem State.atTime_lock (s : State) (t : Time) : (s.atTime t).lock = s.lock := rfl
@[simp] theorem State.atTime_fixPermitted (s : State) (t : Time) : (s.atTime t).fixPermitted = s.fixPermitted := rfl
@[simp] theorem State.atTime_channels (s : State) (t : Time) : (s.atTime t).channels = s.channels := rfl
@[simp] theorem State.atTime_ports (s : State) (t : Time) : (s.atTime t).ports = s.ports := rfl
@[simp] theorem State.atTime_ring (s : State) (t : Time) : (s.atTime t).ring = s.ring := rfl
@[simp] theorem State.atTime_networkMarkErrors (s : State) (t : Time) : (s.atTime t).networkMarkErrors = s.networkMarkErrors := rfl
@[simp] theorem State.atTime_alerts (s : State) (t : Time) : (s.atTime t).alerts = s.alerts := rfl
@[simp] theorem State.atTime_window0 (s : State) (t : Time) : (s.atTime t).window0 = s.window0 := rfl
@[simp] theorem State.atTime_window1 (s : State) (t : Time) : (s.atTime t).window1 = s.window1 := rfl
@[simp] theorem State.atTime_integrityCount (s : State) (t : Time) : (s.atTime t).integrityCount = s.integrityCount := rfl
@[simp] theorem State.atTime_conflictCount (s : State) (t : Time) : (s.atTime t).conflictCount = s.conflictCount := rfl
@[simp] theorem State.atTime_line (s : State) (t : Time) : (s.atTime t).line = s.line := rfl
@[simp] theorem State.atTime_sout (s : State) (t : Time) : (s.atTime t).sout = s.sout := rfl
@[simp] theorem State.atTime_pending (s : State) (t : Time) : (s.atTime t).pending = s.pending := rfl
@[simp] theorem State.atTime_chan (s : State) (t : Time) (j : Slot) : (s.atTime t).chan j = s.chan j := rfl
@[simp] theorem State.atTime_port (s : State) (t : Time) (r : PortId) : (s.atTime t).port r = s.port r := rfl
@[simp] theorem State.atTime_timer (s : State) (t : Time) : (s.atTime t).timer = t := rfl

/-! ## setLine -/

@[simp] theorem State.setLine_powered (s : State) (l : LineInterface) : (s.setLine l).powered = s.powered := rfl
@[simp] theorem State.setLine_rstAsserted (s : State) (l : LineInterface) : (s.setLine l).rstAsserted = s.rstAsserted := rfl
@[simp] theorem State.setLine_rlk (s : State) (l : LineInterface) : (s.setLine l).rlk = s.rlk := rfl
@[simp] theorem State.setLine_timer (s : State) (l : LineInterface) : (s.setLine l).timer = s.timer := rfl
@[simp] theorem State.setLine_station (s : State) (l : LineInterface) : (s.setLine l).station = s.station := rfl
@[simp] theorem State.setLine_stationNumber (s : State) (l : LineInterface) : (s.setLine l).stationNumber = s.stationNumber := rfl
@[simp] theorem State.setLine_blockBase (s : State) (l : LineInterface) : (s.setLine l).blockBase = s.blockBase := rfl
@[simp] theorem State.setLine_quietStart (s : State) (l : LineInterface) : (s.setLine l).quietStart = s.quietStart := rfl
@[simp] theorem State.setLine_setupStart (s : State) (l : LineInterface) : (s.setLine l).setupStart = s.setupStart := rfl
@[simp] theorem State.setLine_startLatch (s : State) (l : LineInterface) : (s.setLine l).startLatch = s.startLatch := rfl
@[simp] theorem State.setLine_prerollByte (s : State) (l : LineInterface) : (s.setLine l).prerollByte = s.prerollByte := rfl
@[simp] theorem State.setLine_lateLimitByte (s : State) (l : LineInterface) : (s.setLine l).lateLimitByte = s.lateLimitByte := rfl
@[simp] theorem State.setLine_rejoinMinByte (s : State) (l : LineInterface) : (s.setLine l).rejoinMinByte = s.rejoinMinByte := rfl
@[simp] theorem State.setLine_lock (s : State) (l : LineInterface) : (s.setLine l).lock = s.lock := rfl
@[simp] theorem State.setLine_fixPermitted (s : State) (l : LineInterface) : (s.setLine l).fixPermitted = s.fixPermitted := rfl
@[simp] theorem State.setLine_channels (s : State) (l : LineInterface) : (s.setLine l).channels = s.channels := rfl
@[simp] theorem State.setLine_ports (s : State) (l : LineInterface) : (s.setLine l).ports = s.ports := rfl
@[simp] theorem State.setLine_ring (s : State) (l : LineInterface) : (s.setLine l).ring = s.ring := rfl
@[simp] theorem State.setLine_networkMarkErrors (s : State) (l : LineInterface) : (s.setLine l).networkMarkErrors = s.networkMarkErrors := rfl
@[simp] theorem State.setLine_alerts (s : State) (l : LineInterface) : (s.setLine l).alerts = s.alerts := rfl
@[simp] theorem State.setLine_window0 (s : State) (l : LineInterface) : (s.setLine l).window0 = s.window0 := rfl
@[simp] theorem State.setLine_window1 (s : State) (l : LineInterface) : (s.setLine l).window1 = s.window1 := rfl
@[simp] theorem State.setLine_integrityCount (s : State) (l : LineInterface) : (s.setLine l).integrityCount = s.integrityCount := rfl
@[simp] theorem State.setLine_conflictCount (s : State) (l : LineInterface) : (s.setLine l).conflictCount = s.conflictCount := rfl
@[simp] theorem State.setLine_sout (s : State) (l : LineInterface) : (s.setLine l).sout = s.sout := rfl
@[simp] theorem State.setLine_pending (s : State) (l : LineInterface) : (s.setLine l).pending = s.pending := rfl
@[simp] theorem State.setLine_chan (s : State) (l : LineInterface) (j : Slot) : (s.setLine l).chan j = s.chan j := rfl
@[simp] theorem State.setLine_port (s : State) (l : LineInterface) (r : PortId) : (s.setLine l).port r = s.port r := rfl
@[simp] theorem State.setLine_line (s : State) (l : LineInterface) : (s.setLine l).line = l := rfl

/-! ## setRx -/

@[simp] theorem State.setRx_powered (s : State) (rx : RxState) : (s.setRx rx).powered = s.powered := rfl
@[simp] theorem State.setRx_rstAsserted (s : State) (rx : RxState) : (s.setRx rx).rstAsserted = s.rstAsserted := rfl
@[simp] theorem State.setRx_rlk (s : State) (rx : RxState) : (s.setRx rx).rlk = s.rlk := rfl
@[simp] theorem State.setRx_timer (s : State) (rx : RxState) : (s.setRx rx).timer = s.timer := rfl
@[simp] theorem State.setRx_station (s : State) (rx : RxState) : (s.setRx rx).station = s.station := rfl
@[simp] theorem State.setRx_stationNumber (s : State) (rx : RxState) : (s.setRx rx).stationNumber = s.stationNumber := rfl
@[simp] theorem State.setRx_blockBase (s : State) (rx : RxState) : (s.setRx rx).blockBase = s.blockBase := rfl
@[simp] theorem State.setRx_quietStart (s : State) (rx : RxState) : (s.setRx rx).quietStart = s.quietStart := rfl
@[simp] theorem State.setRx_setupStart (s : State) (rx : RxState) : (s.setRx rx).setupStart = s.setupStart := rfl
@[simp] theorem State.setRx_startLatch (s : State) (rx : RxState) : (s.setRx rx).startLatch = s.startLatch := rfl
@[simp] theorem State.setRx_prerollByte (s : State) (rx : RxState) : (s.setRx rx).prerollByte = s.prerollByte := rfl
@[simp] theorem State.setRx_lateLimitByte (s : State) (rx : RxState) : (s.setRx rx).lateLimitByte = s.lateLimitByte := rfl
@[simp] theorem State.setRx_rejoinMinByte (s : State) (rx : RxState) : (s.setRx rx).rejoinMinByte = s.rejoinMinByte := rfl
@[simp] theorem State.setRx_lock (s : State) (rx : RxState) : (s.setRx rx).lock = s.lock := rfl
@[simp] theorem State.setRx_fixPermitted (s : State) (rx : RxState) : (s.setRx rx).fixPermitted = s.fixPermitted := rfl
@[simp] theorem State.setRx_channels (s : State) (rx : RxState) : (s.setRx rx).channels = s.channels := rfl
@[simp] theorem State.setRx_ports (s : State) (rx : RxState) : (s.setRx rx).ports = s.ports := rfl
@[simp] theorem State.setRx_ring (s : State) (rx : RxState) : (s.setRx rx).ring = s.ring := rfl
@[simp] theorem State.setRx_networkMarkErrors (s : State) (rx : RxState) : (s.setRx rx).networkMarkErrors = s.networkMarkErrors := rfl
@[simp] theorem State.setRx_alerts (s : State) (rx : RxState) : (s.setRx rx).alerts = s.alerts := rfl
@[simp] theorem State.setRx_window0 (s : State) (rx : RxState) : (s.setRx rx).window0 = s.window0 := rfl
@[simp] theorem State.setRx_window1 (s : State) (rx : RxState) : (s.setRx rx).window1 = s.window1 := rfl
@[simp] theorem State.setRx_integrityCount (s : State) (rx : RxState) : (s.setRx rx).integrityCount = s.integrityCount := rfl
@[simp] theorem State.setRx_conflictCount (s : State) (rx : RxState) : (s.setRx rx).conflictCount = s.conflictCount := rfl
@[simp] theorem State.setRx_sout (s : State) (rx : RxState) : (s.setRx rx).sout = s.sout := rfl
@[simp] theorem State.setRx_pending (s : State) (rx : RxState) : (s.setRx rx).pending = s.pending := rfl
@[simp] theorem State.setRx_chan (s : State) (rx : RxState) (j : Slot) : (s.setRx rx).chan j = s.chan j := rfl
@[simp] theorem State.setRx_port (s : State) (rx : RxState) (r : PortId) : (s.setRx rx).port r = s.port r := rfl
@[simp] theorem State.setRx_line (s : State) (rx : RxState) : (s.setRx rx).line = { s.line with rx := rx } := rfl

/-! ## setHold -/

@[simp] theorem State.setHold_powered (s : State) (i : Slot) (h : List Record) : (s.setHold i h).powered = s.powered := rfl
@[simp] theorem State.setHold_rstAsserted (s : State) (i : Slot) (h : List Record) : (s.setHold i h).rstAsserted = s.rstAsserted := rfl
@[simp] theorem State.setHold_rlk (s : State) (i : Slot) (h : List Record) : (s.setHold i h).rlk = s.rlk := rfl
@[simp] theorem State.setHold_timer (s : State) (i : Slot) (h : List Record) : (s.setHold i h).timer = s.timer := rfl
@[simp] theorem State.setHold_station (s : State) (i : Slot) (h : List Record) : (s.setHold i h).station = s.station := rfl
@[simp] theorem State.setHold_stationNumber (s : State) (i : Slot) (h : List Record) : (s.setHold i h).stationNumber = s.stationNumber := rfl
@[simp] theorem State.setHold_blockBase (s : State) (i : Slot) (h : List Record) : (s.setHold i h).blockBase = s.blockBase := rfl
@[simp] theorem State.setHold_quietStart (s : State) (i : Slot) (h : List Record) : (s.setHold i h).quietStart = s.quietStart := rfl
@[simp] theorem State.setHold_setupStart (s : State) (i : Slot) (h : List Record) : (s.setHold i h).setupStart = s.setupStart := rfl
@[simp] theorem State.setHold_startLatch (s : State) (i : Slot) (h : List Record) : (s.setHold i h).startLatch = s.startLatch := rfl
@[simp] theorem State.setHold_prerollByte (s : State) (i : Slot) (h : List Record) : (s.setHold i h).prerollByte = s.prerollByte := rfl
@[simp] theorem State.setHold_lateLimitByte (s : State) (i : Slot) (h : List Record) : (s.setHold i h).lateLimitByte = s.lateLimitByte := rfl
@[simp] theorem State.setHold_rejoinMinByte (s : State) (i : Slot) (h : List Record) : (s.setHold i h).rejoinMinByte = s.rejoinMinByte := rfl
@[simp] theorem State.setHold_lock (s : State) (i : Slot) (h : List Record) : (s.setHold i h).lock = s.lock := rfl
@[simp] theorem State.setHold_fixPermitted (s : State) (i : Slot) (h : List Record) : (s.setHold i h).fixPermitted = s.fixPermitted := rfl
@[simp] theorem State.setHold_ports (s : State) (i : Slot) (h : List Record) : (s.setHold i h).ports = s.ports := rfl
@[simp] theorem State.setHold_ring (s : State) (i : Slot) (h : List Record) : (s.setHold i h).ring = s.ring := rfl
@[simp] theorem State.setHold_networkMarkErrors (s : State) (i : Slot) (h : List Record) : (s.setHold i h).networkMarkErrors = s.networkMarkErrors := rfl
@[simp] theorem State.setHold_alerts (s : State) (i : Slot) (h : List Record) : (s.setHold i h).alerts = s.alerts := rfl
@[simp] theorem State.setHold_window0 (s : State) (i : Slot) (h : List Record) : (s.setHold i h).window0 = s.window0 := rfl
@[simp] theorem State.setHold_window1 (s : State) (i : Slot) (h : List Record) : (s.setHold i h).window1 = s.window1 := rfl
@[simp] theorem State.setHold_integrityCount (s : State) (i : Slot) (h : List Record) : (s.setHold i h).integrityCount = s.integrityCount := rfl
@[simp] theorem State.setHold_conflictCount (s : State) (i : Slot) (h : List Record) : (s.setHold i h).conflictCount = s.conflictCount := rfl
@[simp] theorem State.setHold_line (s : State) (i : Slot) (h : List Record) : (s.setHold i h).line = s.line := rfl
@[simp] theorem State.setHold_sout (s : State) (i : Slot) (h : List Record) : (s.setHold i h).sout = s.sout := rfl
@[simp] theorem State.setHold_pending (s : State) (i : Slot) (h : List Record) : (s.setHold i h).pending = s.pending := rfl
@[simp] theorem State.setHold_port (s : State) (i : Slot) (h : List Record) (r : PortId) : (s.setHold i h).port r = s.port r := rfl

/-! ## modAlert -/

@[simp] theorem State.modAlert_powered (s : State) (a : Ident) (f : AlertRecord → AlertRecord) : (s.modAlert a f).powered = s.powered := rfl
@[simp] theorem State.modAlert_rstAsserted (s : State) (a : Ident) (f : AlertRecord → AlertRecord) : (s.modAlert a f).rstAsserted = s.rstAsserted := rfl
@[simp] theorem State.modAlert_rlk (s : State) (a : Ident) (f : AlertRecord → AlertRecord) : (s.modAlert a f).rlk = s.rlk := rfl
@[simp] theorem State.modAlert_timer (s : State) (a : Ident) (f : AlertRecord → AlertRecord) : (s.modAlert a f).timer = s.timer := rfl
@[simp] theorem State.modAlert_station (s : State) (a : Ident) (f : AlertRecord → AlertRecord) : (s.modAlert a f).station = s.station := rfl
@[simp] theorem State.modAlert_stationNumber (s : State) (a : Ident) (f : AlertRecord → AlertRecord) : (s.modAlert a f).stationNumber = s.stationNumber := rfl
@[simp] theorem State.modAlert_blockBase (s : State) (a : Ident) (f : AlertRecord → AlertRecord) : (s.modAlert a f).blockBase = s.blockBase := rfl
@[simp] theorem State.modAlert_quietStart (s : State) (a : Ident) (f : AlertRecord → AlertRecord) : (s.modAlert a f).quietStart = s.quietStart := rfl
@[simp] theorem State.modAlert_setupStart (s : State) (a : Ident) (f : AlertRecord → AlertRecord) : (s.modAlert a f).setupStart = s.setupStart := rfl
@[simp] theorem State.modAlert_startLatch (s : State) (a : Ident) (f : AlertRecord → AlertRecord) : (s.modAlert a f).startLatch = s.startLatch := rfl
@[simp] theorem State.modAlert_prerollByte (s : State) (a : Ident) (f : AlertRecord → AlertRecord) : (s.modAlert a f).prerollByte = s.prerollByte := rfl
@[simp] theorem State.modAlert_lateLimitByte (s : State) (a : Ident) (f : AlertRecord → AlertRecord) : (s.modAlert a f).lateLimitByte = s.lateLimitByte := rfl
@[simp] theorem State.modAlert_rejoinMinByte (s : State) (a : Ident) (f : AlertRecord → AlertRecord) : (s.modAlert a f).rejoinMinByte = s.rejoinMinByte := rfl
@[simp] theorem State.modAlert_lock (s : State) (a : Ident) (f : AlertRecord → AlertRecord) : (s.modAlert a f).lock = s.lock := rfl
@[simp] theorem State.modAlert_fixPermitted (s : State) (a : Ident) (f : AlertRecord → AlertRecord) : (s.modAlert a f).fixPermitted = s.fixPermitted := rfl
@[simp] theorem State.modAlert_channels (s : State) (a : Ident) (f : AlertRecord → AlertRecord) : (s.modAlert a f).channels = s.channels := rfl
@[simp] theorem State.modAlert_ports (s : State) (a : Ident) (f : AlertRecord → AlertRecord) : (s.modAlert a f).ports = s.ports := rfl
@[simp] theorem State.modAlert_ring (s : State) (a : Ident) (f : AlertRecord → AlertRecord) : (s.modAlert a f).ring = s.ring := rfl
@[simp] theorem State.modAlert_networkMarkErrors (s : State) (a : Ident) (f : AlertRecord → AlertRecord) : (s.modAlert a f).networkMarkErrors = s.networkMarkErrors := rfl
@[simp] theorem State.modAlert_window0 (s : State) (a : Ident) (f : AlertRecord → AlertRecord) : (s.modAlert a f).window0 = s.window0 := rfl
@[simp] theorem State.modAlert_window1 (s : State) (a : Ident) (f : AlertRecord → AlertRecord) : (s.modAlert a f).window1 = s.window1 := rfl
@[simp] theorem State.modAlert_integrityCount (s : State) (a : Ident) (f : AlertRecord → AlertRecord) : (s.modAlert a f).integrityCount = s.integrityCount := rfl
@[simp] theorem State.modAlert_conflictCount (s : State) (a : Ident) (f : AlertRecord → AlertRecord) : (s.modAlert a f).conflictCount = s.conflictCount := rfl
@[simp] theorem State.modAlert_line (s : State) (a : Ident) (f : AlertRecord → AlertRecord) : (s.modAlert a f).line = s.line := rfl
@[simp] theorem State.modAlert_sout (s : State) (a : Ident) (f : AlertRecord → AlertRecord) : (s.modAlert a f).sout = s.sout := rfl
@[simp] theorem State.modAlert_pending (s : State) (a : Ident) (f : AlertRecord → AlertRecord) : (s.modAlert a f).pending = s.pending := rfl
@[simp] theorem State.modAlert_chan (s : State) (a : Ident) (f : AlertRecord → AlertRecord) (j : Slot) : (s.modAlert a f).chan j = s.chan j := rfl
@[simp] theorem State.modAlert_port (s : State) (a : Ident) (f : AlertRecord → AlertRecord) (r : PortId) : (s.modAlert a f).port r = s.port r := rfl

/-! ## joinSet -/

@[simp] theorem State.joinSet_powered (s : State) (i : Slot) (a : Ident) : (s.joinSet i a).powered = s.powered := rfl
@[simp] theorem State.joinSet_rstAsserted (s : State) (i : Slot) (a : Ident) : (s.joinSet i a).rstAsserted = s.rstAsserted := rfl
@[simp] theorem State.joinSet_rlk (s : State) (i : Slot) (a : Ident) : (s.joinSet i a).rlk = s.rlk := rfl
@[simp] theorem State.joinSet_timer (s : State) (i : Slot) (a : Ident) : (s.joinSet i a).timer = s.timer := rfl
@[simp] theorem State.joinSet_station (s : State) (i : Slot) (a : Ident) : (s.joinSet i a).station = s.station := rfl
@[simp] theorem State.joinSet_stationNumber (s : State) (i : Slot) (a : Ident) : (s.joinSet i a).stationNumber = s.stationNumber := rfl
@[simp] theorem State.joinSet_blockBase (s : State) (i : Slot) (a : Ident) : (s.joinSet i a).blockBase = s.blockBase := rfl
@[simp] theorem State.joinSet_quietStart (s : State) (i : Slot) (a : Ident) : (s.joinSet i a).quietStart = s.quietStart := rfl
@[simp] theorem State.joinSet_setupStart (s : State) (i : Slot) (a : Ident) : (s.joinSet i a).setupStart = s.setupStart := rfl
@[simp] theorem State.joinSet_startLatch (s : State) (i : Slot) (a : Ident) : (s.joinSet i a).startLatch = s.startLatch := rfl
@[simp] theorem State.joinSet_prerollByte (s : State) (i : Slot) (a : Ident) : (s.joinSet i a).prerollByte = s.prerollByte := rfl
@[simp] theorem State.joinSet_lateLimitByte (s : State) (i : Slot) (a : Ident) : (s.joinSet i a).lateLimitByte = s.lateLimitByte := rfl
@[simp] theorem State.joinSet_rejoinMinByte (s : State) (i : Slot) (a : Ident) : (s.joinSet i a).rejoinMinByte = s.rejoinMinByte := rfl
@[simp] theorem State.joinSet_lock (s : State) (i : Slot) (a : Ident) : (s.joinSet i a).lock = s.lock := rfl
@[simp] theorem State.joinSet_fixPermitted (s : State) (i : Slot) (a : Ident) : (s.joinSet i a).fixPermitted = s.fixPermitted := rfl
@[simp] theorem State.joinSet_channels (s : State) (i : Slot) (a : Ident) : (s.joinSet i a).channels = s.channels := rfl
@[simp] theorem State.joinSet_ports (s : State) (i : Slot) (a : Ident) : (s.joinSet i a).ports = s.ports := rfl
@[simp] theorem State.joinSet_ring (s : State) (i : Slot) (a : Ident) : (s.joinSet i a).ring = s.ring := rfl
@[simp] theorem State.joinSet_networkMarkErrors (s : State) (i : Slot) (a : Ident) : (s.joinSet i a).networkMarkErrors = s.networkMarkErrors := rfl
@[simp] theorem State.joinSet_window0 (s : State) (i : Slot) (a : Ident) : (s.joinSet i a).window0 = s.window0 := rfl
@[simp] theorem State.joinSet_window1 (s : State) (i : Slot) (a : Ident) : (s.joinSet i a).window1 = s.window1 := rfl
@[simp] theorem State.joinSet_integrityCount (s : State) (i : Slot) (a : Ident) : (s.joinSet i a).integrityCount = s.integrityCount := rfl
@[simp] theorem State.joinSet_conflictCount (s : State) (i : Slot) (a : Ident) : (s.joinSet i a).conflictCount = s.conflictCount := rfl
@[simp] theorem State.joinSet_line (s : State) (i : Slot) (a : Ident) : (s.joinSet i a).line = s.line := rfl
@[simp] theorem State.joinSet_sout (s : State) (i : Slot) (a : Ident) : (s.joinSet i a).sout = s.sout := rfl
@[simp] theorem State.joinSet_pending (s : State) (i : Slot) (a : Ident) : (s.joinSet i a).pending = s.pending := rfl
@[simp] theorem State.joinSet_chan (s : State) (i : Slot) (a : Ident) (j : Slot) : (s.joinSet i a).chan j = s.chan j := rfl
@[simp] theorem State.joinSet_port (s : State) (i : Slot) (a : Ident) (r : PortId) : (s.joinSet i a).port r = s.port r := rfl

/-! ## leaveSet -/

@[simp] theorem State.leaveSet_powered (s : State) (i : Slot) (a : Ident) : (s.leaveSet i a).powered = s.powered := rfl
@[simp] theorem State.leaveSet_rstAsserted (s : State) (i : Slot) (a : Ident) : (s.leaveSet i a).rstAsserted = s.rstAsserted := rfl
@[simp] theorem State.leaveSet_rlk (s : State) (i : Slot) (a : Ident) : (s.leaveSet i a).rlk = s.rlk := rfl
@[simp] theorem State.leaveSet_timer (s : State) (i : Slot) (a : Ident) : (s.leaveSet i a).timer = s.timer := rfl
@[simp] theorem State.leaveSet_station (s : State) (i : Slot) (a : Ident) : (s.leaveSet i a).station = s.station := rfl
@[simp] theorem State.leaveSet_stationNumber (s : State) (i : Slot) (a : Ident) : (s.leaveSet i a).stationNumber = s.stationNumber := rfl
@[simp] theorem State.leaveSet_blockBase (s : State) (i : Slot) (a : Ident) : (s.leaveSet i a).blockBase = s.blockBase := rfl
@[simp] theorem State.leaveSet_quietStart (s : State) (i : Slot) (a : Ident) : (s.leaveSet i a).quietStart = s.quietStart := rfl
@[simp] theorem State.leaveSet_setupStart (s : State) (i : Slot) (a : Ident) : (s.leaveSet i a).setupStart = s.setupStart := rfl
@[simp] theorem State.leaveSet_startLatch (s : State) (i : Slot) (a : Ident) : (s.leaveSet i a).startLatch = s.startLatch := rfl
@[simp] theorem State.leaveSet_prerollByte (s : State) (i : Slot) (a : Ident) : (s.leaveSet i a).prerollByte = s.prerollByte := rfl
@[simp] theorem State.leaveSet_lateLimitByte (s : State) (i : Slot) (a : Ident) : (s.leaveSet i a).lateLimitByte = s.lateLimitByte := rfl
@[simp] theorem State.leaveSet_rejoinMinByte (s : State) (i : Slot) (a : Ident) : (s.leaveSet i a).rejoinMinByte = s.rejoinMinByte := rfl
@[simp] theorem State.leaveSet_lock (s : State) (i : Slot) (a : Ident) : (s.leaveSet i a).lock = s.lock := rfl
@[simp] theorem State.leaveSet_fixPermitted (s : State) (i : Slot) (a : Ident) : (s.leaveSet i a).fixPermitted = s.fixPermitted := rfl
@[simp] theorem State.leaveSet_channels (s : State) (i : Slot) (a : Ident) : (s.leaveSet i a).channels = s.channels := rfl
@[simp] theorem State.leaveSet_ports (s : State) (i : Slot) (a : Ident) : (s.leaveSet i a).ports = s.ports := rfl
@[simp] theorem State.leaveSet_ring (s : State) (i : Slot) (a : Ident) : (s.leaveSet i a).ring = s.ring := rfl
@[simp] theorem State.leaveSet_networkMarkErrors (s : State) (i : Slot) (a : Ident) : (s.leaveSet i a).networkMarkErrors = s.networkMarkErrors := rfl
@[simp] theorem State.leaveSet_window0 (s : State) (i : Slot) (a : Ident) : (s.leaveSet i a).window0 = s.window0 := rfl
@[simp] theorem State.leaveSet_window1 (s : State) (i : Slot) (a : Ident) : (s.leaveSet i a).window1 = s.window1 := rfl
@[simp] theorem State.leaveSet_integrityCount (s : State) (i : Slot) (a : Ident) : (s.leaveSet i a).integrityCount = s.integrityCount := rfl
@[simp] theorem State.leaveSet_conflictCount (s : State) (i : Slot) (a : Ident) : (s.leaveSet i a).conflictCount = s.conflictCount := rfl
@[simp] theorem State.leaveSet_line (s : State) (i : Slot) (a : Ident) : (s.leaveSet i a).line = s.line := rfl
@[simp] theorem State.leaveSet_sout (s : State) (i : Slot) (a : Ident) : (s.leaveSet i a).sout = s.sout := rfl
@[simp] theorem State.leaveSet_pending (s : State) (i : Slot) (a : Ident) : (s.leaveSet i a).pending = s.pending := rfl
@[simp] theorem State.leaveSet_chan (s : State) (i : Slot) (a : Ident) (j : Slot) : (s.leaveSet i a).chan j = s.chan j := rfl
@[simp] theorem State.leaveSet_port (s : State) (i : Slot) (a : Ident) (r : PortId) : (s.leaveSet i a).port r = s.port r := rfl

/-! ## dropAlert -/

@[simp] theorem State.dropAlert_powered (s : State) (a : Ident) : (s.dropAlert a).powered = s.powered := rfl
@[simp] theorem State.dropAlert_rstAsserted (s : State) (a : Ident) : (s.dropAlert a).rstAsserted = s.rstAsserted := rfl
@[simp] theorem State.dropAlert_rlk (s : State) (a : Ident) : (s.dropAlert a).rlk = s.rlk := rfl
@[simp] theorem State.dropAlert_timer (s : State) (a : Ident) : (s.dropAlert a).timer = s.timer := rfl
@[simp] theorem State.dropAlert_station (s : State) (a : Ident) : (s.dropAlert a).station = s.station := rfl
@[simp] theorem State.dropAlert_stationNumber (s : State) (a : Ident) : (s.dropAlert a).stationNumber = s.stationNumber := rfl
@[simp] theorem State.dropAlert_blockBase (s : State) (a : Ident) : (s.dropAlert a).blockBase = s.blockBase := rfl
@[simp] theorem State.dropAlert_quietStart (s : State) (a : Ident) : (s.dropAlert a).quietStart = s.quietStart := rfl
@[simp] theorem State.dropAlert_setupStart (s : State) (a : Ident) : (s.dropAlert a).setupStart = s.setupStart := rfl
@[simp] theorem State.dropAlert_startLatch (s : State) (a : Ident) : (s.dropAlert a).startLatch = s.startLatch := rfl
@[simp] theorem State.dropAlert_prerollByte (s : State) (a : Ident) : (s.dropAlert a).prerollByte = s.prerollByte := rfl
@[simp] theorem State.dropAlert_lateLimitByte (s : State) (a : Ident) : (s.dropAlert a).lateLimitByte = s.lateLimitByte := rfl
@[simp] theorem State.dropAlert_rejoinMinByte (s : State) (a : Ident) : (s.dropAlert a).rejoinMinByte = s.rejoinMinByte := rfl
@[simp] theorem State.dropAlert_lock (s : State) (a : Ident) : (s.dropAlert a).lock = s.lock := rfl
@[simp] theorem State.dropAlert_fixPermitted (s : State) (a : Ident) : (s.dropAlert a).fixPermitted = s.fixPermitted := rfl
@[simp] theorem State.dropAlert_channels (s : State) (a : Ident) : (s.dropAlert a).channels = s.channels := rfl
@[simp] theorem State.dropAlert_ports (s : State) (a : Ident) : (s.dropAlert a).ports = s.ports := rfl
@[simp] theorem State.dropAlert_ring (s : State) (a : Ident) : (s.dropAlert a).ring = s.ring := rfl
@[simp] theorem State.dropAlert_networkMarkErrors (s : State) (a : Ident) : (s.dropAlert a).networkMarkErrors = s.networkMarkErrors := rfl
@[simp] theorem State.dropAlert_window0 (s : State) (a : Ident) : (s.dropAlert a).window0 = s.window0 := rfl
@[simp] theorem State.dropAlert_window1 (s : State) (a : Ident) : (s.dropAlert a).window1 = s.window1 := rfl
@[simp] theorem State.dropAlert_integrityCount (s : State) (a : Ident) : (s.dropAlert a).integrityCount = s.integrityCount := rfl
@[simp] theorem State.dropAlert_conflictCount (s : State) (a : Ident) : (s.dropAlert a).conflictCount = s.conflictCount := rfl
@[simp] theorem State.dropAlert_line (s : State) (a : Ident) : (s.dropAlert a).line = s.line := rfl
@[simp] theorem State.dropAlert_sout (s : State) (a : Ident) : (s.dropAlert a).sout = s.sout := rfl
@[simp] theorem State.dropAlert_pending (s : State) (a : Ident) : (s.dropAlert a).pending = s.pending := rfl
@[simp] theorem State.dropAlert_chan (s : State) (a : Ident) (j : Slot) : (s.dropAlert a).chan j = s.chan j := rfl
@[simp] theorem State.dropAlert_port (s : State) (a : Ident) (r : PortId) : (s.dropAlert a).port r = s.port r := rfl

/-! ## addAlert -/

@[simp] theorem State.addAlert_powered (s : State) (a : AlertRecord) : (s.addAlert a).powered = s.powered := rfl
@[simp] theorem State.addAlert_rstAsserted (s : State) (a : AlertRecord) : (s.addAlert a).rstAsserted = s.rstAsserted := rfl
@[simp] theorem State.addAlert_rlk (s : State) (a : AlertRecord) : (s.addAlert a).rlk = s.rlk := rfl
@[simp] theorem State.addAlert_timer (s : State) (a : AlertRecord) : (s.addAlert a).timer = s.timer := rfl
@[simp] theorem State.addAlert_station (s : State) (a : AlertRecord) : (s.addAlert a).station = s.station := rfl
@[simp] theorem State.addAlert_stationNumber (s : State) (a : AlertRecord) : (s.addAlert a).stationNumber = s.stationNumber := rfl
@[simp] theorem State.addAlert_blockBase (s : State) (a : AlertRecord) : (s.addAlert a).blockBase = s.blockBase := rfl
@[simp] theorem State.addAlert_quietStart (s : State) (a : AlertRecord) : (s.addAlert a).quietStart = s.quietStart := rfl
@[simp] theorem State.addAlert_setupStart (s : State) (a : AlertRecord) : (s.addAlert a).setupStart = s.setupStart := rfl
@[simp] theorem State.addAlert_startLatch (s : State) (a : AlertRecord) : (s.addAlert a).startLatch = s.startLatch := rfl
@[simp] theorem State.addAlert_prerollByte (s : State) (a : AlertRecord) : (s.addAlert a).prerollByte = s.prerollByte := rfl
@[simp] theorem State.addAlert_lateLimitByte (s : State) (a : AlertRecord) : (s.addAlert a).lateLimitByte = s.lateLimitByte := rfl
@[simp] theorem State.addAlert_rejoinMinByte (s : State) (a : AlertRecord) : (s.addAlert a).rejoinMinByte = s.rejoinMinByte := rfl
@[simp] theorem State.addAlert_lock (s : State) (a : AlertRecord) : (s.addAlert a).lock = s.lock := rfl
@[simp] theorem State.addAlert_fixPermitted (s : State) (a : AlertRecord) : (s.addAlert a).fixPermitted = s.fixPermitted := rfl
@[simp] theorem State.addAlert_channels (s : State) (a : AlertRecord) : (s.addAlert a).channels = s.channels := rfl
@[simp] theorem State.addAlert_ports (s : State) (a : AlertRecord) : (s.addAlert a).ports = s.ports := rfl
@[simp] theorem State.addAlert_ring (s : State) (a : AlertRecord) : (s.addAlert a).ring = s.ring := rfl
@[simp] theorem State.addAlert_networkMarkErrors (s : State) (a : AlertRecord) : (s.addAlert a).networkMarkErrors = s.networkMarkErrors := rfl
@[simp] theorem State.addAlert_window0 (s : State) (a : AlertRecord) : (s.addAlert a).window0 = s.window0 := rfl
@[simp] theorem State.addAlert_window1 (s : State) (a : AlertRecord) : (s.addAlert a).window1 = s.window1 := rfl
@[simp] theorem State.addAlert_integrityCount (s : State) (a : AlertRecord) : (s.addAlert a).integrityCount = s.integrityCount := rfl
@[simp] theorem State.addAlert_conflictCount (s : State) (a : AlertRecord) : (s.addAlert a).conflictCount = s.conflictCount := rfl
@[simp] theorem State.addAlert_line (s : State) (a : AlertRecord) : (s.addAlert a).line = s.line := rfl
@[simp] theorem State.addAlert_sout (s : State) (a : AlertRecord) : (s.addAlert a).sout = s.sout := rfl
@[simp] theorem State.addAlert_pending (s : State) (a : AlertRecord) : (s.addAlert a).pending = s.pending := rfl
@[simp] theorem State.addAlert_chan (s : State) (a : AlertRecord) (j : Slot) : (s.addAlert a).chan j = s.chan j := rfl
@[simp] theorem State.addAlert_port (s : State) (a : AlertRecord) (r : PortId) : (s.addAlert a).port r = s.port r := rfl

/-! ## send -/

@[simp] theorem State.send_powered (s : State) (i : Slot) (c : StreamCell) : (s.send i c).powered = s.powered := rfl
@[simp] theorem State.send_rstAsserted (s : State) (i : Slot) (c : StreamCell) : (s.send i c).rstAsserted = s.rstAsserted := rfl
@[simp] theorem State.send_rlk (s : State) (i : Slot) (c : StreamCell) : (s.send i c).rlk = s.rlk := rfl
@[simp] theorem State.send_timer (s : State) (i : Slot) (c : StreamCell) : (s.send i c).timer = s.timer := rfl
@[simp] theorem State.send_station (s : State) (i : Slot) (c : StreamCell) : (s.send i c).station = s.station := rfl
@[simp] theorem State.send_stationNumber (s : State) (i : Slot) (c : StreamCell) : (s.send i c).stationNumber = s.stationNumber := rfl
@[simp] theorem State.send_blockBase (s : State) (i : Slot) (c : StreamCell) : (s.send i c).blockBase = s.blockBase := rfl
@[simp] theorem State.send_quietStart (s : State) (i : Slot) (c : StreamCell) : (s.send i c).quietStart = s.quietStart := rfl
@[simp] theorem State.send_setupStart (s : State) (i : Slot) (c : StreamCell) : (s.send i c).setupStart = s.setupStart := rfl
@[simp] theorem State.send_startLatch (s : State) (i : Slot) (c : StreamCell) : (s.send i c).startLatch = s.startLatch := rfl
@[simp] theorem State.send_prerollByte (s : State) (i : Slot) (c : StreamCell) : (s.send i c).prerollByte = s.prerollByte := rfl
@[simp] theorem State.send_lateLimitByte (s : State) (i : Slot) (c : StreamCell) : (s.send i c).lateLimitByte = s.lateLimitByte := rfl
@[simp] theorem State.send_rejoinMinByte (s : State) (i : Slot) (c : StreamCell) : (s.send i c).rejoinMinByte = s.rejoinMinByte := rfl
@[simp] theorem State.send_lock (s : State) (i : Slot) (c : StreamCell) : (s.send i c).lock = s.lock := rfl
@[simp] theorem State.send_fixPermitted (s : State) (i : Slot) (c : StreamCell) : (s.send i c).fixPermitted = s.fixPermitted := rfl
@[simp] theorem State.send_ports (s : State) (i : Slot) (c : StreamCell) : (s.send i c).ports = s.ports := rfl
@[simp] theorem State.send_ring (s : State) (i : Slot) (c : StreamCell) : (s.send i c).ring = s.ring := rfl
@[simp] theorem State.send_networkMarkErrors (s : State) (i : Slot) (c : StreamCell) : (s.send i c).networkMarkErrors = s.networkMarkErrors := rfl
@[simp] theorem State.send_alerts (s : State) (i : Slot) (c : StreamCell) : (s.send i c).alerts = s.alerts := rfl
@[simp] theorem State.send_window0 (s : State) (i : Slot) (c : StreamCell) : (s.send i c).window0 = s.window0 := rfl
@[simp] theorem State.send_window1 (s : State) (i : Slot) (c : StreamCell) : (s.send i c).window1 = s.window1 := rfl
@[simp] theorem State.send_integrityCount (s : State) (i : Slot) (c : StreamCell) : (s.send i c).integrityCount = s.integrityCount := rfl
@[simp] theorem State.send_conflictCount (s : State) (i : Slot) (c : StreamCell) : (s.send i c).conflictCount = s.conflictCount := rfl
@[simp] theorem State.send_line (s : State) (i : Slot) (c : StreamCell) : (s.send i c).line = s.line := rfl
@[simp] theorem State.send_pending (s : State) (i : Slot) (c : StreamCell) : (s.send i c).pending = s.pending := rfl
@[simp] theorem State.send_port (s : State) (i : Slot) (c : StreamCell) (r : PortId) : (s.send i c).port r = s.port r := rfl
@[simp] theorem State.send_sout (s : State) (i : Slot) (c : StreamCell) : (s.send i c).sout = s.sout ++ [s.rewrite i c] := rfl

/-! ## sendFill -/

@[simp] theorem State.sendFill_powered (s : State) (i : Slot) : (s.sendFill i).powered = s.powered := rfl
@[simp] theorem State.sendFill_rstAsserted (s : State) (i : Slot) : (s.sendFill i).rstAsserted = s.rstAsserted := rfl
@[simp] theorem State.sendFill_rlk (s : State) (i : Slot) : (s.sendFill i).rlk = s.rlk := rfl
@[simp] theorem State.sendFill_timer (s : State) (i : Slot) : (s.sendFill i).timer = s.timer := rfl
@[simp] theorem State.sendFill_station (s : State) (i : Slot) : (s.sendFill i).station = s.station := rfl
@[simp] theorem State.sendFill_stationNumber (s : State) (i : Slot) : (s.sendFill i).stationNumber = s.stationNumber := rfl
@[simp] theorem State.sendFill_blockBase (s : State) (i : Slot) : (s.sendFill i).blockBase = s.blockBase := rfl
@[simp] theorem State.sendFill_quietStart (s : State) (i : Slot) : (s.sendFill i).quietStart = s.quietStart := rfl
@[simp] theorem State.sendFill_setupStart (s : State) (i : Slot) : (s.sendFill i).setupStart = s.setupStart := rfl
@[simp] theorem State.sendFill_startLatch (s : State) (i : Slot) : (s.sendFill i).startLatch = s.startLatch := rfl
@[simp] theorem State.sendFill_prerollByte (s : State) (i : Slot) : (s.sendFill i).prerollByte = s.prerollByte := rfl
@[simp] theorem State.sendFill_lateLimitByte (s : State) (i : Slot) : (s.sendFill i).lateLimitByte = s.lateLimitByte := rfl
@[simp] theorem State.sendFill_rejoinMinByte (s : State) (i : Slot) : (s.sendFill i).rejoinMinByte = s.rejoinMinByte := rfl
@[simp] theorem State.sendFill_lock (s : State) (i : Slot) : (s.sendFill i).lock = s.lock := rfl
@[simp] theorem State.sendFill_fixPermitted (s : State) (i : Slot) : (s.sendFill i).fixPermitted = s.fixPermitted := rfl
@[simp] theorem State.sendFill_ports (s : State) (i : Slot) : (s.sendFill i).ports = s.ports := rfl
@[simp] theorem State.sendFill_ring (s : State) (i : Slot) : (s.sendFill i).ring = s.ring := rfl
@[simp] theorem State.sendFill_networkMarkErrors (s : State) (i : Slot) : (s.sendFill i).networkMarkErrors = s.networkMarkErrors := rfl
@[simp] theorem State.sendFill_alerts (s : State) (i : Slot) : (s.sendFill i).alerts = s.alerts := rfl
@[simp] theorem State.sendFill_window0 (s : State) (i : Slot) : (s.sendFill i).window0 = s.window0 := rfl
@[simp] theorem State.sendFill_window1 (s : State) (i : Slot) : (s.sendFill i).window1 = s.window1 := rfl
@[simp] theorem State.sendFill_integrityCount (s : State) (i : Slot) : (s.sendFill i).integrityCount = s.integrityCount := rfl
@[simp] theorem State.sendFill_conflictCount (s : State) (i : Slot) : (s.sendFill i).conflictCount = s.conflictCount := rfl
@[simp] theorem State.sendFill_line (s : State) (i : Slot) : (s.sendFill i).line = s.line := rfl
@[simp] theorem State.sendFill_pending (s : State) (i : Slot) : (s.sendFill i).pending = s.pending := rfl
@[simp] theorem State.sendFill_port (s : State) (i : Slot) (r : PortId) : (s.sendFill i).port r = s.port r := rfl

/-! ## drainPort -/

@[simp] theorem State.drainPort_powered (s : State) (i : Slot) (p : PortId) : (s.drainPort i p).powered = s.powered := rfl
@[simp] theorem State.drainPort_rstAsserted (s : State) (i : Slot) (p : PortId) : (s.drainPort i p).rstAsserted = s.rstAsserted := rfl
@[simp] theorem State.drainPort_rlk (s : State) (i : Slot) (p : PortId) : (s.drainPort i p).rlk = s.rlk := rfl
@[simp] theorem State.drainPort_timer (s : State) (i : Slot) (p : PortId) : (s.drainPort i p).timer = s.timer := rfl
@[simp] theorem State.drainPort_station (s : State) (i : Slot) (p : PortId) : (s.drainPort i p).station = s.station := rfl
@[simp] theorem State.drainPort_stationNumber (s : State) (i : Slot) (p : PortId) : (s.drainPort i p).stationNumber = s.stationNumber := rfl
@[simp] theorem State.drainPort_blockBase (s : State) (i : Slot) (p : PortId) : (s.drainPort i p).blockBase = s.blockBase := rfl
@[simp] theorem State.drainPort_quietStart (s : State) (i : Slot) (p : PortId) : (s.drainPort i p).quietStart = s.quietStart := rfl
@[simp] theorem State.drainPort_setupStart (s : State) (i : Slot) (p : PortId) : (s.drainPort i p).setupStart = s.setupStart := rfl
@[simp] theorem State.drainPort_startLatch (s : State) (i : Slot) (p : PortId) : (s.drainPort i p).startLatch = s.startLatch := rfl
@[simp] theorem State.drainPort_prerollByte (s : State) (i : Slot) (p : PortId) : (s.drainPort i p).prerollByte = s.prerollByte := rfl
@[simp] theorem State.drainPort_lateLimitByte (s : State) (i : Slot) (p : PortId) : (s.drainPort i p).lateLimitByte = s.lateLimitByte := rfl
@[simp] theorem State.drainPort_rejoinMinByte (s : State) (i : Slot) (p : PortId) : (s.drainPort i p).rejoinMinByte = s.rejoinMinByte := rfl
@[simp] theorem State.drainPort_lock (s : State) (i : Slot) (p : PortId) : (s.drainPort i p).lock = s.lock := rfl
@[simp] theorem State.drainPort_fixPermitted (s : State) (i : Slot) (p : PortId) : (s.drainPort i p).fixPermitted = s.fixPermitted := rfl
@[simp] theorem State.drainPort_channels (s : State) (i : Slot) (p : PortId) : (s.drainPort i p).channels = s.channels := rfl
@[simp] theorem State.drainPort_ring (s : State) (i : Slot) (p : PortId) : (s.drainPort i p).ring = s.ring := rfl
@[simp] theorem State.drainPort_networkMarkErrors (s : State) (i : Slot) (p : PortId) : (s.drainPort i p).networkMarkErrors = s.networkMarkErrors := rfl
@[simp] theorem State.drainPort_alerts (s : State) (i : Slot) (p : PortId) : (s.drainPort i p).alerts = s.alerts := rfl
@[simp] theorem State.drainPort_window0 (s : State) (i : Slot) (p : PortId) : (s.drainPort i p).window0 = s.window0 := rfl
@[simp] theorem State.drainPort_window1 (s : State) (i : Slot) (p : PortId) : (s.drainPort i p).window1 = s.window1 := rfl
@[simp] theorem State.drainPort_integrityCount (s : State) (i : Slot) (p : PortId) : (s.drainPort i p).integrityCount = s.integrityCount := rfl
@[simp] theorem State.drainPort_conflictCount (s : State) (i : Slot) (p : PortId) : (s.drainPort i p).conflictCount = s.conflictCount := rfl
@[simp] theorem State.drainPort_line (s : State) (i : Slot) (p : PortId) : (s.drainPort i p).line = s.line := rfl
@[simp] theorem State.drainPort_sout (s : State) (i : Slot) (p : PortId) : (s.drainPort i p).sout = s.sout := rfl
@[simp] theorem State.drainPort_pending (s : State) (i : Slot) (p : PortId) : (s.drainPort i p).pending = s.pending := rfl
@[simp] theorem State.drainPort_chan (s : State) (i : Slot) (p : PortId) (j : Slot) : (s.drainPort i p).chan j = s.chan j := rfl

/-! ## drainTruncating -/

@[simp] theorem State.drainTruncating_powered (s : State) (i : Slot) (p : PortId) : (s.drainTruncating i p).powered = s.powered := rfl
@[simp] theorem State.drainTruncating_rstAsserted (s : State) (i : Slot) (p : PortId) : (s.drainTruncating i p).rstAsserted = s.rstAsserted := rfl
@[simp] theorem State.drainTruncating_rlk (s : State) (i : Slot) (p : PortId) : (s.drainTruncating i p).rlk = s.rlk := rfl
@[simp] theorem State.drainTruncating_timer (s : State) (i : Slot) (p : PortId) : (s.drainTruncating i p).timer = s.timer := rfl
@[simp] theorem State.drainTruncating_station (s : State) (i : Slot) (p : PortId) : (s.drainTruncating i p).station = s.station := rfl
@[simp] theorem State.drainTruncating_stationNumber (s : State) (i : Slot) (p : PortId) : (s.drainTruncating i p).stationNumber = s.stationNumber := rfl
@[simp] theorem State.drainTruncating_blockBase (s : State) (i : Slot) (p : PortId) : (s.drainTruncating i p).blockBase = s.blockBase := rfl
@[simp] theorem State.drainTruncating_quietStart (s : State) (i : Slot) (p : PortId) : (s.drainTruncating i p).quietStart = s.quietStart := rfl
@[simp] theorem State.drainTruncating_setupStart (s : State) (i : Slot) (p : PortId) : (s.drainTruncating i p).setupStart = s.setupStart := rfl
@[simp] theorem State.drainTruncating_startLatch (s : State) (i : Slot) (p : PortId) : (s.drainTruncating i p).startLatch = s.startLatch := rfl
@[simp] theorem State.drainTruncating_prerollByte (s : State) (i : Slot) (p : PortId) : (s.drainTruncating i p).prerollByte = s.prerollByte := rfl
@[simp] theorem State.drainTruncating_lateLimitByte (s : State) (i : Slot) (p : PortId) : (s.drainTruncating i p).lateLimitByte = s.lateLimitByte := rfl
@[simp] theorem State.drainTruncating_rejoinMinByte (s : State) (i : Slot) (p : PortId) : (s.drainTruncating i p).rejoinMinByte = s.rejoinMinByte := rfl
@[simp] theorem State.drainTruncating_lock (s : State) (i : Slot) (p : PortId) : (s.drainTruncating i p).lock = s.lock := rfl
@[simp] theorem State.drainTruncating_fixPermitted (s : State) (i : Slot) (p : PortId) : (s.drainTruncating i p).fixPermitted = s.fixPermitted := rfl
@[simp] theorem State.drainTruncating_ring (s : State) (i : Slot) (p : PortId) : (s.drainTruncating i p).ring = s.ring := rfl
@[simp] theorem State.drainTruncating_networkMarkErrors (s : State) (i : Slot) (p : PortId) : (s.drainTruncating i p).networkMarkErrors = s.networkMarkErrors := rfl
@[simp] theorem State.drainTruncating_alerts (s : State) (i : Slot) (p : PortId) : (s.drainTruncating i p).alerts = s.alerts := rfl
@[simp] theorem State.drainTruncating_window0 (s : State) (i : Slot) (p : PortId) : (s.drainTruncating i p).window0 = s.window0 := rfl
@[simp] theorem State.drainTruncating_window1 (s : State) (i : Slot) (p : PortId) : (s.drainTruncating i p).window1 = s.window1 := rfl
@[simp] theorem State.drainTruncating_integrityCount (s : State) (i : Slot) (p : PortId) : (s.drainTruncating i p).integrityCount = s.integrityCount := rfl
@[simp] theorem State.drainTruncating_conflictCount (s : State) (i : Slot) (p : PortId) : (s.drainTruncating i p).conflictCount = s.conflictCount := rfl
@[simp] theorem State.drainTruncating_line (s : State) (i : Slot) (p : PortId) : (s.drainTruncating i p).line = s.line := rfl
@[simp] theorem State.drainTruncating_sout (s : State) (i : Slot) (p : PortId) : (s.drainTruncating i p).sout = s.sout := rfl
@[simp] theorem State.drainTruncating_pending (s : State) (i : Slot) (p : PortId) : (s.drainTruncating i p).pending = s.pending := rfl

/-! ## awaitAlert -/

@[simp] theorem State.awaitAlert_powered (s : State) (i : Slot) (a : AlertRef) : (s.awaitAlert i a).powered = s.powered := rfl
@[simp] theorem State.awaitAlert_rstAsserted (s : State) (i : Slot) (a : AlertRef) : (s.awaitAlert i a).rstAsserted = s.rstAsserted := rfl
@[simp] theorem State.awaitAlert_rlk (s : State) (i : Slot) (a : AlertRef) : (s.awaitAlert i a).rlk = s.rlk := rfl
@[simp] theorem State.awaitAlert_timer (s : State) (i : Slot) (a : AlertRef) : (s.awaitAlert i a).timer = s.timer := rfl
@[simp] theorem State.awaitAlert_station (s : State) (i : Slot) (a : AlertRef) : (s.awaitAlert i a).station = s.station := rfl
@[simp] theorem State.awaitAlert_stationNumber (s : State) (i : Slot) (a : AlertRef) : (s.awaitAlert i a).stationNumber = s.stationNumber := rfl
@[simp] theorem State.awaitAlert_blockBase (s : State) (i : Slot) (a : AlertRef) : (s.awaitAlert i a).blockBase = s.blockBase := rfl
@[simp] theorem State.awaitAlert_quietStart (s : State) (i : Slot) (a : AlertRef) : (s.awaitAlert i a).quietStart = s.quietStart := rfl
@[simp] theorem State.awaitAlert_setupStart (s : State) (i : Slot) (a : AlertRef) : (s.awaitAlert i a).setupStart = s.setupStart := rfl
@[simp] theorem State.awaitAlert_startLatch (s : State) (i : Slot) (a : AlertRef) : (s.awaitAlert i a).startLatch = s.startLatch := rfl
@[simp] theorem State.awaitAlert_prerollByte (s : State) (i : Slot) (a : AlertRef) : (s.awaitAlert i a).prerollByte = s.prerollByte := rfl
@[simp] theorem State.awaitAlert_lateLimitByte (s : State) (i : Slot) (a : AlertRef) : (s.awaitAlert i a).lateLimitByte = s.lateLimitByte := rfl
@[simp] theorem State.awaitAlert_rejoinMinByte (s : State) (i : Slot) (a : AlertRef) : (s.awaitAlert i a).rejoinMinByte = s.rejoinMinByte := rfl
@[simp] theorem State.awaitAlert_lock (s : State) (i : Slot) (a : AlertRef) : (s.awaitAlert i a).lock = s.lock := rfl
@[simp] theorem State.awaitAlert_fixPermitted (s : State) (i : Slot) (a : AlertRef) : (s.awaitAlert i a).fixPermitted = s.fixPermitted := rfl
@[simp] theorem State.awaitAlert_ports (s : State) (i : Slot) (a : AlertRef) : (s.awaitAlert i a).ports = s.ports := rfl
@[simp] theorem State.awaitAlert_ring (s : State) (i : Slot) (a : AlertRef) : (s.awaitAlert i a).ring = s.ring := rfl
@[simp] theorem State.awaitAlert_networkMarkErrors (s : State) (i : Slot) (a : AlertRef) : (s.awaitAlert i a).networkMarkErrors = s.networkMarkErrors := rfl
@[simp] theorem State.awaitAlert_alerts (s : State) (i : Slot) (a : AlertRef) : (s.awaitAlert i a).alerts = s.alerts := rfl
@[simp] theorem State.awaitAlert_window0 (s : State) (i : Slot) (a : AlertRef) : (s.awaitAlert i a).window0 = s.window0 := rfl
@[simp] theorem State.awaitAlert_window1 (s : State) (i : Slot) (a : AlertRef) : (s.awaitAlert i a).window1 = s.window1 := rfl
@[simp] theorem State.awaitAlert_integrityCount (s : State) (i : Slot) (a : AlertRef) : (s.awaitAlert i a).integrityCount = s.integrityCount := rfl
@[simp] theorem State.awaitAlert_conflictCount (s : State) (i : Slot) (a : AlertRef) : (s.awaitAlert i a).conflictCount = s.conflictCount := rfl
@[simp] theorem State.awaitAlert_line (s : State) (i : Slot) (a : AlertRef) : (s.awaitAlert i a).line = s.line := rfl
@[simp] theorem State.awaitAlert_sout (s : State) (i : Slot) (a : AlertRef) : (s.awaitAlert i a).sout = s.sout := rfl
@[simp] theorem State.awaitAlert_pending (s : State) (i : Slot) (a : AlertRef) : (s.awaitAlert i a).pending = s.pending := rfl
@[simp] theorem State.awaitAlert_port (s : State) (i : Slot) (a : AlertRef) (r : PortId) : (s.awaitAlert i a).port r = s.port r := rfl

/-! ## writeRing -/

@[simp] theorem State.writeRing_powered (s : State) (c : StreamCell) : (s.writeRing c).powered = s.powered := rfl
@[simp] theorem State.writeRing_rstAsserted (s : State) (c : StreamCell) : (s.writeRing c).rstAsserted = s.rstAsserted := rfl
@[simp] theorem State.writeRing_rlk (s : State) (c : StreamCell) : (s.writeRing c).rlk = s.rlk := rfl
@[simp] theorem State.writeRing_timer (s : State) (c : StreamCell) : (s.writeRing c).timer = s.timer := rfl
@[simp] theorem State.writeRing_station (s : State) (c : StreamCell) : (s.writeRing c).station = s.station := rfl
@[simp] theorem State.writeRing_stationNumber (s : State) (c : StreamCell) : (s.writeRing c).stationNumber = s.stationNumber := rfl
@[simp] theorem State.writeRing_blockBase (s : State) (c : StreamCell) : (s.writeRing c).blockBase = s.blockBase := rfl
@[simp] theorem State.writeRing_quietStart (s : State) (c : StreamCell) : (s.writeRing c).quietStart = s.quietStart := rfl
@[simp] theorem State.writeRing_setupStart (s : State) (c : StreamCell) : (s.writeRing c).setupStart = s.setupStart := rfl
@[simp] theorem State.writeRing_startLatch (s : State) (c : StreamCell) : (s.writeRing c).startLatch = s.startLatch := rfl
@[simp] theorem State.writeRing_prerollByte (s : State) (c : StreamCell) : (s.writeRing c).prerollByte = s.prerollByte := rfl
@[simp] theorem State.writeRing_lateLimitByte (s : State) (c : StreamCell) : (s.writeRing c).lateLimitByte = s.lateLimitByte := rfl
@[simp] theorem State.writeRing_rejoinMinByte (s : State) (c : StreamCell) : (s.writeRing c).rejoinMinByte = s.rejoinMinByte := rfl
@[simp] theorem State.writeRing_lock (s : State) (c : StreamCell) : (s.writeRing c).lock = s.lock := rfl
@[simp] theorem State.writeRing_fixPermitted (s : State) (c : StreamCell) : (s.writeRing c).fixPermitted = s.fixPermitted := rfl
@[simp] theorem State.writeRing_ports (s : State) (c : StreamCell) : (s.writeRing c).ports = s.ports := rfl
@[simp] theorem State.writeRing_networkMarkErrors (s : State) (c : StreamCell) : (s.writeRing c).networkMarkErrors = s.networkMarkErrors := rfl
@[simp] theorem State.writeRing_alerts (s : State) (c : StreamCell) : (s.writeRing c).alerts = s.alerts := rfl
@[simp] theorem State.writeRing_window0 (s : State) (c : StreamCell) : (s.writeRing c).window0 = s.window0 := rfl
@[simp] theorem State.writeRing_window1 (s : State) (c : StreamCell) : (s.writeRing c).window1 = s.window1 := rfl
@[simp] theorem State.writeRing_integrityCount (s : State) (c : StreamCell) : (s.writeRing c).integrityCount = s.integrityCount := rfl
@[simp] theorem State.writeRing_conflictCount (s : State) (c : StreamCell) : (s.writeRing c).conflictCount = s.conflictCount := rfl
@[simp] theorem State.writeRing_line (s : State) (c : StreamCell) : (s.writeRing c).line = s.line := rfl
@[simp] theorem State.writeRing_sout (s : State) (c : StreamCell) : (s.writeRing c).sout = s.sout := rfl
@[simp] theorem State.writeRing_pending (s : State) (c : StreamCell) : (s.writeRing c).pending = s.pending := rfl
@[simp] theorem State.writeRing_port (s : State) (c : StreamCell) (r : PortId) : (s.writeRing c).port r = s.port r := rfl

/-! ## Reading one channel, one port -/

@[simp] theorem State.setChan_chan_same (s : State) (i : Slot) (c : Channel) : (s.setChan i c).chan i = c := by
  simp [State.chan, State.setChan]

theorem State.setChan_chan_ne (s : State) {i j : Slot} (c : Channel) (h : j ≠ i) : (s.setChan i c).chan j = s.chan j := by
  have : i.val ≠ j.val := fun e => h (Fin.ext e.symm)
  simp [State.chan, State.setChan, this]

/-- Reading a channel after one has been set. -/
theorem State.setChan_chan (s : State) (i j : Slot) (c : Channel) :
    (s.setChan i c).chan j = if j = i then c else s.chan j := by
  split
  · rename_i h
    rw [h, State.setChan_chan_same]
  · exact s.setChan_chan_ne c (by assumption)

@[simp] theorem State.modChan_chan_same (s : State) (i : Slot) (f : Channel → Channel) :
    (s.modChan i f).chan i = f (s.chan i) := s.setChan_chan_same i _

theorem State.modChan_chan_ne (s : State) {i j : Slot} (f : Channel → Channel) (h : j ≠ i) :
    (s.modChan i f).chan j = s.chan j := s.setChan_chan_ne _ h

/-- Reading a channel after one has been changed. -/
theorem State.modChan_chan (s : State) (i j : Slot) (f : Channel → Channel) :
    (s.modChan i f).chan j = if j = i then f (s.chan j) else s.chan j := by
  split
  · rename_i h
    rw [h, State.modChan_chan_same]
  · exact s.modChan_chan_ne f (by assumption)

@[simp] theorem State.setPort_port_same (s : State) (p : PortId) (q : InsertPort) : (s.setPort p q).port p = q := by
  simp [State.port, State.setPort]

theorem State.setPort_port_ne (s : State) {p r : PortId} (q : InsertPort) (h : r ≠ p) : (s.setPort p q).port r = s.port r := by
  have : p.val ≠ r.val := fun e => h (Fin.ext e.symm)
  simp [State.port, State.setPort, this]

@[simp] theorem State.modPort_port_same (s : State) (p : PortId) (f : InsertPort → InsertPort) :
    (s.modPort p f).port p = f (s.port p) := s.setPort_port_same p _

theorem State.modPort_port_ne (s : State) {p r : PortId} (f : InsertPort → InsertPort) (h : r ≠ p) :
    (s.modPort p f).port r = s.port r := s.setPort_port_ne _ h

/-- Reading a port after one has been changed. -/
theorem State.modPort_port (s : State) (p r : PortId) (f : InsertPort → InsertPort) :
    (s.modPort p f).port r = if r = p then f (s.port r) else s.port r := by
  split
  · rename_i h
    rw [h, State.modPort_port_same]
  · exact s.modPort_port_ne f (by assumption)

/-- Two channel vectors with the same channels are the same. -/
theorem State.channels_ext {v w : Vector Channel 16} (h : ∀ i : Slot, v[i] = w[i]) : v = w := by
  apply Vector.ext
  intro k hk
  exact h ⟨k, hk⟩

/-- Two changes of one channel are one. -/
@[simp] theorem State.modChan_modChan (s : State) (i : Slot) (f g : Channel → Channel) :
    (s.modChan i f).modChan i g = s.modChan i fun c => g (f c) := by
  simp [State.modChan, State.setChan, State.chan, Vector.set_set]

/-- A channel that is set to what it holds leaves the state as it is. -/
theorem State.setChan_self (s : State) (i : Slot) : s.setChan i (s.chan i) = s := by
  simp [State.setChan, State.chan]

theorem State.modChan_id (s : State) (i : Slot) : (s.modChan i fun c => c) = s := s.setChan_self i

@[simp] theorem State.send_chan_same (s : State) (i : Slot) (c : StreamCell) :
    (s.send i c).chan i = (s.chan i).afterSend := State.modChan_chan_same s i _

theorem State.send_chan_ne (s : State) {i j : Slot} (c : StreamCell) (h : j ≠ i) : (s.send i c).chan j = s.chan j :=
  State.modChan_chan_ne s _ h

end Sys2Proof.Machine
end

