-- ==== Sys2Proof/Laws/Moves.lean ====
section
/-!
SUPPORT. What every shared operation over the whole state can do, said once: it is a chain of moves, each of them a change of one
channel record that keeps its rights, its gate and its sequence count, a request to one insert port, a report offered, a change of
the alert table, a response decided, or a cell sent. An invariant that every kind of move keeps is kept by every operation.
-/
namespace Sys2Proof.Machine

/-- What no change of a channel record inside an operation touches: the rights unit's fields, the start gate and the sequence
count; and the activity latch is not cleared. -/
structure Channel.Keeps (c c' : Channel) : Prop where
  rights   : c'.rights = c.rights
  fixed    : c'.fixed = c.fixed
  gate     : c'.gateOpen = c.gateOpen
  outSeq   : c'.outSeq = c.outSeq
  activity : c.activity = true → c'.activity = true

/-- The requests to an insert port (R8 to R11). -/
inductive PortMove : InsertPort → InsertPort → Prop
  | grant (q : InsertPort) (i : Slot) : PortMove q (q.grant i)
  | take (q : InsertPort) : PortMove q q.take
  | takeAtCut (q : InsertPort) : PortMove q q.takeAtCut
  | goLive (q : InsertPort) (i : Slot) : PortMove q (q.goLive i)
  | drain (q : InsertPort) (i : Slot) : PortMove q (q.drain i)
  | freed (q : InsertPort) : PortMove q q.freed

/-- The state s comes to another by a chain of moves. -/
inductive Moves (s : State) : State → Prop
  | start : Moves s s
  | chan {s' : State} (h : Moves s s') (i : Slot) (f : Channel → Channel) (hf : ∀ c : Channel, c.Keeps (f c)) : Moves s (s'.modChan i f)
  | port {s' : State} (h : Moves s s') (p : PortId) (f : InsertPort → InsertPort) (hf : ∀ q, PortMove q (f q)) :
      Moves s (s'.modPort p f)
  | offer {s' : State} (h : Moves s s') (r : Report) : Moves s (s'.offer r)
  | table {s' : State} (h : Moves s s') (a : List AlertRecord) : Moves s { s' with alerts := a }
  | decide {s' : State} (h : Moves s s') (d : Decision) : Moves s (s'.setDecision d)
  | send {s' : State} (h : Moves s s') (i : Slot) (c : StreamCell) : Moves s (s'.send i c)

theorem Moves.trans {s u v : State} (h : Moves s u) (k : Moves u v) : Moves s v := by
  induction k with
  | start => exact h
  | chan _ i f hf ih => exact ih.chan i f hf
  | port _ p f hf ih => exact ih.port p f hf
  | offer _ r ih => exact ih.offer r
  | table _ a ih => exact ih.table a
  | decide _ d ih => exact ih.decide d
  | send _ i c ih => exact ih.send i c

/-- A fold of operations that are chains of moves is one. -/
theorem Moves.foldl {α : Type} (f : State → α → State) (hf : ∀ s a, Moves s (f s a)) (l : List α) (s : State) :
    Moves s (l.foldl f s) := by
  induction l generalizing s with
  | nil => exact .start
  | cons a l ih => exact (hf s a).trans (ih _)

theorem Channel.Keeps.rfl {c : Channel} : c.Keeps c := ⟨Eq.refl _, Eq.refl _, Eq.refl _, Eq.refl _, id⟩

/-! ## Ports, the arbiter, entries (R10, R76) -/

theorem State.arbitrate_moves (s : State) (p : PortId) : Moves s (s.arbitrate p) := by
  unfold State.arbitrate
  split
  · exact (Moves.start.port _ _ fun q => .grant q _).chan _ _ (by intro c; exact ⟨rfl, rfl, rfl, rfl, id⟩)
  · exact .start

theorem State.releasePort_moves (s : State) (i : Slot) (p : PortId) : Moves s (s.releasePort i p) := by
  unfold State.releasePort
  split
  · exact (Moves.start.port _ _ .freed).trans (State.arbitrate_moves _ _)
  · exact .start

theorem State.drainPort_moves (s : State) (i : Slot) (p : PortId) : Moves s (s.drainPort i p) :=
  Moves.start.port _ _ fun q => .drain q i

theorem State.drainTruncating_moves (s : State) (i : Slot) (p : PortId) : Moves s (s.drainTruncating i p) :=
  (s.drainPort_moves i p).chan _ _ (by intro c; exact ⟨rfl, rfl, rfl, rfl, id⟩)

theorem State.leaveEntry_moves (s : State) (i : Slot) (e : CueEntry) (k : CutKind) (r : CutReason) :
    Moves s (s.leaveEntry i e k r) := by
  unfold State.leaveEntry
  refine Moves.offer (Moves.chan ?_ _ _ (by intro c; exact ⟨rfl, rfl, rfl, rfl, id⟩)) _
  split
  · exact (Moves.start.chan i _ (by intro c; exact ⟨rfl, rfl, rfl, rfl, id⟩)).trans (State.releasePort_moves _ _ _)
  · exact .start

theorem State.withdrawEntry_moves (s : State) (i : Slot) (r : CutReason) (e : CueEntry) : Moves s (s.withdrawEntry i r e) :=
  s.leaveEntry_moves i e _ r

theorem State.missEntry_moves (s : State) (i : Slot) (r : CutReason) (e : CueEntry) : Moves s (s.missEntry i r e) :=
  (s.leaveEntry_moves i e _ r).chan _ _ (by intro c; exact ⟨rfl, rfl, rfl, rfl, id⟩)

theorem State.withdrawById_moves (s : State) (i : Slot) (r : CutReason) (id : Ident) : Moves s (s.withdrawById i r id) := by
  unfold State.withdrawById
  split
  · exact s.withdrawEntry_moves i r _
  · exact .start

theorem State.withdrawEntries_moves (s : State) (i : Slot) (which : CueEntry → Bool) (r : CutReason) :
    Moves s (s.withdrawEntries i which r) :=
  Moves.foldl _ (fun s id => s.withdrawById_moves i r id) _ s

theorem State.sendFill_moves (s : State) (i : Slot) : Moves s (s.sendFill i) :=
  (Moves.start.chan i _ (by intro c; exact ⟨rfl, rfl, rfl, rfl, id⟩)).send i _

/-! ## Channel records: changes that keep the rights, the gate and the sequence count -/

theorem Channel.dropHeldBreak_keeps (c : Channel) : c.Keeps c.dropHeldBreak := ⟨rfl, rfl, rfl, rfl, id⟩

theorem Channel.dropBreak_keeps (c : Channel) : c.Keeps c.dropBreak := by
  unfold Channel.dropBreak
  split
  · exact ⟨rfl, rfl, rfl, rfl, id⟩
  · exact c.dropHeldBreak_keeps

theorem Channel.enterReturnWait_keeps (c : Channel) (k : ReturnCondition) (r : Option ReturnReport) :
    c.Keeps (c.enterReturnWait k r) := ⟨rfl, rfl, rfl, rfl, id⟩

theorem Channel.afterLoss_keeps (c : Channel) : c.Keeps c.afterLoss := by
  unfold Channel.afterLoss
  split <;> first | exact c.enterReturnWait_keeps _ _ | exact .rfl

theorem Channel.markCut_keeps (c : Channel) : c.Keeps c.markCut := ⟨rfl, rfl, rfl, rfl, fun _ => rfl⟩

/-! ## Clocks (chapter 2) -/

theorem State.raiseCut_moves (s : State) (i : Slot) (k : CutKind) (r : CutReason) (id : Ident) (x : Time) (l : Byte) :
    Moves s (s.raiseCut i k r id x l) := Moves.start.offer _

theorem State.raiseBreak_moves (s : State) (i : Slot) (k : CutKind) (r : CutReason) (b : BreakRecord) :
    Moves s (s.raiseBreak i k r b) := Moves.start.offer _

theorem State.endBreak_moves (s : State) (i : Slot) (r : CutReason) (b : BreakRecord) : Moves s (s.endBreak i r b) :=
  ((s.raiseBreak_moves i _ r b).chan i _ Channel.dropBreak_keeps).trans (State.releasePort_moves _ _ _)

theorem State.removeHeldBreak_moves (s : State) (i : Slot) (b : BreakRecord) : Moves s (s.removeHeldBreak i b) :=
  (Moves.start.chan i _ Channel.dropHeldBreak_keeps).trans (State.releasePort_moves _ _ _)

theorem State.loseBreak_moves (s : State) (i : Slot) : Moves s (s.loseBreak i) := by
  refine Moves.chan ?_ i _ Channel.afterLoss_keeps
  split
  · exact s.endBreak_moves i _ _
  · exact .start

theorem State.loseClock_moves (s : State) (i : Slot) : Moves s (s.loseClock i) :=
  ((Moves.start.chan i _ (by intro c; exact ⟨rfl, rfl, rfl, rfl, id⟩)).trans (State.withdrawEntries_moves _ i _ _)).trans
    (State.loseBreak_moves _ i)

theorem State.judgeSilence_moves (s : State) (i : Slot) (t : Time) : Moves s (s.judgeSilence i t) := by
  unfold State.judgeSilence
  split
  · exact s.loseClock_moves i
  · exact .start

theorem State.jump_moves (s : State) (i : Slot) (x t : Time) : Moves s (s.jump i x t) :=
  (s.withdrawEntries_moves i _ _).chan i _ (by intro c; exact ⟨rfl, rfl, rfl, rfl, id⟩)

theorem State.stampArrival_moves (s : State) (i : Slot) (x t : Time) (disc : Bool) : Moves s (s.stampArrival i x t disc) := by
  simp only [State.stampArrival]
  split
  · exact Moves.start.chan i _ (by intro c; exact ⟨rfl, rfl, rfl, rfl, id⟩)
  · exact Moves.start.chan i _ (by intro c; exact ⟨rfl, rfl, rfl, rfl, id⟩)
  · split
    · exact Moves.start.chan i _ (by intro c; exact ⟨rfl, rfl, rfl, rfl, id⟩)
    · exact (s.jump_moves i x t).chan i _ (by intro c; exact ⟨rfl, rfl, rfl, rfl, id⟩)

theorem State.judgeStale_moves (s : State) (i : Slot) (t : Time) : Moves s (s.judgeStale i t) := by
  simp only [State.judgeStale]
  split
  · split
    · exact (s.raiseBreak_moves i _ _ _).trans (State.removeHeldBreak_moves _ i _)
    · exact .start
  · exact .start

theorem State.clockStep_moves (s : State) (i : Slot) (t : Time) (cell : StreamCell) : Moves s (s.clockStep i t cell) := by
  simp only [State.clockStep]
  refine Moves.trans ?_ (State.judgeStale_moves _ i t)
  split
  · exact (s.judgeSilence_moves i t).trans (State.stampArrival_moves _ i _ t _)
  · exact s.judgeSilence_moves i t

/-! ## Breaks (chapter 5) -/

theorem State.matureFirst_moves (s : State) (i : Slot) (c : Time) : Moves s (s.matureFirst i c) := by
  unfold State.matureFirst
  split
  · split
    · exact Moves.start.chan i _ (by intro c; exact ⟨rfl, rfl, rfl, rfl, id⟩)
    · exact .start
  · exact .start

theorem State.judgeMiss_moves (s : State) (i : Slot) (c : Time) (id : Ident) : Moves s (s.judgeMiss i c id) := by
  unfold State.judgeMiss
  split
  · split
    · exact s.missEntry_moves i _ _
    · exact .start
  · exact .start

theorem State.judgeMisses_moves (s : State) (i : Slot) (c : Time) : Moves s (s.judgeMisses i c) :=
  Moves.foldl _ (fun s id => s.judgeMiss_moves i c id) _ s

theorem State.reserve_moves (s : State) (i : Slot) (e : CueEntry) : Moves s (s.reserve i e) := by
  unfold State.reserve
  split
  · exact (Moves.start.port _ _ fun q => .grant q i).chan i _ (by intro c; exact ⟨rfl, rfl, rfl, rfl, id⟩)
  · exact Moves.start.chan i _ (by intro c; exact ⟨rfl, rfl, rfl, rfl, id⟩)

theorem State.proceed_moves (s : State) (i : Slot) : Moves s (s.proceed i) := by
  unfold State.proceed
  split
  · split
    · exact s.reserve_moves i _
    · exact .start
  · exact .start

theorem State.cueStep_moves (s : State) (i : Slot) (t : Time) : Moves s (s.cueStep i t) := by
  simp only [State.cueStep]
  split
  · exact .start
  · exact ((s.matureFirst_moves i _).trans (State.judgeMisses_moves _ i _)).trans (State.proceed_moves _ i)

theorem State.cutIn_moves (s : State) (i : Slot) (e : CueEntry) (sp u : Time) (head : StreamCell) :
    Moves s (s.cutIn i e sp u head) :=
  (((Moves.start.port _ _ fun q => .goLive q i).chan i _ (by intro c; exact ⟨rfl, rfl, rfl, rfl, fun _ => rfl⟩)).send i _).offer _

theorem State.outputCutWait_moves (s : State) (i : Slot) (cell : StreamCell) : Moves s (s.outputCutWait i cell) := by
  unfold State.outputCutWait
  split
  · exact Moves.start.send i _
  split
  · exact Moves.start.send i _
  split
  · exact Moves.start.send i _
  split
  · exact (s.missEntry_moves i _ _).send i _
  split
  · exact Moves.start.send i _
  split
  · exact s.cutIn_moves i _ _ _ _
  · exact Moves.start.send i _

theorem State.returnCut_moves (s : State) (i : Slot) (b : BreakRecord) (cell : StreamCell) : Moves s (s.returnCut i b cell) :=
  ((((Moves.start.chan i _ Channel.markCut_keeps).send i _).trans (State.releasePort_moves _ i _)).chan i _
    (by intro c; exact ⟨rfl, rfl, rfl, rfl, id⟩)).trans (State.raiseBreak_moves _ i _ _ _)

theorem State.truncate_moves (s : State) (i : Slot) (b : BreakRecord) : Moves s (s.truncate i b) :=
  ((s.sendFill_moves i).trans (State.drainTruncating_moves _ i _)).chan i _ (by intro c; exact c.enterReturnWait_keeps _ _)

theorem State.endMark_moves (s : State) (i : Slot) (b : BreakRecord) : Moves s (s.endMark i b) := by
  simp only [State.endMark]
  refine Moves.chan ?_ i _ (by intro c; exact ⟨rfl, rfl, rfl, rfl, id⟩)
  exact ((Moves.start.port _ _ .take).trans (State.sendFill_moves _ i)).trans (State.drainTruncating_moves _ i _)

theorem State.outputBreak_moves (s : State) (i : Slot) (cell : StreamCell) : Moves s (s.outputBreak i cell) := by
  unfold State.outputBreak
  split
  · exact s.sendFill_moves i
  split
  · exact s.returnCut_moves i _ _
  split
  · exact (Moves.start.chan i _ (by intro c; exact ⟨rfl, rfl, rfl, rfl, id⟩)).trans (State.sendFill_moves _ i)
  split
  · exact s.endMark_moves i _
  split
  · exact s.truncate_moves i _
  · exact (Moves.start.port _ _ .take).send i _

theorem State.raiseDue_moves (s : State) (i : Slot) (b : BreakRecord) (due : Option ReturnReport) :
    Moves s (s.raiseDue i b due) := by
  unfold State.raiseDue
  split
  · exact s.raiseBreak_moves i _ _ _
  · exact .start

theorem State.returnFromWait_moves (s : State) (i : Slot) (cell : StreamCell) : Moves s (s.returnFromWait i cell) := by
  refine Moves.chan ?_ i _ (by intro c; exact ⟨rfl, rfl, rfl, rfl, id⟩)
  have h : Moves s ((s.modChan i Channel.markCut).send i cell) := (Moves.start.chan i _ Channel.markCut_keeps).send i _
  split
  · exact ((h.trans (State.releasePort_moves _ i _)).chan i _ (by intro c; exact ⟨rfl, rfl, rfl, rfl, id⟩)).trans
      (State.raiseDue_moves _ i _ _)
  · exact h

theorem State.outputReturnWait_moves (s : State) (i : Slot) (cell : StreamCell) : Moves s (s.outputReturnWait i cell) := by
  unfold State.outputReturnWait
  split
  · exact s.returnFromWait_moves i cell
  · exact s.sendFill_moves i

theorem State.rejoinCut_moves (s : State) (i : Slot) (b : BreakRecord) (head : StreamCell) : Moves s (s.rejoinCut i b head) :=
  (((Moves.start.port _ _ .takeAtCut).chan i _ (by intro c; exact ⟨rfl, rfl, rfl, rfl, fun _ => rfl⟩)).send i _).trans
    (State.raiseBreak_moves _ i _ _ _)

theorem State.outputRejoinWait_moves (s : State) (i : Slot) (cell : StreamCell) : Moves s (s.outputRejoinWait i cell) := by
  unfold State.outputRejoinWait
  split
  · exact s.sendFill_moves i
  split
  · exact s.returnCut_moves i _ _
  split
  · exact s.sendFill_moves i
  split
  · split
    · exact s.truncate_moves i _
    · exact s.rejoinCut_moves i _ _
  · exact s.sendFill_moves i

theorem State.judgeRejoinLimit_moves (s : State) (i : Slot) (t : Time) : Moves s (s.judgeRejoinLimit i t) := by
  simp only [State.judgeRejoinLimit]
  split
  · split
    · exact ((s.raiseBreak_moves i _ _ _).trans (State.drainPort_moves _ i _)).chan i _ (by intro c; exact c.enterReturnWait_keeps _ _)
    · exact .start
  · exact .start

theorem State.evaluateRejoin_moves (s : State) (i : Slot) (b : BreakRecord) : Moves s (s.evaluateRejoin i b) := by
  simp only [State.evaluateRejoin]
  split
  · exact (Moves.start.port _ _ fun q => .goLive q i).chan i _ (by intro c; exact ⟨rfl, rfl, rfl, rfl, id⟩)
  · exact ((s.raiseBreak_moves i _ _ _).trans (State.releasePort_moves _ i _)).chan i _ (by intro c; exact ⟨rfl, rfl, rfl, rfl, id⟩)

/-! ## Alerts (chapter 6) -/

theorem State.leaveSet_moves (s : State) (i : Slot) (a : Ident) : Moves s (s.leaveSet i a) := Moves.start.table _

theorem State.joinSet_moves (s : State) (i : Slot) (a : Ident) : Moves s (s.joinSet i a) := Moves.start.table _

theorem State.setHold_moves (s : State) (i : Slot) (h : List Record) : Moves s (s.setHold i h) :=
  Moves.start.chan i _ (by intro c; exact ⟨rfl, rfl, rfl, rfl, id⟩)

theorem State.shed_moves (s : State) (i : Slot) (r : Record) : Moves s (s.shed i r) := by
  cases r with
  | brk b => exact (s.raiseBreak_moves i _ _ _).trans (State.releasePort_moves _ i _)
  | alert a => exact s.leaveSet_moves i _

theorem State.place_moves (s : State) (i : Slot) (r : Record) : Moves s (s.place i r).2 := by
  unfold State.place
  split
  · exact s.setHold_moves i _
  split
  · split
    · exact (s.setHold_moves i _).trans (State.shed_moves _ i _)
    · exact .start
  · exact .start

theorem State.awaitAlert_moves (s : State) (i : Slot) (a : AlertRef) : Moves s (s.awaitAlert i a) :=
  Moves.start.chan i _ (by intro c; exact ⟨rfl, rfl, rfl, rfl, id⟩)

theorem State.releaseChannel_moves (s : State) (i : Slot) : Moves s (s.releaseChannel i) := by
  simp only [State.releaseChannel]
  have h : Moves s (s.modChan i Channel.dropActiveAlert) := Moves.start.chan i _ (by intro c; exact ⟨rfl, rfl, rfl, rfl, id⟩)
  split
  · exact h.chan i _ (by intro c; exact c.enterReturnWait_keeps _ _)
  · exact h.trans (State.awaitAlert_moves _ i _)
  · exact h.trans (State.evaluateRejoin_moves _ i _)

theorem State.holdBreak_moves (s : State) (i : Slot) (b : BreakRecord) : Moves s (s.holdBreak i b) :=
  (((Moves.start.chan i _ (by intro c; exact ⟨rfl, rfl, rfl, rfl, id⟩)).trans (State.place_moves _ i _)).trans
    (State.drainPort_moves _ i _)).trans (State.raiseBreak_moves _ i _ _ _)

theorem State.preemptReturnWait_moves (s : State) (i : Slot) (b : BreakRecord) : Moves s (s.preemptReturnWait i b) := by
  simp only [State.preemptReturnWait]
  refine Moves.chan (Moves.trans ?_ (State.releasePort_moves _ i _)) i _ (by intro c; exact ⟨rfl, rfl, rfl, rfl, id⟩)
  split
  · exact s.raiseBreak_moves i _ _ _
  · exact .start

theorem State.setAside_moves (s : State) (i : Slot) : Moves s (s.setAside i) := by
  simp only [State.setAside]
  split
  · exact .start
  · split
    · exact s.missEntry_moves i _ _
    · exact .start
  · split
    · exact s.holdBreak_moves i _
    · exact .start
  · split
    · exact s.holdBreak_moves i _
    · exact .start
  · split
    · exact s.preemptReturnWait_moves i _
    · exact .start
  all_goals
    split
    · exact (Moves.start.chan i _ (by intro c; exact ⟨rfl, rfl, rfl, rfl, id⟩)).trans (State.place_moves _ i _)
    · exact .start
    · exact .start

theorem State.preempt_moves (s : State) (i : Slot) (a : AlertRef) : Moves s (s.preempt i a) :=
  (s.setAside_moves i).trans (State.awaitAlert_moves _ i a)

theorem State.offerAlert_moves (s : State) (a : AlertRef) (i : Slot) : Moves s (s.offerAlert a i) := by
  simp only [State.offerAlert]
  split
  · exact (s.preempt_moves i a).trans (State.joinSet_moves _ i _)
  · split
    · exact (s.place_moves i _).trans (State.joinSet_moves _ i _)
    · exact s.place_moves i _

theorem State.giveUp_moves (s : State) (a : Ident) (i : Slot) : Moves s (s.giveUp a i) := by
  unfold State.giveUp
  split
  · exact s.releaseChannel_moves i
  · exact Moves.start.chan i _ (by intro c; exact ⟨rfl, rfl, rfl, rfl, id⟩)

theorem State.endAlert_moves (s : State) (r : AlertRecord) (reason : AlertReason) : Moves s (s.endAlert r reason) :=
  ((Moves.foldl _ (fun s i => s.giveUp_moves r.alertId i) _ s).table _).offer _

theorem State.alertCut_moves (s : State) (i : Slot) (a : AlertRef) (reader : Reader) (cell : StreamCell) :
    Moves s (s.alertCut i a reader cell) :=
  (Moves.start.chan i _ (by intro c; exact ⟨rfl, rfl, rfl, rfl, fun _ => rfl⟩)).send i _

theorem State.outputWaiting_moves (s : State) (i : Slot) (cell : StreamCell) : Moves s (s.outputWaiting i cell) := by
  unfold State.outputWaiting
  split
  · exact Moves.start.send i _
  · exact s.sendFill_moves i

theorem State.outputAlertWait_moves (s : State) (i : Slot) (cell : StreamCell) : Moves s (s.outputAlertWait i cell) := by
  simp only [State.outputAlertWait]
  split
  · split
    · exact s.alertCut_moves i _ _ _
    · exact s.outputWaiting_moves i cell
  · exact s.outputWaiting_moves i cell

theorem State.outputAlert_moves (s : State) (i : Slot) : Moves s (s.outputAlert i) := by
  simp only [State.outputAlert]
  split
  · split
    · exact (Moves.start.chan i _ (by intro c; exact ⟨rfl, rfl, rfl, rfl, id⟩)).send i _
    · exact s.sendFill_moves i
  · exact s.sendFill_moves i

theorem State.judgeStarvation_moves (s : State) (i : Slot) (t : Time) : Moves s (s.judgeStarvation i t) := by
  unfold State.judgeStarvation
  split
  · exact Moves.start.chan i _ (by intro c; exact ⟨rfl, rfl, rfl, rfl, id⟩)
  · exact .start

/-! ## The slot event (R42) -/

theorem State.output_moves (s : State) (i : Slot) (cell : StreamCell) : Moves s (s.output i cell) := by
  unfold State.output
  split
  · exact Moves.start.send i _
  · exact s.outputCutWait_moves i cell
  · exact s.outputBreak_moves i cell
  · exact s.outputReturnWait_moves i cell
  · exact s.outputRejoinWait_moves i cell
  · exact s.outputAlertWait_moves i cell
  · exact s.outputAlert_moves i

theorem State.beforeOutput_moves (s : State) (i : Slot) (t : Time) (cell : StreamCell) : Moves s (s.beforeOutput i t cell) :=
  (((s.clockStep_moves i t cell).trans (State.judgeRejoinLimit_moves _ i t)).trans (State.judgeStarvation_moves _ i t)).trans
    (State.cueStep_moves _ i t)

theorem State.slotEvent_moves (s : State) (i : Slot) (t : Time) (cell : StreamCell) : Moves s (s.slotEvent i t cell) :=
  (s.beforeOutput_moves i t cell).trans (State.output_moves _ i cell)

/-! ## Commands of the cue list and the alert unit -/

theorem State.takeCue_moves (s : State) (f : CueFields) : Moves s (s.takeCue f) := by
  unfold State.takeCue
  split
  · split
    · exact (Moves.start.chan _ _ (by intro c; exact ⟨rfl, rfl, rfl, rfl, id⟩)).decide _
    · exact Moves.start.decide _
  · exact Moves.start.decide _
  · exact Moves.start.decide _
  · exact Moves.start.decide _
  · exact .start

theorem State.cancelActive_moves (s : State) (i : Slot) (b : BreakRecord) : Moves s (s.cancelActive i b) := by
  simp only [State.cancelActive]
  split
  · exact (s.drainTruncating_moves i _).chan i _ (by intro c; exact c.enterReturnWait_keeps _ _)
  · exact (s.drainPort_moves i _).chan i _ (by intro c; exact c.enterReturnWait_keeps _ _)
  · exact Moves.start.chan i _ (by intro c; exact c.enterReturnWait_keeps _ _)
  all_goals exact .start

theorem State.cancelBreak_moves (s : State) (i : Slot) (b : BreakRecord) : Moves s (s.cancelBreak i b) := by
  unfold State.cancelBreak
  split
  · exact s.cancelActive_moves i b
  · exact (s.removeHeldBreak_moves i b).trans (State.raiseBreak_moves _ i _ _ _)

theorem State.cancelCue_moves (s : State) (id : Ident) : Moves s (s.cancelCue id) := by
  unfold State.cancelCue
  split
  · exact (s.withdrawEntry_moves _ _ _).decide _
  · split
    · exact (s.cancelBreak_moves _ _).decide _
    · exact Moves.start.decide _

theorem State.takeCancel_moves (s : State) (id : Ident) : Moves s (s.takeCancel id) := by
  unfold State.takeCancel
  split <;> first | exact s.cancelCue_moves id | exact Moves.start.decide _ | exact .start

theorem State.peerCutIn_moves (s : State) (i : Slot) (x : Time) (e : CueEntry) : Moves s (s.peerCutIn i x e) := by
  simp only [State.peerCutIn]
  split
  · exact Moves.start.chan i _ (by intro c; exact ⟨rfl, rfl, rfl, rfl, id⟩)
  · exact s.withdrawEntry_moves i _ e

theorem State.reactToCut_moves (s : State) (i : Slot) (k : Option CutKind) (x : Time) (e : CueEntry) :
    Moves s (s.reactToCut i k x e) := by
  unfold State.reactToCut
  split <;> first | exact s.peerCutIn_moves i x e | exact s.withdrawEntry_moves i _ e | exact .start

theorem State.reactById_moves (s : State) (i : Slot) (src : Byte) (id : Ident) (k : Option CutKind) (x : Time) (own : Ident) :
    Moves s (s.reactById i src id k x own) := by
  unfold State.reactById
  split
  · exact s.reactToCut_moves i k x _
  · exact .start

theorem State.matchCut_moves (s : State) (src : Byte) (id : Ident) (k : Option CutKind) (x : Time) :
    Moves s (s.matchCut src id k x) :=
  Moves.foldl _ (fun s i => Moves.foldl _ (fun s own => s.reactById_moves i src id k x own) _ s) _ s

theorem State.judgeDeadline_moves (s : State) (id : Ident) (t : Time) : Moves s (s.judgeDeadline id t) := by
  unfold State.judgeDeadline
  split
  · split
    · exact s.withdrawEntry_moves _ _ _
    · exact .start
  · exact .start

theorem State.answerNumber_moves (s : State) (b : Bool) (n : Nat) : Moves s (s.answerNumber b n) := by
  unfold State.answerNumber
  split
  · exact Moves.start.decide _
  · exact .start

theorem State.overrideAlert_moves (s : State) (f : AlertOnFields) (src : Byte) (w : RegionWindow) :
    Moves s (s.overrideAlert f src w) :=
  (((Moves.start.table _).trans (Moves.foldl _ (fun s i => s.offerAlert_moves _ i) _ _)).offer _).trans
    (State.answerNumber_moves _ _ _)

theorem State.newAlert_moves (s : State) (f : AlertOnFields) (src : Byte) : Moves s (s.newAlert f src) := by
  unfold State.newAlert
  split
  · exact .start
  split
  · exact Moves.start.offer _
  split
  · exact ((Moves.start.table _).offer _).trans (State.answerNumber_moves _ _ _)
  · exact s.overrideAlert_moves f src _

theorem State.considerAlertOff_moves (s : State) (a : Ident) (n : Nat) : Moves s (s.considerAlertOff a n) := by
  unfold State.considerAlertOff
  split
  · exact (s.endAlert_moves _ _).trans (State.answerNumber_moves _ _ _)
  · exact .start

theorem State.judgeAlertLimit_moves (s : State) (a : Ident) (t : Time) : Moves s (s.judgeAlertLimit a t) := by
  unfold State.judgeAlertLimit
  split
  · split
    · exact s.endAlert_moves _ _
    · exact .start
  · exact .start

end Sys2Proof.Machine
end

