-- ==== Sys2Proof/Laws/Kept.lean ====
section
/-!
SUPPORT. What every chain of moves leaves as it was, and what each kind of move does to the part of the state it touches: the
insert ports (R5 to R11) and the transmit queue (R137, R138).
-/
namespace Sys2Proof.Machine

/-! ## The frame of a chain of moves -/

/-- The part of the state that no move touches stays as it was; of the line interface, the receive state, the queue and the drop
count may change. -/
theorem Moves.frame {s s' : State} (h : Moves s s') :
    s' = { s with channels := s'.channels, ports := s'.ports, alerts := s'.alerts, sout := s'.sout,
                  line := { s.line with rx := s'.line.rx, queue := s'.line.queue, drops := s'.line.drops } } := by
  induction h with
  | start => rfl
  | chan _ i f _ ih => rw [ih]; rfl
  | port _ p f _ ih => rw [ih]; rfl
  | offer _ r ih =>
    rw [ih]
    simp only [State.offer]
    split
    · simp only [State.setLine, LineInterface.offer]
      split
      · rfl
      · split
        · split <;> rfl
        · rfl
    · rfl
  | table _ a ih => rw [ih]
  | decide _ d ih =>
    rw [ih]
    simp only [State.setDecision]
    split <;> rfl
  | send _ i c ih => rw [ih]; rfl

/-- No move changes the rights, the fixed flag or the start gate of a channel, or clears its activity latch. -/
theorem Moves.keeps_channel {s s' : State} (h : Moves s s') (i : Slot) :
    (s'.chan i).rights = (s.chan i).rights ∧ (s'.chan i).fixed = (s.chan i).fixed ∧
    (s'.chan i).gateOpen = (s.chan i).gateOpen ∧ ((s.chan i).activity = true → (s'.chan i).activity = true) := by
  induction h with
  | start => exact ⟨rfl, rfl, rfl, id⟩
  | @chan u _ j f hf ih =>
    obtain ⟨h1, h2, h3, h4⟩ := ih
    rw [State.modChan_chan]
    split
    · have k := hf (u.chan i)
      exact ⟨k.rights.trans h1, k.fixed.trans h2, k.gate.trans h3, fun a => k.activity (h4 a)⟩
    · exact ⟨h1, h2, h3, h4⟩
  | port _ p f _ ih => simpa using ih
  | offer _ r ih =>
    simp only [State.offer]
    split
    · simpa using ih
    · exact ih
  | table _ a ih => exact ih
  | decide _ d ih =>
    simp only [State.setDecision]
    split
    · simpa using ih
    all_goals exact ih
  | @send u _ j c ih =>
    by_cases e : i = j
    · subst e
      rw [State.send_chan_same]
      exact ih
    · rw [State.send_chan_ne _ _ e]
      exact ih

/-! ## Insert ports -/

theorem InsertPort.setQueue_queue (q : InsertPort) (l : List StreamCell) : (q.setQueue l).queue = l := rfl

/-- HOLD follows the depth of a new queue (R6). -/
theorem InsertPort.setQueue_holdPin (q : InsertPort) (l : List StreamCell) : Safety.HoldPinLaw (q.setQueue l) := by
  simp only [Safety.HoldPinLaw, InsertPort.setQueue, holdLevel, holdAssertDepth, holdReleaseDepth]
  constructor
  · intro h
    simp [h]
  · intro h
    have : ¬ 40 ≤ l.length := by omega
    simp [h, this]

theorem seekHead_length (l : List StreamCell) : (seekHead l).length ≤ l.length :=
  (List.dropWhile_sublist _).length_le

/-- After a head inspection the head is an eligible unit start, or the queue is empty (R7). -/
theorem seekHead_head (l : List StreamCell) : ∀ c ∈ (seekHead l).head?, isUnitStart c = true := by
  intro c hc
  have h := List.head?_dropWhile_not (fun c => !isUnitStart c) l
  simp only [seekHead] at hc
  rw [Option.mem_def] at hc
  rw [hc] at h
  simpa using h

/-- What a head inspection does: the port is left alone, or, while seeking, the cells before the first eligible unit start are
counted as drained (R7). -/
theorem InsertPort.inspect_spec (q : InsertPort) :
    (q.seeking = false ∧ q.inspect = q) ∨
    (q.seeking = true ∧ q.inspect.queue = seekHead q.queue ∧ q.inspect.mode = q.mode ∧ q.inspect.owner = q.owner ∧
      q.inspect.seeking = true ∧
      q.inspect.drained = countAdd q.drained (q.queue.length - (seekHead q.queue).length)) := by
  unfold InsertPort.inspect
  split
  · rename_i h
    exact .inr ⟨h, rfl, rfl, rfl, h, rfl⟩
  · rename_i h
    exact .inl ⟨by simpa using h, rfl⟩

theorem InsertPort.inspect_holdPin {q : InsertPort} (h : Safety.HoldPinLaw q) : Safety.HoldPinLaw q.inspect := by
  unfold InsertPort.inspect
  split
  · exact q.setQueue_holdPin _
  · exact h

/-- Every request to an insert port keeps its HOLD law (R6). -/
theorem PortMove.keeps_holdPin {q q' : InsertPort} (m : PortMove q q') (h : Safety.HoldPinLaw q) : Safety.HoldPinLaw q' := by
  cases m with
  | grant i => exact InsertPort.inspect_holdPin (q := { q with mode := .reserved, owner := some i, seeking := true }) h
  | take => exact InsertPort.inspect_holdPin (q.setQueue_holdPin _)
  | takeAtCut => exact q.setQueue_holdPin _
  | goLive i =>
    unfold InsertPort.goLive
    split
    · split
      · exact q.setQueue_holdPin _
      all_goals exact h
    · exact h
  | drain i =>
    unfold InsertPort.drain
    split
    · exact q.setQueue_holdPin []
    · exact h
  | freed => exact q.setQueue_holdPin []

/-- Every request to an insert port keeps the law of the port (section 1.3). -/
theorem PortMove.keeps_law {q q' : InsertPort} (m : PortMove q q') (h : Safety.PortLaw q) : Safety.PortLaw q' := by
  obtain ⟨h1, h2, h3, h4, h5⟩ := h
  cases m with
  | grant i =>
    refine ⟨by simp [InsertPort.grant, InsertPort.inspect, InsertPort.setQueue], ?_, ?_, ?_, ?_⟩
    · have := seekHead_length q.queue
      simp only [InsertPort.grant, InsertPort.inspect, InsertPort.setQueue, if_true]
      omega
    · simp [InsertPort.grant, InsertPort.inspect, InsertPort.setQueue]
    · simp [InsertPort.grant, InsertPort.inspect, InsertPort.setQueue]
    · intro _
      exact seekHead_head q.queue
  | take =>
    unfold InsertPort.take
    have hl : q.queue.tail.length ≤ 48 := by
      simp only [List.length_tail]
      omega
    rcases (q.setQueue q.queue.tail).inspect_spec with ⟨hs, he⟩ | ⟨hs, hq, hm, ho, hk, _⟩
    · rw [he]
      refine ⟨h1, hl, fun d => by simp [InsertPort.setQueue, h3 d], h4, fun k => ?_⟩
      rw [hs] at k
      exact absurd k (by decide)
    · refine ⟨by rw [hm, ho]; exact h1, ?_, fun d => ?_, fun _ => ?_, fun _ => ?_⟩
      · rw [hq]
        exact (seekHead_length _).trans hl
      · rw [hm] at d
        have : q.queue = [] := h3 d
        rw [hq]
        simp [InsertPort.setQueue, this, seekHead]
      · rw [hm]
        exact h4 hs
      · rw [hq]
        exact seekHead_head _
  | takeAtCut =>
    refine ⟨h1, ?_, fun d => ?_, fun k => ?_, fun k => ?_⟩
    · simp only [InsertPort.takeAtCut, InsertPort.setQueue, List.length_tail]
      omega
    · have : q.queue = [] := h3 d
      simp [InsertPort.takeAtCut, InsertPort.setQueue, this]
    · exact absurd k (by simp [InsertPort.takeAtCut])
    · exact absurd k (by simp [InsertPort.takeAtCut])
  | goLive i =>
    unfold InsertPort.goLive
    split
    · rename_i ho
      split
      · refine ⟨by simp [InsertPort.takeAtCut, InsertPort.setQueue, ho], ?_, ?_, ?_, ?_⟩
        · simp only [InsertPort.takeAtCut, InsertPort.setQueue, List.length_tail]
          omega
        all_goals simp [InsertPort.takeAtCut]
      · rename_i hm
        refine ⟨by simp [ho], h2, by simp, by simp, fun _ => ?_⟩
        simp [h3 hm]
      all_goals exact ⟨h1, h2, h3, h4, h5⟩
    · exact ⟨h1, h2, h3, h4, h5⟩
  | drain i =>
    unfold InsertPort.drain
    split
    · rename_i hd
      simp only [InsertPort.drains, Bool.and_eq_true, beq_iff_eq] at hd
      exact ⟨by simp [InsertPort.flush, InsertPort.setQueue, hd.1], by simp [InsertPort.flush, InsertPort.setQueue],
        fun _ => rfl, by simp [InsertPort.flush], by simp [InsertPort.flush]⟩
    · exact ⟨h1, h2, h3, h4, h5⟩
  | freed =>
    exact ⟨by simp [InsertPort.freed], by simp [InsertPort.freed, InsertPort.flush, InsertPort.setQueue],
      fun _ => rfl, by simp [InsertPort.freed, InsertPort.flush], by simp [InsertPort.freed, InsertPort.flush]⟩

/-- The port after a release, before the arbiter runs (steps 1 to 4 of R10). -/
theorem InsertPort.freed_spec (q : InsertPort) :
    q.freed.queue = [] ∧ q.freed.hold = false ∧ q.freed.seeking = false ∧ q.freed.mode = .free ∧ q.freed.owner = none ∧
    q.freed.drained = countAdd q.drained q.queue.length ∧ q.freed.overflow = q.overflow ∧ q.freed.markErrors = q.markErrors :=
  ⟨rfl, rfl, rfl, rfl, rfl, rfl, rfl, rfl⟩

/-! ## The transmit queue -/

/-- Placing a frame adds it and keeps every other (R137). -/
theorem placeFrame_perm (f : TxFrame) (l : List TxFrame) : (placeFrame f l).Perm (f :: l) := by
  induction l with
  | nil => exact .refl _
  | cons g rest ih =>
    unfold placeFrame
    split
    · exact (ih.cons g).trans (.swap f g rest)
    · exact .refl _

theorem placeFrame_length (f : TxFrame) (l : List TxFrame) : (placeFrame f l).length = l.length + 1 := by
  simpa using (placeFrame_perm f l).length_eq

theorem mem_placeFrame {f g : TxFrame} {l : List TxFrame} : g ∈ placeFrame f l ↔ g = f ∨ g ∈ l := by
  simpa using (placeFrame_perm f l).mem_iff (a := g)

/-- A frame is placed behind the frames of the same or a lower priority number and before the others (R137). -/
theorem placeFrame_sorted (f : TxFrame) (l : List TxFrame)
    (h : l.Pairwise fun a b => a.report.priority ≤ b.report.priority) :
    (placeFrame f l).Pairwise fun a b => a.report.priority ≤ b.report.priority := by
  induction l with
  | nil => simp [placeFrame]
  | cons g rest ih =>
    rw [List.pairwise_cons] at h
    unfold placeFrame
    split
    · rename_i hg
      refine List.pairwise_cons.mpr ⟨fun b hb => ?_, ih h.2⟩
      rcases mem_placeFrame.mp hb with rfl | hb
      · exact hg
      · exact h.1 b hb
    · rename_i hg
      have hg' : f.report.priority ≤ g.report.priority := by
        exact BitVec.le_of_lt (BitVec.not_le.mp hg)
      refine List.pairwise_cons.mpr ⟨fun b hb => ?_, List.pairwise_cons.mpr h⟩
      rcases List.mem_cons.mp hb with rfl | hb
      · exact hg'
      · have := h.1 b hb
        simp only [BitVec.le_def] at this hg' ⊢
        omega

/-- The priority that R138 finds belongs to a frame that is not in flight. -/
theorem lowestPriority_mem {q : List TxFrame} {p : BitVec 3} (h : lowestPriority q = some p) :
    ∃ g ∈ q, g.inFlight = false ∧ g.report.priority = p := by
  suffices ∀ (l : List TxFrame) (m : Option (BitVec 3)),
      l.foldl (fun m g => match m with
        | none => some g.report.priority
        | some p => some (if p < g.report.priority then g.report.priority else p)) m = some p →
      m = some p ∨ ∃ g ∈ l, g.report.priority = p by
    rcases this _ none h with h | ⟨g, hg, e⟩
    · exact absurd h (by simp)
    · rw [List.mem_filter] at hg
      exact ⟨g, hg.1, by simpa using hg.2, e⟩
  intro l
  induction l with
  | nil => exact fun m h => .inl h
  | cons g l ih =>
    intro m h
    rw [List.foldl_cons] at h
    rcases ih _ h with h | ⟨g', hg', e⟩
    · cases m with
      | none => exact .inr ⟨g, by simp, by simpa using h⟩
      | some x =>
        simp only [Option.some.injEq] at h
        split at h
        · exact .inr ⟨g, by simp, h⟩
        · exact .inl (by rw [h])
    · exact .inr ⟨g', by simp [hg'], e⟩

/-- Displacing a frame of the priority that R138 finds takes one frame, not in flight, out of the queue. -/
theorem displaceFrame_length {q : List TxFrame} {p : BitVec 3} (h : lowestPriority q = some p) :
    (displaceFrame p q).length + 1 = q.length := by
  obtain ⟨g, hg, hf, hp⟩ := lowestPriority_mem h
  have := List.length_eraseP_add_one (p := fun g : TxFrame => !g.inFlight && g.report.priority == p) hg (by simp [hf, hp])
  simpa [displaceFrame] using this

/-- Everything that an offer to the transmit queue can do (R137, R138): the report joins a queue of fewer than 8 frames, or joins
one of 8 or more in place of a frame that is not in flight and of lower priority, or is dropped; the last two are counted. -/
theorem LineInterface.offer_cases (l : LineInterface) (r : Report) :
    (l.queue.length < 8 ∧ l.offer r = { l with queue := placeFrame (.ofReport r) l.queue }) ∨
    (∃ p, ¬ l.queue.length < 8 ∧ lowestPriority l.queue = some p ∧ r.priority < p ∧
      l.offer r = { l with queue := placeFrame (.ofReport r) (displaceFrame p l.queue), drops := countUp l.drops }) ∨
    (¬ l.queue.length < 8 ∧ (∀ p, lowestPriority l.queue = some p → ¬ r.priority < p) ∧
      l.offer r = { l with drops := countUp l.drops }) := by
  by_cases h : l.queue.length < 8
  · exact .inl ⟨h, by simp [LineInterface.offer, txQueueLimit, h]⟩
  · cases hp : lowestPriority l.queue with
    | none => exact .inr (.inr ⟨h, (by intro p' h'; cases h'), by simp [LineInterface.offer, txQueueLimit, h, hp]⟩)
    | some p =>
      by_cases hr : r.priority < p
      · exact .inr (.inl ⟨p, h, rfl, hr, by simp [LineInterface.offer, txQueueLimit, h, hp, hr]⟩)
      · refine .inr (.inr ⟨h, fun p' h' => ?_, by simp [LineInterface.offer, txQueueLimit, h, hp, hr]⟩)
        cases h'
        exact hr

/-- Everything an offer of a report can do to the part: it changes the line interface alone, in SETUP and ACTIVE (R137). -/
theorem State.offer_cases (s : State) (r : Report) :
    (s.station.mayDrive = true ∧ s.offer r = s.setLine (s.line.offer r)) ∨ (s.station.mayDrive = false ∧ s.offer r = s) := by
  unfold State.offer
  split
  · rename_i h
    exact .inl ⟨h, rfl⟩
  · rename_i h
    exact .inr ⟨by simpa using h, rfl⟩

end Sys2Proof.Machine
end

