-- ==== Sys2Proof/Laws/Slot.lean ====
section
/-!
SUPPORT. What reaches a channel unit, and the first three steps of a slot event at which nothing falls due (R3, R4, R42).
-/
namespace Sys2Proof.Machine

open Sys2Proof.Safety

/-! ## Updates of one channel -/

theorem State.setChan_setChan (s : State) (i : Slot) (c d : Channel) : (s.setChan i c).setChan i d = s.setChan i d := by
  simp [State.setChan, Vector.set_set]

theorem State.modChan_of_eq (s : State) (i : Slot) (f : Channel → Channel) (h : f (s.chan i) = s.chan i) :
    s.modChan i f = s := by
  simp only [State.modChan, h, State.setChan_self]

theorem State.modPort_of_eq (s : State) (p : PortId) (f : InsertPort → InsertPort) (h : f (s.port p) = s.port p) :
    s.modPort p f = s := by
  simp only [State.modPort, h]
  simp [State.setPort, State.port]

/-- A sent cell is one more cell on the output and a channel whose count has advanced (R15, R43). -/
theorem State.send_eq (s : State) (i : Slot) (c : StreamCell) :
    s.send i c = { s.setChan i { s.chan i with outSeq := (s.chan i).outSeq + 1, discDue := false } with
      sout := s.sout ++ [s.rewrite i c] } := rfl

/-- A channel is changed and sends a cell: one update of the channel and one cell on the output (R15, R43). -/
theorem State.modChan_send (s : State) (i : Slot) (f : Channel → Channel) (c : StreamCell) :
    (s.modChan i f).send i c =
      { s.setChan i { f (s.chan i) with outSeq := (f (s.chan i)).outSeq + 1, discDue := false } with
        sout := s.sout ++ [{ c with mark := cellMark, tag := s.tagOf i, seq := (f (s.chan i)).outSeq,
                                    disc := c.disc || (f (s.chan i)).discDue }] } := by
  rw [State.send_eq, State.rewrite]
  simp only [State.modChan_chan_same]
  rw [State.modChan, State.setChan_setChan]
  rfl

/-- The state after a slot event at t that changes the channel record and sends a cell. -/
theorem State.modChan_send_slotDone (s : State) (t : Time) (i : Slot) (g f : Channel → Channel) (c : StreamCell) :
    (((s.atTime t).modChan i g).modChan i f).send i c =
      slotDone s t i { f (g (s.chan i)) with outSeq := (f (g (s.chan i))).outSeq + 1, discDue := false }
        { c with mark := cellMark, tag := s.tagOf i, seq := (f (g (s.chan i))).outSeq,
                 disc := c.disc || (f (g (s.chan i))).discDue } := by
  rw [State.modChan_send, State.modChan_chan_same, State.modChan, State.setChan_setChan]
  rfl

/-! ## The tag of a slot (R3) -/

theorem State.tagOf_toNat (s : State) (i : Slot) : (s.tagOf i).toNat = s.blockBase.toNat * 16 + i.val := by
  have h := i.isLt
  unfold State.tagOf
  rw [BitVec.toNat_append, BitVec.toNat_ofNat, Nat.mod_eq_of_lt (by omega), ← Nat.shiftLeft_add_eq_or_of_lt (by omega),
    Nat.shiftLeft_eq]

theorem slotOfTag_val (tag : BitVec 12) : (slotOfTag tag).val = tag.toNat % 16 := by
  unfold slotOfTag
  rw [BitVec.val_toFin, BitVec.extractLsb'_toNat]
  simp

theorem slotOfTag_tagOf (s : State) (i : Slot) : slotOfTag (s.tagOf i) = i := by
  apply Fin.ext
  have := i.isLt
  rw [slotOfTag_val, State.tagOf_toNat]
  omega

/-- A tag is the tag of a slot of the station exactly when its upper eight bits are the block base (R3). -/
theorem State.ownsTag_iff (s : State) (tag : BitVec 12) : s.ownsTag tag = true ↔ ∃ i : Slot, tag = s.tagOf i := by
  have e : s.ownsTag tag = true ↔ tag.toNat / 16 = s.blockBase.toNat := by
    rw [State.ownsTag, beq_iff_eq, ← BitVec.toNat_inj, BitVec.extractLsb'_toNat, Nat.shiftRight_eq_div_pow]
    have := tag.isLt
    constructor <;> intro h <;> omega
  rw [e]
  constructor
  · intro h
    refine ⟨slotOfTag tag, BitVec.eq_of_toNat_eq ?_⟩
    rw [State.tagOf_toNat, slotOfTag_val]
    omega
  · rintro ⟨i, rfl⟩
    have := i.isLt
    rw [State.tagOf_toNat]
    omega

theorem State.ownsTag_tagOf (s : State) (i : Slot) : s.ownsTag (s.tagOf i) = true := (s.ownsTag_iff _).mpr ⟨i, rfl⟩

theorem State.take_of_not_held {s : State} (h : s.isHeld = false) (t : Time) (f : State → State) :
    s.take t f = .next (f (s.atTime t)) := by
  simp [State.take, h]

/-- A cell that reaches its channel unit is one slot event, behind an open gate (R3, R4). -/
theorem State.networkCell_of_reaches {s : State} {t : Time} {i : Slot} {cell : StreamCell} (h : Reaches s i cell) :
    (s.atTime t).networkCell t cell =
      ((s.atTime t).modChan i fun c => { c with gateOpen := true }).slotEvent i t cell := by
  obtain ⟨-, h2, h3, h4, h5, h6⟩ := h
  have e1 : (s.atTime t).ownsTag cell.tag = true := by
    rw [h4]
    exact s.ownsTag_tagOf i
  have e2 : slotOfTag cell.tag = i := by
    rw [h4]
    exact slotOfTag_tagOf s i
  have e3 : (s.atTime t).gatePasses i cell = true := by
    rcases h6 with g | ⟨a, b⟩
    · simp [State.gatePasses, g]
    · simp [State.gatePasses, isUnitStart, a, b]
  have e4 : (s.atTime t).station ≠ .strapFault := h2
  rw [State.networkCell, if_neg (by simp [h3]), if_neg h5, if_neg e4, if_pos e1, e2, State.startGate, if_pos e3]

theorem exec_networkCellArrival_of_reaches {s : State} {t : Time} {i : Slot} {cell : StreamCell} (h : Reaches s i cell) :
    exec (.networkCellArrival t cell) s =
      .next (((s.atTime t).modChan i fun c => { c with gateOpen := true }).slotEvent i t cell) := by
  simp only [exec, execNetworkCellArrival]
  rw [State.take_of_not_held h.1, State.networkCell_of_reaches h]

/-! ## A slot event at which nothing falls due -/

theorem Clock.agrees_iff (k : Clock) (x t : Time) (disc : Bool) :
    k.agrees x t disc = true ↔ (signed x (k.predict t)).natAbs ≤ 100000 ∧ disc = false := by
  unfold Clock.agrees jumpLimit
  rw [Bool.and_eq_true, decide_eq_true_iff, Bool.not_eq_true']
  exact Iff.rfl

theorem limitPassed_iff (t since : Time) (limit : Nat) : limitPassed t since limit = true ↔ limit < (t - since).toNat := by
  unfold limitPassed elapsed diff
  rw [decide_eq_true_iff]

theorem limitPassed_false (t since : Time) (limit : Nat) : limitPassed t since limit = false ↔ (t - since).toNat ≤ limit := by
  rw [← Bool.not_eq_true, limitPassed_iff, Nat.not_lt]

theorem Clock.silent_iff (k : Clock) (t : Time) :
    k.silent t = true ↔ k.state ≠ .noClock ∧ 2000000 < (t - k.lastTime).toNat := by
  unfold Clock.silent limitPassed silenceLimit elapsed diff
  rw [Bool.and_eq_true, decide_eq_true_iff, bne_iff_ne]

/-- The stamp arrival of a cell that is no jump moves the clock alone (R22 to R24). -/
theorem State.stampArrival_of_noJump {s : State} {i : Slot} {t : Time} {cell : StreamCell} (hs : cell.stamp = true)
    (h : (s.chan i).clock.state = .locked → (s.chan i).clock.agrees cell.time t cell.disc = true) :
    s.stampArrival i cell.time t cell.disc = s.modChan i fun c => { c with clock := clockAfter c.clock t cell } := by
  cases hk : (s.chan i).clock.state with
  | noClock => simp [State.stampArrival, hk, State.modChan, Channel.takeStamp, clockAfter, hs]
  | acquiring =>
    simp only [State.stampArrival, hk, State.modChan, Channel.takeStamp, clockAfter, hs, if_true, Clock.agrees_iff]
  | locked =>
    have h' := h hk
    simp [State.stampArrival, hk, h', State.modChan, Channel.takeStamp, clockAfter, hs]

/-- The clock step of an undisturbed slot event moves the clock alone (R20). -/
theorem State.clockStep_of_undisturbed {s : State} {i : Slot} {t : Time} {cell : StreamCell}
    (hsil : (s.chan i).clock.silent t = false)
    (hj : cell.stamp = true → (s.chan i).clock.state = .locked → (s.chan i).clock.agrees cell.time t cell.disc = true)
    (hb : (s.chan i).heldBreak = none) :
    s.clockStep i t cell = s.modChan i fun c => { c with clock := clockAfter c.clock t cell } := by
  have e1 : s.judgeSilence i t = s := by simp [State.judgeSilence, hsil]
  simp only [State.clockStep, e1]
  by_cases hs : cell.stamp = true
  · rw [if_pos hs, State.stampArrival_of_noJump hs (hj hs)]
    have : ((s.modChan i fun c => { c with clock := clockAfter c.clock t cell }).chan i).heldBreak = none := by
      rw [State.modChan_chan_same]
      exact hb
    simp only [State.judgeStale, this]
  · rw [if_neg hs]
    have e2 : s.judgeStale i t = s := by simp [State.judgeStale, hb]
    rw [e2, State.modChan_of_eq]
    simp [clockAfter, hs]

/-- Step 3 of a slot event on a channel without entries does nothing (R73). -/
theorem State.cueStep_of_empty {s : State} {i : Slot} {t : Time} (h : (s.chan i).cues = []) : s.cueStep i t = s := by
  unfold State.cueStep
  split
  · rfl
  · have e1 : ∀ c, s.matureFirst i c = s := fun c => by simp [State.matureFirst, h]
    have e2 : ∀ c, s.judgeMisses i c = s := fun c => by simp [State.judgeMisses, Channel.cueIds, h]
    simp only [e1, e2, State.proceed, h]
    split <;> rfl

/-- Steps 1 to 3 of an undisturbed slot event move the clock alone, where no rejoin limit falls due and no starvation limit does
(R42). -/
theorem State.beforeOutput_of_undisturbed {s : State} {i : Slot} {t : Time} {cell : StreamCell}
    (h : Undisturbed (s.chan i) t cell)
    (hr : (s.chan i).state = .rejoinWait → limitPassed t (s.chan i).rejoinWaitTime rejoinLimit = false)
    (ha : (s.chan i).state = .alertWait → limitPassed t (s.chan i).alertWaitTime starvationLimit = false) :
    s.beforeOutput i t cell = s.modChan i fun c => { c with clock := clockAfter c.clock t cell } := by
  obtain ⟨h1, h2, h3, h4⟩ := h
  rw [State.beforeOutput, State.clockStep_of_undisturbed h1 h2 h3]
  generalize hu : (s.modChan i fun c => { c with clock := clockAfter c.clock t cell }) = u
  have hc : u.chan i = { s.chan i with clock := clockAfter (s.chan i).clock t cell } := by
    rw [← hu, State.modChan_chan_same]
  have e1 : u.judgeRejoinLimit i t = u := by
    simp only [State.judgeRejoinLimit, hc]
    split
    · split
      · rename_i hk
        exact absurd hk.2 (by simp [hr hk.1])
      · rfl
    · rfl
  have e2 : u.judgeStarvation i t = u := by
    simp only [State.judgeStarvation, hc]
    split
    · rename_i hk
      exact absurd hk.2 (by simp [ha hk.1])
    · rfl
  rw [e1, e2]
  apply State.cueStep_of_empty
  rw [hc]
  exact h4

/-! ## The output rule by channel state (step 4 of R42) -/

theorem State.output_network {s : State} {i : Slot} (h : (s.chan i).state = .network) (cell : StreamCell) :
    s.output i cell = s.send i cell := by simp only [State.output, h]
theorem State.output_cutWait {s : State} {i : Slot} (h : (s.chan i).state = .cutWait) (cell : StreamCell) :
    s.output i cell = s.outputCutWait i cell := by simp only [State.output, h]
theorem State.output_onBreak {s : State} {i : Slot} (h : (s.chan i).state = .onBreak) (cell : StreamCell) :
    s.output i cell = s.outputBreak i cell := by simp only [State.output, h]
theorem State.output_returnWait {s : State} {i : Slot} (h : (s.chan i).state = .returnWait) (cell : StreamCell) :
    s.output i cell = s.outputReturnWait i cell := by simp only [State.output, h]
theorem State.output_rejoinWait {s : State} {i : Slot} (h : (s.chan i).state = .rejoinWait) (cell : StreamCell) :
    s.output i cell = s.outputRejoinWait i cell := by simp only [State.output, h]
theorem State.output_alertWait {s : State} {i : Slot} (h : (s.chan i).state = .alertWait) (cell : StreamCell) :
    s.output i cell = s.outputAlertWait i cell := by simp only [State.output, h]
theorem State.output_alert {s : State} {i : Slot} (h : (s.chan i).state = .alert) (cell : StreamCell) :
    s.output i cell = s.outputAlert i := by simp only [State.output, h]

end Sys2Proof.Machine
end

