-- ==== Sys2Proof/Laws/Hear.lean ====
section
/-!
SUPPORT. What a frame that is heard does before its block acts (R125, R129, R140, R141), and what deciding a response does (R146).
-/
namespace Sys2Proof.Machine

open Sys2Proof.Safety

/-- The part at the end-of-data of a frame of this kind that it hears outside LISTEN: the window is open and silent. -/
theorem State.receive_of_hears {w : Nat} {s : State} {h : FrameHeader} (hear : Hears s) (hd : h.destination.toNat < 64)
    (hs : fromStation h) (hl : s.station ≠ .listen) (t : Time) (kind : FrameKind) (p : BitVec w) (act : State → State) :
    (s.atTime t).receive kind h p act = act (answered s t kind.responseType .silent) := by
  have e1 : (s.atTime t).canReceive = true := hear.2
  have e2 : headerPasses h = true := by
    obtain ⟨a, b⟩ := hs
    unfold headerPasses
    simp [hd, a, b]
  have e3 : (s.atTime t).station ≠ .listen := hl
  rw [State.receive, if_pos e1, State.noteFrame, State.noteRest, State.interruptQuiet, if_neg e3]
  simp only [e2, if_true]
  rfl

/-- The same in LISTEN, where the quiet start moves to the end of the frame's last dominant run (R163). -/
theorem State.receive_of_hears_listen {w : Nat} {s : State} {h : FrameHeader} (hear : Hears s) (hd : h.destination.toNat < 64)
    (hs : fromStation h) (hl : s.station = .listen) (t : Time) (kind : FrameKind) (p : BitVec w) (act : State → State) :
    (s.atTime t).receive kind h p act =
      act (answered { s with quietStart := frameRunEnd t (checkByte (receivedBytes kind h p)) } t kind.responseType .silent) := by
  have e1 : (s.atTime t).canReceive = true := hear.2
  have e2 : headerPasses h = true := by
    obtain ⟨a, b⟩ := hs
    unfold headerPasses
    simp [hd, a, b]
  have e3 : (s.atTime t).station = .listen := hl
  rw [State.receive, if_pos e1, State.noteFrame, State.noteRest, State.interruptQuiet, if_pos e3]
  simp only [e2, if_true]
  rfl

theorem StationNo.setWidth_toNat (n : StationNo) : (n.setWidth 8).toNat = n.toNat := by
  have := n.isLt
  rw [BitVec.toNat_setWidth, Nat.mod_eq_of_lt (by omega)]

/-- A command of ack type for this station alone, heard outside LISTEN and STRAP_FAULT, is judged with its window open. -/
theorem State.take_receive_ifOwn {w : Nat} {s : State} {h : FrameHeader} (hear : Hears s) (own : ToOwn s h)
    (hl : s.station ≠ .listen) (hf : s.station ≠ .strapFault) (t : Time) (kind : FrameKind) (p : BitVec w) (act : State → State) :
    (s.take t fun s => s.receive kind h p fun s => s.ifOwn h act) = .next (act (answered s t kind.responseType .silent)) := by
  have hd : h.destination.toNat < 64 := by
    rw [own.1, StationNo.setWidth_toNat]
    exact s.stationNumber.isLt
  rw [State.take_of_not_held hear.1, State.receive_of_hears hear hd own.2 hl]
  have e : (answered s t kind.responseType .silent).isOwnNumber h = true := by
    unfold State.isOwnNumber
    simp only [answered, Bool.and_eq_true, bne_iff_ne, beq_iff_eq]
    exact ⟨hf, own.1⟩
  rw [State.ifOwn, if_pos e]

/-- A command of group-list type that this station hears outside LISTEN and STRAP_FAULT is addressed to it. -/
theorem State.groupAddressed_of_toGroup {s : State} {h : FrameHeader} (group : ToGroup s h) (hf : s.station ≠ .strapFault) :
    s.groupAddressed h = true ∧ h.destination.toNat < 64 := by
  rcases group.1 with e | e
  · refine ⟨?_, ?_⟩
    · simp [State.groupAddressed, State.isOwnNumber, e, hf]
    · rw [e, StationNo.setWidth_toNat]
      exact s.stationNumber.isLt
  · rw [e]
    exact ⟨by simp [State.groupAddressed, e], by decide⟩

/-- Deciding a response in an open window replaces what was decided (R146). -/
theorem State.setDecision_answered (s : State) (t : Time) (type : ResponseType) (d d' : Decision) :
    (answered s t type d).setDecision d' = answered s t type d' := rfl

theorem State.answer_answered (s : State) (t : Time) (type : ResponseType) (d : Decision) (code : OutcomeCode) :
    (answered s t type d).answer code = answered s t type (.ack code) := rfl

/-- An offered report does not touch the receive state and the recessive period, and they do not touch the offer. -/
theorem LineInterface.offer_rx (l : LineInterface) (rx : RxState) (since : Time) (dominant : Bool) (r : Report) :
    ({ l with rx := rx, recessiveSince := since, dominant := dominant } : LineInterface).offer r =
      { l.offer r with rx := rx, recessiveSince := since, dominant := dominant } := by
  rcases l.offer_cases r with ⟨a, e⟩ | ⟨p, a, b, c, e⟩ | ⟨a, b, e⟩ <;> rw [e]
  · simp [LineInterface.offer, txQueueLimit, a]
  · simp [LineInterface.offer, txQueueLimit, a, b, c]
  · cases hp : lowestPriority l.queue with
    | none => simp [LineInterface.offer, txQueueLimit, a, hp]
    | some p => simp [LineInterface.offer, txQueueLimit, a, hp, b p hp]

/-- The offer of a report changes the line interface alone. -/
theorem State.offer_eq (s : State) (r : Report) : s.offer r = { s with line := (s.offer r).line } := by
  rcases s.offer_cases r with ⟨_, e⟩ | ⟨_, e⟩ <;> (rw [e]; try rfl)

theorem State.offer_line_congr {s u : State} (r : Report) (h1 : u.station = s.station) (h2 : u.line = s.line) :
    (u.offer r).line = (s.offer r).line := by
  unfold State.offer
  rw [h1, h2]
  split
  · rfl
  · exact h2

theorem State.offer_answered (s : State) (t : Time) (type : ResponseType) (d : Decision) (r : Report) :
    (answered s t type d).offer r = answered { s with line := (s.offer r).line } t type d := by
  unfold State.offer
  have : (answered s t type d).station = s.station := rfl
  rw [this]
  split
  · simp only [answered, State.setLine]
    rw [LineInterface.offer_rx]
  · rfl

end Sys2Proof.Machine
end

