-- ==== Sys2Proof/Laws/Line.lean ====
section
/-!
SUPPORT. What the operations of the line interface on the recessive period and on what the receiver measured can do, said once each
(R124 to R127, R132 to R134, R163).
-/
namespace Sys2Proof.Machine

/-! ## The recessive period -/

@[simp] theorem LineInterface.rest_rx (l : LineInterface) (t : Time) : (l.rest t).rx = l.rx := rfl
@[simp] theorem LineInterface.rest_queue (l : LineInterface) (t : Time) : (l.rest t).queue = l.queue := rfl
@[simp] theorem LineInterface.rest_transmitFault (l : LineInterface) (t : Time) : (l.rest t).transmitFault = l.transmitFault := rfl
@[simp] theorem LineInterface.rest_ownBreak (l : LineInterface) (t : Time) : (l.rest t).ownBreak = l.ownBreak := rfl
@[simp] theorem LineInterface.rest_recessiveSince (l : LineInterface) (t : Time) : (l.rest t).recessiveSince = t := rfl
@[simp] theorem LineInterface.rest_dominant (l : LineInterface) (t : Time) : (l.rest t).dominant = false := rfl
@[simp] theorem LineInterface.rest_receiveErrors (l : LineInterface) (t : Time) : (l.rest t).receiveErrors = l.receiveErrors := rfl
@[simp] theorem LineInterface.edge_rx (l : LineInterface) (t : Time) : (l.edge t).rx = l.rx := rfl
@[simp] theorem LineInterface.edge_queue (l : LineInterface) (t : Time) : (l.edge t).queue = l.queue := rfl
@[simp] theorem LineInterface.edge_transmitFault (l : LineInterface) (t : Time) : (l.edge t).transmitFault = l.transmitFault := rfl
@[simp] theorem LineInterface.edge_ownBreak (l : LineInterface) (t : Time) : (l.edge t).ownBreak = l.ownBreak := rfl
@[simp] theorem LineInterface.edge_recessiveSince (l : LineInterface) (t : Time) : (l.edge t).recessiveSince = t := rfl
@[simp] theorem LineInterface.edge_dominant (l : LineInterface) (t : Time) : (l.edge t).dominant = true := rfl
@[simp] theorem LineInterface.edge_receiveErrors (l : LineInterface) (t : Time) : (l.edge t).receiveErrors = l.receiveErrors := rfl

/-- The end of a run moves the recessive period, and the quiet start in LISTEN, and nothing else (R124, R163). -/
theorem State.noteRest_eq (s : State) (since runEnd : Time) :
    s.noteRest since runEnd =
      { s with quietStart := if s.station = .listen then runEnd else s.quietStart, line := s.line.rest since } := by
  unfold State.noteRest State.interruptQuiet
  split <;> rfl

@[simp] theorem State.noteRest_line (s : State) (since runEnd : Time) : (s.noteRest since runEnd).line = s.line.rest since := by
  rw [State.noteRest_eq]

@[simp] theorem State.noteRest_station (s : State) (since runEnd : Time) : (s.noteRest since runEnd).station = s.station := by
  rw [State.noteRest_eq]

@[simp] theorem State.noteRest_chan (s : State) (since runEnd : Time) (i : Slot) : (s.noteRest since runEnd).chan i = s.chan i := by
  rw [State.noteRest_eq]
  rfl

@[simp] theorem State.noteEdge_line (s : State) (t : Time) : (s.noteEdge t).line = s.line.edge t := rfl

/-- The line's own commands touch the line interface and the quiet start alone. -/
def State.LineOnly (s s' : State) : Prop := s' = { s with quietStart := s'.quietStart, line := s'.line }

theorem State.LineOnly.rfl {s : State} : s.LineOnly s := Eq.refl _

theorem State.LineOnly.trans {s u v : State} (h : s.LineOnly u) (k : u.LineOnly v) : s.LineOnly v := by
  unfold State.LineOnly at *
  rw [h] at k
  exact k

theorem State.setLine_lineOnly (s : State) (l : LineInterface) : s.LineOnly (s.setLine l) := Eq.refl _

theorem State.noteRest_lineOnly (s : State) (since runEnd : Time) : s.LineOnly (s.noteRest since runEnd) := by
  rw [State.noteRest_eq]
  exact Eq.refl _

theorem State.noteObserved_lineOnly (s : State) (t : Time) (o : LineObservation) : s.LineOnly (s.noteObserved t o) := by
  cases o with
  | run us =>
    simp only [State.noteObserved]
    split
    · exact .rfl
    · exact s.noteRest_lineOnly _ _
  | pause slots sinceRun => exact s.noteRest_lineOnly _ _
  | earlyEdge us => exact s.setLine_lineOnly _
  | lateEdge a b => exact s.setLine_lineOnly _
  | extraByte => exact s.setLine_lineOnly _

/-- What an observation does to the recessive period leaves the receive state, the queue and the counts (R124). -/
theorem State.noteObserved_line (s : State) (t : Time) (o : LineObservation) :
    (s.noteObserved t o).line =
      { s.line with recessiveSince := (s.noteObserved t o).line.recessiveSince, dominant := (s.noteObserved t o).line.dominant } := by
  cases o with
  | run us =>
    simp only [State.noteObserved]
    split
    · rfl
    · rw [State.noteRest_line]
      rfl
  | pause slots sinceRun =>
    simp only [State.noteObserved, State.noteRest_line]
    rfl
  | earlyEdge us => rfl
  | lateEdge a b => rfl
  | extraByte => rfl

theorem State.followRun_lineOnly (s : State) (o : LineObservation) : s.LineOnly (s.followRun o) := by
  cases o with
  | run us =>
    simp only [State.followRun]
    split
    · exact s.setLine_lineOnly _
    · split
      · exact s.setLine_lineOnly _
      · exact .rfl
  | _ => exact .rfl

/-! ## What the line's commands can do -/

/-- Everything that judging what was measured can do (R125, R126, R133, R134). -/
theorem State.receiveError_cases (s : State) (t : Time) (o : LineObservation) :
    (isLineError o s.line.rx = true ∧ s.receiveError t o = (s.noteObserved t o).countReceiveError) ∨
    (isLineError o s.line.rx = false ∧ s.receiveError t o = (s.noteObserved t o).followRun o) := by
  unfold State.receiveError
  split
  · exact .inl ⟨by assumption, rfl⟩
  · rename_i h
    exact .inr ⟨by simpa using h, rfl⟩

theorem State.receiveError_lineOnly (s : State) (t : Time) (o : LineObservation) : s.LineOnly (s.receiveError t o) := by
  rcases s.receiveError_cases t o with ⟨_, e⟩ | ⟨_, e⟩ <;> rw [e]
  · exact (s.noteObserved_lineOnly t o).trans (State.setLine_lineOnly _ _)
  · exact (s.noteObserved_lineOnly t o).trans (State.followRun_lineOnly _ o)

/-- A rested line: 64 µs of recessive period, 64 µs since the release of an own line break, no bit of this station (R124, R132). -/
theorem State.lineRested_iff (s : State) (t : Time) :
    s.lineRested t = true ↔ 64 ≤ elapsed t s.line.recessiveSince ∧ (∀ since, s.line.ownBreak = some since → 264 ≤ elapsed t since) ∧
      s.sendsBits = false := by
  have idle : ∀ n : Nat, decide (idleTime ≤ n) = true ↔ 64 ≤ n := fun n => decide_eq_true_iff
  have clear : ∀ n : Nat, decide (breakDrive + idleTime ≤ n) = true ↔ 264 ≤ n := fun n => decide_eq_true_iff
  simp only [State.lineRested, LineInterface.clearOfBreak, Bool.and_eq_true, Bool.not_eq_true', idle, and_assoc]
  cases s.line.ownBreak <;> simp [clear]

/-- Everything LINE_IDLE can do: it waits for a rested line, and then clears the own break and ends RECOVER and WINDOW; a run whose end
was not reported ended 64 µs ago (R124, R163). -/
theorem State.lineIdle_cases (s : State) (t : Time) :
    (s.lineRested t = false ∧ s.lineIdle t = s) ∨
    (s.lineRested t = true ∧ s.line.dominant = false ∧
      s.lineIdle t = s.setLine { s.line with rx := s.line.rx.onIdle, ownBreak := none }) ∨
    (s.lineRested t = true ∧ s.line.dominant = true ∧
      s.lineIdle t = { s with
        quietStart := if s.station = .listen then t - 64 else s.quietStart
        line := { s.line with rx := s.line.rx.onIdle, ownBreak := none, recessiveSince := t - 64, dominant := false } }) := by
  unfold State.lineIdle
  by_cases h : s.lineRested t = true
  · refine .inr ?_
    cases hd : s.line.dominant
    · exact .inl ⟨h, rfl, by simp [h]⟩
    · refine .inr ⟨h, rfl, ?_⟩
      simp only [h, if_true, State.noteRest_eq]
      rfl
  · exact .inl ⟨by simpa using h, by simp [h]⟩

theorem State.lineIdle_lineOnly (s : State) (t : Time) : s.LineOnly (s.lineIdle t) := by
  rcases s.lineIdle_cases t with ⟨_, e⟩ | ⟨_, _, e⟩ | ⟨_, _, e⟩ <;> rw [e]
  · exact .rfl
  · exact s.setLine_lineOnly _
  · exact Eq.refl _

theorem State.windowByte_lineOnly (s : State) (w : Window) (slots : Nat) (line : Byte) : s.LineOnly (s.windowByte w slots line) := by
  unfold State.windowByte
  split
  · simp only
    split
    · exact State.LineOnly.trans (s.setLine_lineOnly _) (State.setLine_lineOnly _ _)
    · exact s.setLine_lineOnly _
  · exact s.setLine_lineOnly _

theorem State.responseByte_lineOnly (s : State) (t : Time) (gap slots : Nat) (line : Byte) :
    s.LineOnly (s.responseByte t gap slots line) := by
  simp only [State.responseByte]
  have h := s.noteRest_lineOnly (if slots < 8 then byteRunEnd t (line.getMsbD (slots - 1)) else t)
    (byteRunEnd t (line.getMsbD (slots - 1)))
  split
  · split
    · exact h.trans (State.setLine_lineOnly _ _)
    · exact h.trans (State.windowByte_lineOnly _ _ _ _)
  · exact h.trans (State.setLine_lineOnly _ _)
  all_goals exact h

theorem State.judgeBytes_lineOnly (s : State) (bytes : List Byte) : s.LineOnly (s.judgeBytes bytes) := by
  simp only [State.judgeBytes, State.noteFrame]
  have h := s.noteRest_lineOnly (frameByteEnd s.timer) (frameRunEnd s.timer (bytes.getLastD 0))
  split
  · exact .rfl
  · split
    · exact h.trans (State.setLine_lineOnly _ _)
    · exact h
  · split
    · exact h.trans (State.setLine_lineOnly _ _)
    · exact h
  · split
    · exact h.trans (State.setLine_lineOnly _ _)
    · exact h

/-- A transmission starts on an idle line alone: no frame in flight, no edge seen since the line became idle (R125). -/
theorem State.mayStart_iff (s : State) :
    s.mayStart = true ↔ s.station.mayDrive = true ∧ s.line.rx = .quiet ∧ s.line.dominant = false ∧ s.line.flying = false ∧
      s.line.queue ≠ [] := by
  simp [State.mayStart, LineInterface.idle, and_assoc]

end Sys2Proof.Machine
end

