-- ==== Sys2Proof/WellFormed.lean ====
section
/-!
DEFINITION. Which commands are well formed: those whose operands a line or a port can bring. The types bound slots, ports,
times and payload widths already; what is left is the number of payload bytes of a cell, the bit slots of a frame and the
number of bytes of a frame.
-/
namespace Sys2Proof

/-- A cell is 160 bytes: 8 of header and 152 of payload (section 1.1). -/
def StreamCell.wellFormed (c : StreamCell) : Bool := c.payload.length == 152

/-- The bit slots of the three header bytes, over which arbitration runs (R130). -/
def headerBitSlot (n : Nat) : Bool := n < 24

/-- A frame holds at most 24 bytes before its end-of-data (section 8.2), so at most 192 bit slots. -/
def frameBitSlot (n : Nat) : Bool := n < 192

/-- The bytes of a frame read up to end-of-data: at least one, and at most 24 (R126, R127). -/
def frameBytes (bytes : List Byte) : Bool := 1 ≤ bytes.length && bytes.length ≤ 24

/-- A byte has eight bit slots, so a pause stands after 0 to 8 of them, and it is found 9 µs after the edge before it (R126). -/
def LineObservation.wellFormed : LineObservation → Bool
  | .pause slots sinceRun => slots ≤ 8 && sinceRun ≤ 9
  | .run _ | .earlyEdge _ | .lateEdge _ _ | .extraByte => true

/-- At least the first bit slot of a response byte has passed, and at most its eight (R134). -/
def responseSlots (slots : Nat) : Bool := 1 ≤ slots && slots ≤ 8

/-- The commands whose operands can occur. -/
def Instr.wellFormed : Instr → Bool
  | .networkCellArrival _ cell => cell.wellFormed
  | .insertCellArrival _ _ cell => cell.wellFormed
  | .alertCellArrival _ cell => cell.wellFormed
  | .arbitrationLoss _ bitSlot => headerBitSlot bitSlot
  | .bitError _ bitSlot => frameBitSlot bitSlot
  | .receiveError _ observed => observed.wellFormed
  | .checkError _ bytes => frameBytes bytes
  | .responseByte _ line => responseSlots line.slots
  | .powerOn _ | .rstnAssert | .rstnRelease _ | .rlkChange _ => true
  | .silenceExpiry _ _ | .rejoinLimitExpiry _ _ | .starvationExpiry _ _ => true
  | .cue _ _ _ | .cueCancel _ _ _ | .alertOn _ _ _ | .alertOff _ _ _ | .alertExpiry _ _ => true
  | .rights _ _ _ | .rightsLock _ _ _ | .rightsFix _ _ _ => true
  | .query _ _ _ | .latchClear _ _ _ | .stateRead _ _ _ => true
  | .setupTimes _ _ _ | .setupWindow _ _ _ | .setupDone _ _ | .setupWindowExpiry _ => true
  | .quietPeriodEnd _ | .cutFrameReceived _ _ _ | .peerDeadlineExpiry _ _ => true
  | .presentReceived _ _ _ | .alertReportReceived _ _ _ => true
  | .transmitStart _ | .cleanSend _ | .lineBreak _ | .noisePulse _ | .lineIdle _ => true

end Sys2Proof
end

