-- ==== Sys2Proof/Tests/Slice0.lean ====
section
/-!
SUPPORT. Tests of the model: a term that each check of WellFormed refuses, the check byte and the worked examples of the manual for the
commands, and for every statement a state and operands that meet its hypotheses.
-/
namespace Sys2Proof.Tests

open Sys2Proof Sys2Proof.Machine Sys2Proof.Safety

-- One theorem at a time: each is checked before the next begins, so that no thread waits while it holds its stack.
set_option Elab.async false

/-! ## Well-formed commands -/

/-- A cell with a valid mark, this tag and these marks. -/
def cellOf (tag : BitVec 12) (unit stamp : Bool) (time : Time) : StreamCell :=
  ⟨0xB8#8, tag, 0, unit, stamp, false, false, time, List.replicate 152 0⟩

theorem test_wellFormed_refuses_short_payload :
    Instr.wellFormed (.networkCellArrival 0 { cellOf 116 true true 0 with payload := List.replicate 151 0 }) = false := by decide +kernel
theorem test_wellFormed_refuses_slot_after_header : Instr.wellFormed (.arbitrationLoss 0 24) = false := by decide
theorem test_wellFormed_refuses_slot_after_frame : Instr.wellFormed (.bitError 0 192) = false := by decide
theorem test_wellFormed_refuses_pause_after_ninth_slot : Instr.wellFormed (.receiveError 0 (.pause 9 2)) = false := by decide
theorem test_wellFormed_refuses_response_of_no_slot : Instr.wellFormed (.responseByte 0 ⟨24, 0, 0⟩) = false := by decide
theorem test_wellFormed_refuses_response_of_nine_slots : Instr.wellFormed (.responseByte 0 ⟨24, 9, 0⟩) = false := by decide
theorem test_wellFormed_refuses_empty_frame : Instr.wellFormed (.checkError 0 []) = false := by decide
theorem test_wellFormed_refuses_25_bytes : Instr.wellFormed (.checkError 0 (List.replicate 25 0)) = false := by decide
theorem test_wellFormed_takes_whole_cell : Instr.wellFormed (.insertCellArrival 0 3 (cellOf 116 true true 0)) = true := by decide +kernel

/-! ## States to start from -/

/-- A channel on air with an open gate, OPEN rights and a clock locked at channel time 1 s at station time 1 s. -/
def quietChan : Channel :=
  { Channel.reset with gateOpen := true, rights := .opened, discDue := false, clock := ⟨.locked, 1000000, 1000000⟩ }

/-- Station 12 with block base 7 in this state, its line idle and its channels quiet. -/
def inState (st : StationState) : State :=
  { State.reset with
    powered := true, timer := 1000000, station := st, stationNumber := 12, blockBase := 7
    line := { LineInterface.reset with rx := .quiet }
    channels := Vector.replicate 16 quietChan }

/-- Station 12 in ACTIVE. -/
def active : State := inState .active

/-- Station 12 in ACTIVE with this channel 4. -/
def with4 (c : Channel) : State := active.setChan 4 c

/-- A frame of station 40 to this destination. -/
def frameTo (destination : Byte) : FrameHeader := ⟨3, destination, 40⟩

/-- The state a command leads to. -/
def after (c : Instr) (s : State) : State :=
  match exec c s with
  | .next t => t
  | .fault _ | .refused _ => s

/-- The cue of section 5.10: id 0201h on port 2 of channel 4 at channel time 2 s for 60 s. -/
def entry (st : EntryState) : CueEntry := ⟨0x0201, 2, true, .time, some 2000000, 60000, st⟩

/-- Its break record, cut in at 2 s from insert time 1 s. -/
def brk : BreakRecord := ⟨0x0201, 2, 1000000, 62000000, 60000, true, 2000000⟩

/-- A port that channel 4 owns in this mode with these cells. -/
def owned (m : PortMode) (q : List StreamCell) (seeking : Bool) : InsertPort :=
  { InsertPort.reset with mode := m, owner := some 4, queue := q, seeking := seeking }

/-- Channel 4 with a break on air from port 2 with these cells. -/
def onAir (q : List StreamCell) : State :=
  (with4 { quietChan with state := .onBreak, active := some (.brk brk) }).setPort 2 (owned .live q false)

/-- The outcome decided in an ack window. -/
def judgedCode (s : State) : Option OutcomeCode :=
  match s.line.rx with
  | .window ⟨.ack, 0, .ack code⟩ => some code
  | _ => none

/-- Alert 0E01h of level 2 as a reference. -/
def ref1 : AlertRef := ⟨0x0E01, 2, none⟩

/-- Its record for region 0000h and this channel set: limit 20 s from station time 1 s, raised by station 61. -/
def record1 (m : AlertMode) (set : ChanMask) : AlertRecord := ⟨0x0E01, 2, .live, 0x0000, m, set, 1000000, 20000000, 61⟩

/-- Channel 4 under that alert in this state with this reader, and this below it. -/
def underAlert (st : ChannelState) (r : Reader) (offset : Option Time) (hold : List Record) : State :=
  { with4 { quietChan with state := st, active := some (.alert { ref1 with offset := offset }), reader := some r,
                           alertWaitTime := 1000000, hold := hold } with alerts := [record1 .override 0x0010] }

theorem test_no_word_spells_a_command : (decodeTableWord 8 0).isNone = true := by decide

/-! ## The check byte and frames (sections 8.3, 12.1) -/

/-- The check byte over the bytes of "123456789": the check value of the generator 1Dh, start FFh, inverted, 4Bh. -/
theorem test_checkByte : checkByte [0x31, 0x32, 0x33, 0x34, 0x35, 0x36, 0x37, 0x38, 0x39] = 0x4B#8 := by decide +kernel

/-- Header byte 0 of the part's reports is 50h, 70h, 31h and 92h (section 12.1). -/
theorem test_headerByte0 :
    headerByte0 2 .cut = 0x50#8 ∧ headerByte0 3 .cut = 0x70#8 ∧ headerByte0 1 .alertReport = 0x31#8 ∧
    headerByte0 4 .present = 0x92#8 := by decide

/-- Test byte 0Bh asks for any channel not locked, and 1Ah for all channels free of cues (section 12.5). -/
theorem test_queryBytes :
    queryFields 0x00FFFF0B#32 = ⟨0, 0xFFFF, 3, true, false⟩ ∧ queryFields 0x00FFFF1A#32 = ⟨0, 0xFFFF, 2, true, true⟩ := by decide +kernel

/-- Tag 116 is slot 4 of block base 7 (section 12.3). -/
theorem test_tag : active.tagOf 4 = 116 := by decide +kernel

/-! ## One step of the commands -/

theorem test_powerOn_valid : (after (.powerOn ⟨12, 7, false⟩) State.reset).station = .listen := by decide +kernel
theorem test_powerOn_invalid : (after (.powerOn ⟨12, 255, true⟩) State.reset).station = .strapFault := by decide +kernel
theorem test_rstnAssert : (after .rstnAssert active).lock = false ∧ (after .rstnAssert active).isHeld = true ∧
    ((after .rstnAssert active).chan 4).rights = .opened ∧ ((after .rstnAssert active).port 3).hold = true := by decide +kernel
theorem test_rstnRelease : (after (.rstnRelease ⟨62, 254, false⟩) (after .rstnAssert active)).station = .listen := by decide +kernel
theorem test_rlkChange : (after (.rlkChange true) active).rlk = true ∧ (after (.rlkChange true) active).lock = false := by decide +kernel

/-- A network cell of slot 4 goes out with its tag, sequence count and the network's own stamp. -/
theorem test_networkCellArrival :
    (after (.networkCellArrival 1004000 (cellOf 116 true true 1004000)) active).sout = [cellOf 116 true true 1004000] := by
  decide +kernel
/-- A stamp 100,001 µs off the prediction is a jump (section 2.3). -/
theorem test_networkCellArrival_jump :
    ((after (.networkCellArrival 1004000 (cellOf 116 true true 1104001)) active).chan 4).clock = ⟨.acquiring, 1104001, 1004000⟩ := by
  decide +kernel
theorem test_silenceExpiry : ((after (.silenceExpiry 3000001 4) active).chan 4).clock.state = .noClock := by decide +kernel
theorem test_rejoinLimitExpiry :
    ((after (.rejoinLimitExpiry 2000001 4)
      (with4 { quietChan with state := .rejoinWait, active := some (.brk brk), rejoinWaitTime := 1000000 })).chan 4).returnCondition =
      some .any := by decide +kernel
theorem test_starvationExpiry :
    ((after (.starvationExpiry 3000001 4) (underAlert .alertWait .awaiting none [])).chan 4).starved = true := by decide +kernel
/-- The 40th cell of a queue asserts HOLD. -/
theorem test_insertCellArrival :
    ((after (.insertCellArrival 1000000 2 (cellOf 0 true true 0))
      (onAir (List.replicate 39 (cellOf 0 false false 0)))).port 2).hold = true := by decide +kernel
theorem test_alertCellArrival :
    (after (.alertCellArrival 1000000 (cellOf 0 true true 7200000)) active).ring.newest = some 0 := by decide +kernel

/-- CUE 0201h for channel 4, port 2, EARLY_RETURN, at 2 s for 60 s. -/
def cuePayload : BitVec 96 := 0x0201#16 ++ 0x4A#8 ++ 0#4 ++ 2000000#36 ++ 60000#24 ++ 0#8

theorem test_cue : ((after (.cue 1000000 (frameTo 12) cuePayload) active).chan 4).cues = [entry (.pending false)] := by decide +kernel
theorem test_cue_to_63_is_ignored : ((after (.cue 1000000 (frameTo 63) cuePayload) active).chan 4).cues = [] := by decide +kernel
theorem test_cueCancel :
    (after (.cueCancel 1000000 (frameTo 12) 0x0201#16) (with4 { quietChan with cues := [entry (.pending false)] })).line.queue.map (·.report) =
      [.cut 116 .withdrawn 0x0201 .cancelled 0 0] := by decide +kernel

/-- ALERT_ON 0E01h, level 2, LIVE, region 0000h, duration 20 s, floor 0 (section 6.10). -/
def alertPayload : BitVec 88 := 0x0E01#16 ++ 0x0000#16 ++ 0x02#8 ++ 0xFFFFFD#24 ++ 20#16 ++ 0#8

theorem test_alertOn_holds_the_break :
    ((after (.alertOn 1000000 (frameTo 63) alertPayload) (onAir [])).chan 4).hold = [.brk brk] ∧
    ((after (.alertOn 1000000 (frameTo 63) alertPayload) (onAir [])).port 2).mode = .drain := by decide +kernel
theorem test_alertOn_reports :
    (after (.alertOn 1000000 (frameTo 63) alertPayload) (onAir [])).line.queue.map (·.report) =
      [.alert 40 0x0E01 .taken 0xFFFF .none 2, .cut 116 .held 0x0201 .preempted 2000000 0] := by decide +kernel
theorem test_alertOff :
    ((after (.alertOff 1000000 (frameTo 63) 0x0E0100#24) (underAlert .alert .awaiting (some 0) [.brk brk])).chan 4).state = .rejoinWait := by
  decide +kernel
theorem test_alertExpiry : (after (.alertExpiry 21000001 0x0E01) (underAlert .alert .awaiting (some 0) [])).alerts = [] := by
  decide +kernel
theorem test_rights_guard_is_refused_on_a_live_break :
    (after (.rights 1000000 (frameTo 12) 0x001002#24) (onAir [])).line.rx = .window ⟨.ack, 0, .ack .breakLive⟩ := by decide +kernel
theorem test_rightsLock_hard_lock :
    (after (.rightsLock 1000000 (frameTo 12) 0x02#8) { active with lock := true, rlk := true }).lock = true := by decide +kernel
theorem test_rightsFix :
    ((after (.rightsFix 1000000 (frameTo 12) 0x0010#16) { active with fixPermitted := true }).chan 4).fixed = true := by decide +kernel
/-- "Has any channel not locked?" is answered by a station whose start latch is set. -/
theorem test_query : (after (.query 1000000 (frameTo 63) 0x00FFFF0B#32) active).line.rx = .window ⟨.groupList, 0, .number⟩ := by decide +kernel
theorem test_latchClear : (after (.latchClear 1000000 (frameTo 12) 0x000001#24) active).startLatch = false := by decide +kernel
/-- The channel summary of section 9.8: NETWORK, no occupant, hold depth 0, LOCKED, no rights bits, one cue, no port. -/
theorem test_stateRead :
    (with4 { quietChan with cues := [entry (.pending false)] }).channelPage 4 = [0x00, 0x20, 0x00, 0x00, 0x00, 0x01, 0x80] := by
  decide +kernel
theorem test_setupTimes :
    (after (.setupTimes 1000000 (frameTo 12) 0xFFFF1401#32) (inState .setup)).prerollByte = 100 ∧
    (after (.setupTimes 1000000 (frameTo 12) 0xFFFF1401#32) (inState .setup)).lateLimitByte = 200 := by decide +kernel
theorem test_setupWindow :
    (after (.setupWindow 1000000 (frameTo 12) 0x01120000FF00010001#72) (inState .setup)).window1 =
      ⟨0x1200, 0x00FF, .liveOnly, .observe, 0x0001⟩ := by decide +kernel
theorem test_setupDone : (after (.setupDone 1000000 (frameTo 12)) (inState .setup)).station = .active := by decide +kernel
theorem test_setupWindowExpiry :
    (after (.setupWindowExpiry 2000001) (inState .setup)).line.queue.map (·.report) = [.present 7 .active true] := by decide +kernel
theorem test_quietPeriodEnd : (after (.quietPeriodEnd 100000) (inState .listen)).station = .setup := by decide +kernel

/-- An entry that waits for cue 0202h of station 20 with an offset of 2 s. -/
def follower : CueEntry := ⟨0x0301, 1, false, .peer 20 0x0202 2000, none, 30000, .waitPeer 1000000 30000000⟩

/-- The CUT_IN of 0202h at 3 s gives the follower 5 s. -/
theorem test_cutFrameReceived :
    ((after (.cutFrameReceived 1000000 ⟨2, 63, 20⟩ (cutPayload 146 .cutIn 0x0202 .scheduled 3000000 0))
      (with4 { quietChan with cues := [follower] })).chan 4).cues.map (·.splice) = [some 5000000] := by decide +kernel
theorem test_peerDeadlineExpiry :
    ((after (.peerDeadlineExpiry 31000001 0x0301) (with4 { quietChan with cues := [follower] })).chan 4).cues = [] := by decide +kernel
theorem test_presentReceived : (after (.presentReceived 1000000 ⟨4, 63, 12⟩ 0x090301#24) active).station = .clash := by decide +kernel
theorem test_alertReportReceived :
    (after (.alertReportReceived 1000000 ⟨1, 61, 20⟩ 0#56) active).line.rx = .window ⟨.none, 0, .silent⟩ := by decide +kernel

/-- A PRESENT that waits, and one in flight with this many retries. -/
def waiting (retries : Nat) (flying : Bool) : TxFrame := ⟨.present 7 .active true, retries, flying⟩

/-- Station 12 with this queue, sending or not. -/
def sending (q : List TxFrame) (rx : RxState) : State := { active with line := { active.line with queue := q, rx := rx } }

theorem test_transmitStart : (after (.transmitStart 1000000) (sending [waiting 0 false] .quiet)).line.queue = [waiting 0 true] := by
  decide +kernel
/-- Header byte 0 of PRESENT is 92h, so its first bit is a 1 and can be lost. -/
theorem test_arbitrationLoss : (after (.arbitrationLoss 1000000 0) (sending [waiting 0 true] .frame)).line.queue = [waiting 0 false] := by
  decide +kernel
theorem test_cleanSend : (after (.cleanSend 1000000) (sending [waiting 2 true] .frame)).line.queue = [] := by decide +kernel
theorem test_bitError_retries : (after (.bitError 1000000 24) (sending [waiting 2 true] .frame)).line.queue = [waiting 3 false] := by
  decide +kernel
theorem test_bitError_abandons : (after (.bitError 1000000 24) (sending [waiting 3 true] .frame)).line.transmitFault = true := by
  decide +kernel
theorem test_lineBreak : (after (.lineBreak 1000000) (sending [waiting 2 true] .frame)).line.queue = [waiting 2 false] := by decide +kernel
/-- Of a run of 39 µs in QUIET and of one of 40 µs, the second is a start mark (section 8.2). -/
theorem test_receiveError :
    (after (.receiveError 1000000 (.run 39)) active).line.receiveErrors = 1 ∧
    (after (.receiveError 1000000 (.run 40)) active).line.rx = .frame := by decide +kernel
/-- An own start mark that another station stretches to 57 µs cuts off the frame in flight with its retries (section 8.5). -/
theorem test_receiveError_cuts_off :
    (after (.receiveError 1000000 (.run 57)) (sending [waiting 2 true] .quiet)).line.queue = [waiting 2 false] := by decide +kernel
theorem test_checkError : (after (.checkError 1000000 [0x50, 63, 20, 0]) active).line.rx = .recover := by decide +kernel
theorem test_noisePulse : (after (.noisePulse 1000000) active).line.noise = 1 := by decide +kernel
/-- Station 12 tries again after 07h, and has been heard after 0Ch (section 8.10). -/
theorem test_responseByte :
    (after (.responseByte 1000000 ⟨24, 8, 0x07⟩) (sending [] (.window ⟨.groupList, 0, .number⟩))).line.rx = .window ⟨.groupList, 1, .number⟩ ∧
    (after (.responseByte 1000000 ⟨24, 8, 0x0C⟩) (sending [] (.window ⟨.groupList, 1, .number⟩))).line.rx = .window ⟨.groupList, 2, .silent⟩ := by
  decide +kernel
/-- ACCEPTED is 01h; another station's 81h differs in the first bit slot, and a byte cut off after one slot counts it (section 8.6). -/
theorem test_responseByte_mismatch_in_a_cut_off_byte :
    (after (.responseByte 1000000 ⟨24, 1, 0x80⟩) (sending [] (.window ⟨.ack, 0, .ack .accepted⟩))).line.receiveErrors = 1 ∧
    (after (.responseByte 1000000 ⟨24, 1, 0x80⟩) (sending [] (.window ⟨.ack, 0, .ack .accepted⟩))).line.rx = .window ⟨.ack, 0, .silent⟩ := by
  decide +kernel
theorem test_lineIdle : (after (.lineIdle 64) (sending [] .recover)).line.rx = .quiet := by decide +kernel
/-- The line is not idle before 64 µs (section 8.1). -/
theorem test_lineIdle_early : (after (.lineIdle 63) (sending [] .recover)).line.rx = .recover := by decide +kernel
/-- A pause after three slots, found 9 µs after the last edge and 7 µs after its run: the line is idle 64 µs after the run, 57 µs after the
pause is found, and not sooner (sections 8.1, 8.2). -/
theorem test_lineIdle_after_a_pause :
    (after (.lineIdle 1000057) (after (.receiveError 1000000 (.pause 3 7)) (sending [] .frame))).line.rx = .quiet ∧
    (after (.lineIdle 1000056) (after (.receiveError 1000000 (.pause 3 7)) (sending [] .frame))).line.rx = .recover := by decide +kernel

/-- Station 12 in RECOVER, its own line break begun at 1000000 and seen by its receiver. -/
def breaking : State := after (.lineBreak 1000160) (after (.bitError 1000000 24) (sending [waiting 0 true] .frame))

/-- An own line break holds the line for 200 µs, and the line is idle 64 µs later (sections 8.1, 8.5). -/
theorem test_lineIdle_after_the_own_break :
    (after (.lineIdle 1000263) breaking).line.rx = .recover ∧ (after (.lineIdle 1000264) breaking).line.rx = .quiet := by decide +kernel

/-! ## States and operands that meet the hypotheses of the statements -/

theorem witness_StepRunsFrontCommand : State.reset.pending = [] := rfl

theorem witness_HeldPartTakesNoOtherCommand :
    State.reset.isHeld = true ∧ (after .rstnAssert active).isHeld = true ∧ takenInReset (.lineIdle 0) = false := by decide +kernel

theorem witness_ResetCommandsSetEveryBlock :
    active.rstAsserted = false ∧ (after .rstnAssert active).rstAsserted = true ∧ (after .rstnAssert active).powered = true ∧
    (after .rstnAssert active).timer = 0 ∧ (after .rstnAssert State.reset).powered = false ∧
    (after .rstnAssert State.reset).rstAsserted = true := by decide +kernel

theorem witness_TimesAddAndCompareModuloM :
    14400000000 ≤ 14400000000 ∧ (diff 0 1).toNat = 68719476735 ∧ (diff 34359738368 0).toNat = 34359738368 := by decide

theorem witness_IntervalsOverlapWhenEachBeginsInTheOther :
    0 < 1 ∧ atOrAfter 5 5 = true ∧ atOrAfter 5 6 = false ∧ signed 6 5 = (1 : Nat) := by decide

theorem witness_OneInvertedBitIsACheckError : 15 < 8 * ([0x50#8].length + 1) := by decide

/-- A network cell of slot 15, the last, and of slot 0, the first of the block. -/
theorem witness_NetworkInputFiltersAndNetworkStateCarries :
    active.isHeld = false ∧ { cellOf 112 true true 0 with mark := 0xB7#8 }.mark ≠ 0xB8#8 ∧
    (∀ i : Slot, (cellOf 111 true true 0).tag ≠ active.tagOf i) ∧ (∀ i : Slot, (cellOf 128 true true 0).tag ≠ active.tagOf i) ∧
    (cellOf 127 false true 0).tag = (with4 quietChan).tagOf 15 ∧
    ((active.setChan 15 { quietChan with gateOpen := false }).chan 15).gateOpen = false ∧
    Reaches active 15 (cellOf 127 false true 3000000) ∧ Undisturbed (active.chan 15) 3000000 (cellOf 127 false true 3000000) ∧
    Reaches (active.setChan 0 { quietChan with gateOpen := false }) 0 (cellOf 112 true true 3000000) ∧
    (active.chan 15).state = .network := by
  unfold Reaches Undisturbed; decide +kernel

theorem witness_OneOutputCellForEachSlotEvent : Reaches active 15 (cellOf 127 false false 0) := by
  unfold Reaches; decide +kernel

theorem witness_StampInNoClockStartsAcquisition :
    Reaches (with4 { quietChan with clock := ⟨.noClock, 0, 0⟩ }) 4 (cellOf 116 false true 0) ∧
    ((with4 { quietChan with clock := ⟨.noClock, 0, 0⟩ }).chan 4).clock.state = .noClock ∧
    Reaches active 4 (cellOf 116 false true 0) ∧ 2000000 < (3000001#36 - (active.chan 4).clock.lastTime).toNat := by
  unfold Reaches; decide +kernel

/-- At the silence limit, a stamp 100,000 µs off agrees and one 100,001 µs off does not. -/
theorem witness_StampLocksOrJumpsTheClock :
    Reaches active 4 (cellOf 116 false true 3100000) ∧ Reaches active 4 (cellOf 116 false false 0) ∧
    (3000000#36 - (active.chan 4).clock.lastTime).toNat ≤ 2000000 ∧ (active.chan 4).clock.state = .locked ∧
    (signed 3100000 (1000000 + (3000000 - 1000000))).natAbs ≤ 100000 ∧
    ¬ (signed 3100001 (1000000 + (3000000 - 1000000))).natAbs ≤ 100000 := by
  unfold Reaches; decide +kernel

/-- A channel with no entry, no pending entry and not in CUT_WAIT keeps the cue law. -/
theorem cueLaw_of_empty {c : Channel} (h : c.cues = []) (hp : c.pendingEntry = none) (hs : c.state ≠ .cutWait) : CueLaw c := by
  simp [CueLaw, h, hp, hs, Channel.hasPortWait]

/-- A channel with one PENDING entry of lawful duration keeps the cue law. -/
theorem cueLaw_of_one {c : Channel} {e : CueEntry} {m : Bool} (h : c.cues = [e]) (he : e.state = .pending m)
    (hs : e.splice.isSome = true) (hd : 1000 ≤ e.duration ∧ e.duration ≤ 14400000) (hp : c.pendingEntry = none)
    (hc : c.state ≠ .cutWait) : CueLaw c := by
  simp [CueLaw, h, hp, hc, he, hs, hd, Channel.hasPortWait, CueEntry.isTimed]

/-- A channel without a record, outside the states that need one, keeps the record law. -/
theorem channelLaw_of_network {c : Channel} (h : c.state = .network) (ha : c.active = none) (hh : c.hold = [])
    (hc : c.returnCondition = none) (hr : c.returnReport = none) (hd : c.reader = none) (hs : c.starved = false) : ChannelLaw c := by
  simp [ChannelLaw, recordsFit, records, h, ha, hh, hc, hr, hd, hs]

/-- A channel with a break on air keeps the record law. -/
theorem channelLaw_of_break {c : Channel} {b : BreakRecord} (h : c.state = .onBreak) (ha : c.active = some (.brk b)) (hh : c.hold = [])
    (hc : c.returnCondition = none) (hr : c.returnReport = none) (hd : c.reader = none) (hs : c.starved = false) : ChannelLaw c := by
  simp [ChannelLaw, recordsFit, records, h, ha, hh, hc, hr, hd, hs]

/-- A channel in ALERT over a held break keeps the record law. -/
theorem channelLaw_of_alert {c : Channel} {a : AlertRef} {b : BreakRecord} (h : c.state = .alert) (ha : c.active = some (.alert a))
    (hh : c.hold = [.brk b]) (hl : 1 ≤ a.level ∧ a.level ≤ 7) (ho : a.offset.isSome = true) (hc : c.returnCondition = none)
    (hr : c.returnReport = none) (hd : c.reader.isSome = true) (hs : c.starved = false) : ChannelLaw c := by
  simp [ChannelLaw, recordsFit, records, Channel.activeBreak, h, ha, hh, hl, hc, hr, hd, hs]
  exact ho

/-- What holds of this channel 4 and of a quiet channel holds of every channel. -/
theorem all_of_with4 {P : Channel → Prop} {c : Channel} (h4 : P c) (hq : P quietChan) (i : Slot) : P ((with4 c).chan i) := by
  unfold with4
  rw [State.setChan_chan]
  split
  · exact h4
  · have : active.chan i = quietChan := by simp [active, inState, State.chan]
    rw [this]
    exact hq

theorem quietChan_law : ChannelLaw quietChan := channelLaw_of_network rfl rfl rfl rfl rfl rfl rfl
theorem quietChan_cueLaw : CueLaw quietChan := cueLaw_of_empty rfl rfl (by decide)

/-- Channel 4 with one PENDING entry. -/
def cued : State := with4 { quietChan with cues := [entry (.pending false)] }

theorem cued_channelsLaw : ChannelsLaw cued :=
  all_of_with4 (channelLaw_of_network rfl rfl rfl rfl rfl rfl rfl) quietChan_law
theorem cued_cuesLaw : CuesLaw cued :=
  ⟨all_of_with4 (cueLaw_of_one rfl rfl rfl (by decide) rfl (by decide)) quietChan_cueLaw, by decide +kernel⟩

/-- Channel 4 in RETURN_WAIT on this condition with this report due, its clock locked at 61 s. -/
def returnsOn (cond : ReturnCondition) (r : Option Record) (due : Option ReturnReport) : State :=
  (with4 { quietChan with state := .returnWait, returnCondition := some cond, returnReport := due, active := r,
                          clock := ⟨.locked, 61000000, 61000000⟩ }).setPort 2 (owned .drain [] false)

/-- A break held under an alert on channel 4. -/
def held : State := (underAlert .alert .awaiting (some 0) [.brk brk]).setPort 2 (owned .drain [] false)

/-- A jump of 100,001 µs in NETWORK with an entry, on a break, over a held break that stays fresh, and in RETURN_WAIT with a point of its
own. -/
theorem witness_JumpWithdrawsEntriesAndMovesTheReturnPoint :
    Reaches cued 4 (cellOf 116 false true 1204001) ∧ CueLaw (cued.chan 4) ∧ (cellOf 116 false true 1204001).stamp = true ∧
    (cued.chan 4).clock.state = .locked ∧ (3000000#36 - (cued.chan 4).clock.lastTime).toNat ≤ 2000000 ∧
    100000 < (1204001#36 - (1000000 + (1104000 - 1000000))).toInt.natAbs ∧ (cued.chan 4).state ≠ .rejoinWait ∧
    (cued.chan 4).heldBreak = none ∧ (cellOf 116 false true 1204001).unit = false ∧
    Reaches (onAir []) 4 (cellOf 116 false true 1204001) ∧ CueLaw ((onAir []).chan 4) ∧
    ((onAir []).chan 4).active = some (.brk brk) ∧
    Reaches held 4 (cellOf 116 false true 1204001) ∧ CueLaw (held.chan 4) ∧ (held.chan 4).clock.state = .locked ∧
    (held.chan 4).state = .alert ∧ (held.chan 4).hold = [.brk brk] ∧ -3600000000 ≤ signed (brk.returnPoint + 100001) 1204001 ∧
    Reaches (returnsOn (.afterPoint 62000000) none none) 4 (cellOf 116 false true 61204001) ∧
    CueLaw ((returnsOn (.afterPoint 62000000) none none).chan 4) ∧
    ((returnsOn (.afterPoint 62000000) none none).chan 4).state = .returnWait ∧
    ((returnsOn (.afterPoint 62000000) none none).chan 4).clock.state = .locked ∧
    100000 < (61204001#36 - (61000000 + (61104000 - 61000000))).toInt.natAbs ∧
    ((returnsOn (.afterPoint 62000000) none none).chan 4).returnCondition = some (.afterPoint 62000000) := by
  have h := cued_cuesLaw.1 4
  have k : CueLaw ((onAir []).chan 4) := cueLaw_of_empty rfl rfl (by decide)
  have l : CueLaw (held.chan 4) := cueLaw_of_empty rfl rfl (by decide)
  have r : CueLaw ((returnsOn (.afterPoint 62000000) none none).chan 4) := cueLaw_of_empty rfl rfl (by decide)
  refine ⟨?_, h, rfl, rfl, by decide, by decide, by decide, rfl, rfl, ?_, k, rfl, ?_, l, rfl, rfl, rfl, by decide, ?_, r, rfl, rfl,
    by decide, rfl⟩ <;> unfold Reaches <;> decide +kernel

theorem witness_SilenceEndsEntriesAndBreak :
    (onAir []).isHeld = false ∧ (3000000#36 - ((onAir []).chan 4).clock.lastTime).toNat ≤ 2000000 ∧
    ((onAir []).chan 4).clock.state ≠ .noClock ∧ 2000000 < (3000001#36 - ((onAir []).chan 4).clock.lastTime).toNat ∧
    ChannelLaw ((onAir []).chan 4) ∧ CueLaw ((onAir []).chan 4) := by
  refine ⟨by decide, by decide, by decide, by decide, ?_, ?_⟩
  · exact channelLaw_of_break (b := brk) rfl rfl rfl rfl rfl rfl rfl
  · exact cueLaw_of_empty rfl rfl (by decide)

theorem witness_InsertPortTakesACell :
    active.isHeld = false ∧ active.station ≠ .strapFault ∧ (inState .strapFault).station = .strapFault := by decide +kernel

theorem witness_AlertCellIsWrittenAndReadersFollow :
    active.isHeld = false ∧ active.station ≠ .strapFault ∧ (cellOf 0 true true 0).mark = 0xB8#8 ∧
    { cellOf 0 true true 0 with mark := 0 }.mark ≠ 0xB8#8 := by decide +kernel

/-- A CUE that is accepted, one that replaces its entry, one 500,001 µs late and one for a guarded channel. -/
theorem witness_CueIsJudgedInOrderAndPlaced :
    Hears cued ∧ ToOwn cued (frameTo 12) ∧ ChannelsLaw cued ∧ CuesLaw cued ∧ cued.station = .active ∧
    (inState .setup).station = .setup ∧ (inState .clash).station = .clash := by
  refine ⟨?_, ?_, cued_channelsLaw, cued_cuesLaw, rfl, rfl, rfl⟩
  · unfold Hears; decide +kernel
  · unfold ToOwn fromStation; decide +kernel

theorem test_cueOutcome_replaces : judgedCode (after (.cue 1000000 (frameTo 12) cuePayload) cued) = some .replaced := by decide +kernel
theorem test_cueOutcome_too_late :
    judgedCode (after (.cue 2500001 (frameTo 12) cuePayload) (with4 { quietChan with clock := ⟨.locked, 2500001, 2500001⟩ })) =
      some .tooLate ∧
    judgedCode (after (.cue 2500000 (frameTo 12) cuePayload) (with4 { quietChan with clock := ⟨.locked, 2500000, 2500000⟩ })) =
      some .accepted := by decide +kernel

/-- A CUT report of station 20 about cue 0202h, of this kind. -/
def peerCut (kind : BitVec 4) (stamp : Time) : BitVec 88 := 146#12 ++ kind ++ 0x0202#16 ++ 0#8 ++ 0#4 ++ stamp ++ 0#8

/-- Channel 4 with the follower and this clock. -/
def waits (k : ClockState) : State := with4 { quietChan with clock := ⟨k, 4000000, 4000000⟩, cues := [follower] }

/-- Channel 4 with a break on air from 2 s to 62 s and the follower. -/
def waitsOnAir : State := with4 { quietChan with state := .onBreak, active := some (.brk brk), cues := [follower] }

/-- Channel 4 with the break's cue at 2 s to 62 s, one at 200 s to 260 s, and the follower. -/
def waitsAmong : State :=
  with4 { quietChan with cues := [entry (.pending false), { entry (.pending false) with cueId := 0x0203, splice := some 200000000 }, follower] }

/-- The follower's splice time is 2 s after the cut stamp; 500,000 µs behind the channel clock is not late yet; 5 s falls in the break on
air, 63 s does not. -/
theorem witness_PeerReportResolvesAWaitingEntry :
    Hears (waits .locked) ∧ fromStation ⟨2, 63, 20⟩ ∧ (⟨2, 63, 20⟩ : FrameHeader).destination.toNat < 64 ∧
    (waits .locked).station ≠ .listen ∧ (((waits .locked).chan 4).cues.map (·.cueId)).Nodup ∧ follower ∈ ((waits .locked).chan 4).cues ∧
    follower.trigger = .peer 20 0x0202 2000 ∧
    (cutFields (peerCut 1 1500000)).cueId = 0x0202 ∧ (cutFields (peerCut 1 1500000)).kind = 1#4 ∧
    (∀ j : Slot, ∀ x ∈ ((waits .locked).chan j).cues, j ≠ 4 ∨ x.cueId ≠ follower.cueId → x.awaits 20 0x0202 = false) ∧
    signed (1500000 + BitVec.ofNat 36 (1000 * 2000)) (4000000 + (4000000 - 4000000)) = -500000 ∧
    signed (1499999 + BitVec.ofNat 36 (1000 * 2000)) (4000000 + (4000000 - 4000000)) = -500001 ∧
    ((waits .acquiring).chan 4).clock.state ≠ .locked ∧ ((waits .locked).chan 4).breakRecord = none ∧
    (cutFields (peerCut 7 0)).kind = 7#4 ∧ (cutFields (peerCut 8 0)).kind = 8#4 ∧
    ((waits .locked).chan 4).entry follower.cueId = some follower ∧ follower.state = .waitPeer 1000000 30000000 ∧
    (∀ j : Slot, j ≠ 4 → ((waits .locked).chan j).entry follower.cueId = none) ∧ (waits .locked).isHeld = false ∧
    30000000 < (31000001#36 - 1000000).toNat ∧ (31000000#36 - 1000000).toNat ≤ 30000000 ∧
    (∀ j : Slot, ∀ x ∈ (active.chan j).cues, x.awaits 20 0x0202 = false) ∧
    Hears waitsOnAir ∧ (waitsOnAir.chan 4).cues = [follower] ∧ (waitsOnAir.chan 4).breakRecord = some brk ∧
    signed (3000000 + BitVec.ofNat 36 (1000 * 2000)) 1000000 = 4000000 ∧
    intervalsOverlap 5000000 (1000 * follower.duration) (brk.returnPoint - BitVec.ofNat 36 (1000 * brk.duration)) (1000 * brk.duration) = true ∧
    intervalsOverlap 63000000 (1000 * follower.duration) (brk.returnPoint - BitVec.ofNat 36 (1000 * brk.duration)) (1000 * brk.duration) = false := by
  unfold Hears fromStation; decide +kernel

/-- Among other entries 5 s falls in the first of them, and 100 s in none: the follower is placed between them. -/
theorem witness_PeerReportResolvesAWaitingEntry_amongOthers :
    Hears waitsAmong ∧ ((waitsAmong.chan 4).cues.map (·.cueId)).Nodup ∧ follower ∈ (waitsAmong.chan 4).cues ∧
    (∀ j : Slot, ∀ x ∈ (waitsAmong.chan j).cues, j ≠ 4 ∨ x.cueId ≠ follower.cueId → x.awaits 20 0x0202 = false) ∧
    (waitsAmong.chan 4).clock.state = .locked ∧ (waitsAmong.chan 4).breakRecord = none ∧
    intervalsOverlap 5000000 (1000 * follower.duration) 2000000 (1000 * (entry (.pending false)).duration) = true ∧
    (∀ x ∈ (waitsAmong.chan 4).cues, ∀ se, x.splice = some se →
      intervalsOverlap 100000000 (1000 * follower.duration) se (1000 * x.duration) = false) ∧
    (cuePlaced (waitsAmong.chan 4) { follower with splice := some 100000000, state := .pending false }).map (·.cueId) =
      [0x0201, follower.cueId, 0x0203] := by
  have h : ∀ x ∈ (waitsAmong.chan 4).cues,
      (x.splice.any fun se => intervalsOverlap 100000000 (1000 * follower.duration) se (1000 * x.duration)) = false := by decide +kernel
  refine ⟨by unfold Hears; decide +kernel, by decide +kernel, by decide +kernel, by decide +kernel, by decide +kernel, by decide +kernel,
    by decide +kernel, fun x hx se hs => ?_, by decide +kernel⟩
  simpa [hs] using h x hx

/-- Channel 4 with an entry for this splice time. -/
def cuedAt (sp : Time) (st : EntryState) : State := with4 { quietChan with cues := [{ entry st with splice := some sp }] }

/-- The preroll is 4 s and the late limit 500,000 µs. -/
theorem witness_MatureEntryReservesItsPort :
    Reaches (cuedAt 5000001 (.pending false)) 4 (cellOf 116 false false 0) ∧
    Undisturbed { (cuedAt 5000001 (.pending false)).chan 4 with cues := [] } 1000000 (cellOf 116 false false 0) ∧
    ((cuedAt 5000001 (.pending false)).chan 4).state = .network ∧
    (clockAfter ((cuedAt 5000001 (.pending false)).chan 4).clock 1000000 (cellOf 116 false false 0)).state ≠ .noClock ∧
    (100000 * active.prerollByte.toNat : Int) < signed 5000001 1000000 ∧ signed 5000000 1000000 ≤ 100000 * active.prerollByte.toNat ∧
    signed 1000000 500000 ≤ (10000 * active.lateLimitByte.toNat : Int) ∧ (10000 * active.lateLimitByte.toNat : Int) < signed 1000000 499999 ∧
    (active.port 2).mode = .free ∧ ((onAir []).port 2).mode ≠ .free ∧ (cellOf 116 false false 0).unit = false := by
  unfold Reaches Undisturbed; decide +kernel

/-- Channel 4 awaiting its cut at 2 s with these cells at the port. -/
def awaitsCut (q : List StreamCell) : State :=
  (with4 { quietChan with state := .cutWait, cues := [entry .cutWait], pendingEntry := some 0x0201 }).setPort 2 (owned .reserved q true)

/-- A cut point on the channel clock at station time t. -/
def pointAt (t : Time) : StreamCell := cellOf 116 true true t

theorem witness_CutInAtTheFirstCutPointFromTheSpliceTime :
    Reaches (awaitsCut [cellOf 0 true true 0]) 4 (pointAt 2000000) ∧
    Undisturbed { (awaitsCut []).chan 4 with cues := [] } 2000000 (pointAt 2000000) ∧
    Undisturbed { (awaitsCut []).chan 4 with cues := [] } 2500001 (pointAt 2500001) ∧
    ((awaitsCut []).chan 4).state = .cutWait ∧ ((awaitsCut []).chan 4).cues = [entry .cutWait] ∧
    ((awaitsCut []).chan 4).pendingEntry = some (entry .cutWait).cueId ∧ (entry .cutWait).splice = some 2000000 ∧
    ((awaitsCut []).port 2).owner = some 4 ∧ ((awaitsCut []).port 2).mode = .reserved ∧
    (∀ x ∈ ((awaitsCut [cellOf 0 true true 0]).port 2).queue.head?, isUnitStart x = true) ∧
    ((awaitsCut [cellOf 0 true true 0]).port 2).queue = [cellOf 0 true true 0] ∧ ((awaitsCut []).port 2).queue = [] ∧
    0 ≤ signed 2000000 2000000 ∧ signed 2500000 2000000 ≤ 10000 * active.lateLimitByte.toNat ∧ signed 1999999 2000000 < 0 ∧
    (10000 * active.lateLimitByte.toNat : Int) < signed 2500001 2000000 ∧ NoneWaits (awaitsCut []) 2 := by
  unfold Reaches Undisturbed NoneWaits; decide +kernel

/-- The end mark, the first unit start at the return point of 62 s, and the last one before it. -/
theorem witness_BreakOnAirCarriesItsPort :
    Reaches (onAir []) 4 (cellOf 116 false false 0) ∧ Undisturbed ((onAir []).chan 4) 3000000 (cellOf 116 false false 0) ∧
    ((onAir []).chan 4).state = .onBreak ∧ ((onAir []).chan 4).active = some (.brk brk) ∧
    ¬ ((cellOf 116 false false 0).unit = true ∧ (cellOf 116 false false 0).stamp = true ∧
      atOrAfter (cellOf 116 false false 0).time brk.returnPoint = true) ∧
    ((onAir []).port 2).owner = some 4 ∧ ((onAir []).port 2).mode = .live ∧ ((onAir []).port 2).seeking = false ∧
    isEndMark { cellOf 0 true false 0 with fill := true } = true ∧
    atOrAfter ((cellOf 0 true true 61000000).time + brk.offset) brk.returnPoint = true ∧
    atOrAfter ((cellOf 0 true true 60999999).time + brk.offset) brk.returnPoint = false := by
  unfold Reaches Undisturbed; decide +kernel

/-- A break about to return at 62 s on channel 4, and an entry of channel 5 in PORT_WAIT for its port. -/
def returning (others : List CueEntry) : State :=
  (((with4 { quietChan with state := .onBreak, active := some (.brk brk), clock := ⟨.locked, 61000000, 61000000⟩ }).setChan 5
    { quietChan with cues := others })).setPort 2 (owned .live [] false)

theorem witness_ReturnCutFreesThePortForTheLowestSlot :
    Reaches (returning []) 4 (pointAt 62000000) ∧ Undisturbed ((returning []).chan 4) 62000000 (pointAt 62000000) ∧
    ((returning []).chan 4).state = .onBreak ∧ ((returning []).chan 4).active = some (.brk brk) ∧
    atOrAfter (pointAt 62000000).time brk.returnPoint = true ∧ ((returning []).port 2).owner = some 4 ∧
    ((returning []).port 2).mode = .live ∧ NoneWaits (returning []) 2 ∧ ((returning [entry .portWait]).chan 5).state = .network ∧
    ((returning [entry .portWait]).chan 5).cues.find? (fun x => x.waitsFor 2) = some (entry .portWait) ∧
    (∀ k : Slot, k < 5 → ((returning [entry .portWait]).chan k).state = .network →
      ∀ x ∈ ((returning [entry .portWait]).chan k).cues, x.waitsFor 2 = false) := by
  unfold Reaches Undisturbed NoneWaits; decide +kernel

theorem witness_ReturnWaitFillsUntilItsCondition :
    Reaches (returnsOn .any none none) 4 (pointAt 62000000) ∧
    Undisturbed ((returnsOn .any none none).chan 4) 62000000 (pointAt 62000000) ∧
    ((returnsOn .any none none).chan 4).state = .returnWait ∧ ((returnsOn .any none none).chan 4).active = none ∧
    Undisturbed ((returnsOn .afterBreak (some (.brk brk)) (some .scheduled)).chan 4) 61999999 (pointAt 61999999) ∧
    atOrAfter (pointAt 62000000).time brk.returnPoint = true ∧ atOrAfter (pointAt 61999999).time brk.returnPoint = false ∧
    ((returnsOn .afterBreak (some (.brk brk)) (some .scheduled)).port 2).owner = some 4 ∧
    ((returnsOn .afterBreak (some (.brk brk)) (some .scheduled)).port 2).mode ≠ .free ∧
    NoneWaits (returnsOn .afterBreak (some (.brk brk)) (some .scheduled)) 2 := by
  unfold Reaches Undisturbed NoneWaits; decide +kernel

/-- Channel 4 in REJOIN_WAIT since 1 s with these cells at its port. -/
def rejoins (q : List StreamCell) : State :=
  (with4 { quietChan with state := .rejoinWait, active := some (.brk brk), rejoinWaitTime := 1000000 }).setPort 2 (owned .live q true)

/-- The same with its clock locked at 61 s, where it has waited since. -/
def rejoinsLate (q : List StreamCell) : State :=
  (rejoins q).setChan 4 { (rejoins q).chan 4 with rejoinWaitTime := 61000000, clock := ⟨.locked, 61000000, 61000000⟩ }

/-- A unit start one µs before R and one at R at the port's head, a cut point at R, and a limit passed by one µs. -/
theorem witness_RejoinWaitRejoinsOrGivesUp :
    (rejoins []).isHeld = false ∧ ((rejoins []).chan 4).state = .rejoinWait ∧ ((rejoins []).chan 4).active = some (.brk brk) ∧
    ((rejoins []).port 2).owner = some 4 ∧ ((rejoins []).port 2).mode = .live ∧ Reaches (rejoins []) 4 (pointAt 2000000) ∧
    Undisturbed ((rejoins []).chan 4) 2000000 (pointAt 2000000) ∧ (2000000#36 - ((rejoins []).chan 4).rejoinWaitTime).toNat ≤ 1000000 ∧
    1000000 < (2000001#36 - ((rejoins []).chan 4).rejoinWaitTime).toNat ∧
    atOrAfter (pointAt 2000000).time brk.returnPoint = false ∧
    atOrAfter ((cellOf 0 true true 60999999).time + brk.offset) brk.returnPoint = false ∧
    atOrAfter ((cellOf 0 true true 61000000).time + brk.offset) brk.returnPoint = true ∧
    ((rejoins [cellOf 0 false false 0]).port 2).queue = [cellOf 0 false false 0] := by
  unfold Reaches Undisturbed; decide +kernel

theorem witness_RejoinWaitRejoinsOrGivesUp_atTheEnd :
    Reaches (rejoins []) 4 (pointAt 2000001) ∧ Undisturbed ((rejoins []).chan 4) 2000001 (pointAt 2000001) ∧
    Reaches (rejoins []) 4 (cellOf 116 false false 0) ∧ Undisturbed ((rejoins []).chan 4) 2000001 (cellOf 116 false false 0) ∧
    NoneWaits (rejoins []) 2 := by
  unfold Reaches Undisturbed NoneWaits; decide +kernel

theorem witness_RejoinWaitRejoinsOrGivesUp_returnCut :
    Reaches (rejoinsLate []) 4 (pointAt 62000000) ∧ Undisturbed ((rejoinsLate []).chan 4) 62000000 (pointAt 62000000) ∧
    (62000000#36 - ((rejoinsLate []).chan 4).rejoinWaitTime).toNat ≤ 1000000 ∧ ((rejoinsLate []).chan 4).active = some (.brk brk) ∧
    atOrAfter (pointAt 62000000).time brk.returnPoint = true ∧ NoneWaits (rejoinsLate []) 2 := by
  unfold Reaches Undisturbed NoneWaits; decide +kernel

theorem witness_CueCancelEndsTheCueWhereverItStands :
    Hears active ∧ ToOwn active (frameTo 12) ∧ (inState .setup).station = .setup ∧ (inState .clash).station = .clash ∧
    active.station = .active ∧ (∀ j : Slot, 0x0201 ∉ usedIds (active.chan j)) ∧
    (cued.chan 4).entry 0x0201 = some (entry (.pending false)) ∧ (∀ j : Slot, j ≠ 4 → 0x0201 ∉ usedIds (cued.chan j)) ∧
    ((onAir []).chan 4).entry 0x0201 = none ∧ (∀ j : Slot, j ≠ 4 → 0x0201 ∉ usedIds ((onAir []).chan j)) ∧
    ((onAir []).port brk.port).owner = some 4 ∧ ((onAir []).port brk.port).mode = .live ∧
    (held.chan 4).entry 0x0201 = none ∧ (∀ j : Slot, j ≠ 4 → 0x0201 ∉ usedIds (held.chan j)) ∧ (held.chan 4).hold = [.brk brk] ∧
    (held.chan 4).activeBreak = none ∧ (held.port brk.port).owner = some 4 ∧ (held.port brk.port).mode = .drain ∧ NoneWaits held brk.port := by
  unfold Hears ToOwn fromStation NoneWaits usedIds records; decide +kernel

theorem witness_CueCancelEndsTheCueWhereverItStands_cutWait :
    Hears (awaitsCut []) ∧ ToOwn (awaitsCut []) (frameTo 12) ∧ ((awaitsCut []).chan 4).entry 0x0201 = some (entry .cutWait) ∧
    ((awaitsCut []).chan 4).state = .cutWait ∧ (∀ j : Slot, j ≠ 4 → 0x0201 ∉ usedIds ((awaitsCut []).chan j)) ∧
    ((awaitsCut []).port 2).owner = some 4 ∧ ((awaitsCut []).port 2).mode = .reserved ∧ NoneWaits (awaitsCut []) 2 ∧
    (∀ x ∈ ((awaitsCut []).chan 4).cues, x.waitsFor 2 = false) := by
  unfold Hears ToOwn fromStation NoneWaits usedIds records; decide +kernel

/-- The break of CUE_CANCEL in REJOIN_WAIT, and in RETURN_WAIT with a report due and with none. -/
theorem witness_CueCancelEndsTheCueWhereverItStands_waiting :
    Hears (rejoins []) ∧ ((rejoins []).chan 4).entry 0x0201 = none ∧ (∀ j : Slot, j ≠ 4 → 0x0201 ∉ usedIds ((rejoins []).chan j)) ∧
    ((rejoins []).chan 4).state = .rejoinWait ∧ ((rejoins []).port brk.port).owner = some 4 ∧ ((rejoins []).port brk.port).mode = .live ∧
    Hears (returnsOn .any (some (.brk brk)) none) ∧ ((returnsOn .any (some (.brk brk)) none).chan 4).entry 0x0201 = none ∧
    (∀ j : Slot, j ≠ 4 → 0x0201 ∉ usedIds ((returnsOn .any (some (.brk brk)) none).chan j)) ∧
    ((returnsOn .any (some (.brk brk)) none).chan 4).state = .returnWait ∧
    ((returnsOn .any (some (.brk brk)) none).chan 4).active = some (.brk brk) ∧
    ((returnsOn .afterBreak (some (.brk brk)) (some .scheduled)).chan 4).returnReport ≠ none := by
  unfold Hears usedIds records; decide +kernel

/-- Eight OBSERVE records. -/
def full : State :=
  { active with alerts := (List.range 8).map fun k => { record1 .observe 0 with alertId := BitVec.ofNat 16 k } }

theorem witness_AlertOnIsJudgedBeforeAnyChannelIsTouched :
    Hears active ∧ ToGroup active (frameTo 63) ∧ ToGroup active (frameTo 12) ∧ (inState .clash).station = .clash ∧
    (alertOnFields alertPayload).inverted = ~~~ ((alertOnFields alertPayload).region ++ (alertOnFields alertPayload).control) ∧
    (alertOnFields alertPayload).control.toNat < 16 ∧ 1 ≤ (alertOnFields alertPayload).control.toNat % 8 ∧
    ¬ 1 ≤ (alertOnFields (0x0E01#16 ++ 0x0000#16 ++ 0x00#8 ++ 0xFFFFFF#24 ++ 20#16 ++ 0#8)).control.toNat % 8 ∧
    held.alerts.find? (fun x => x.alertId == 0x0E01) = some (record1 .override 0x0010) ∧
    (record1 .override 0x0010).level = (alertOnFields alertPayload).level ∧
    (record1 .override 0x0010).scope = (alertOnFields alertPayload).scope ∧
    (alertOnFields (0x0E01#16 ++ 0x0000#16 ++ 0x03#8 ++ 0xFFFFFC#24 ++ 20#16 ++ 0#8)).level ≠ (record1 .override 0x0010).level ∧
    (∀ x ∈ active.alerts, x.alertId ≠ (alertOnFields alertPayload).alertId) ∧
    ({ active with window0 := RegionWindow.reset1 } : State).governing 0 .live = none ∧
    full.governing 0 .live = some RegionWindow.reset0 ∧ 8 ≤ full.alerts.length ∧
    (∀ x ∈ full.alerts, x.alertId ≠ (alertOnFields alertPayload).alertId) ∧ active.alerts.length < 8 ∧
    ({ active with window0 := { RegionWindow.reset0 with mode := .observe } } : State).governing 0 .live =
      some { RegionWindow.reset0 with mode := .observe } := by
  unfold Hears ToGroup fromStation; decide +kernel

/-- A second alert of the same level, 0E02h, for the channel under 0E01h. -/
def alertPayload2 : BitVec 88 := 0x0E02#16 ++ 0x0000#16 ++ 0x02#8 ++ 0xFFFFFD#24 ++ 20#16 ++ 0#8

theorem witness_OverrideAlertTakesTheChannelsOfItsWindow :
    Hears (onAir []) ∧ ToGroup (onAir []) (frameTo 63) ∧ (alertOnFields alertPayload).intact = true ∧
    (∀ x ∈ (onAir []).alerts, x.alertId ≠ (alertOnFields alertPayload).alertId) ∧
    (onAir []).governing 0 .live = some RegionWindow.reset0 ∧ (onAir []).alerts.length < 8 ∧ RegionWindow.reset0.mode = .override ∧
    inMask RegionWindow.reset0.channelSet 15 = true ∧ ((onAir []).chan 4).hold = [] ∧ ((onAir []).port brk.port).owner = some 4 ∧
    ((onAir []).port brk.port).mode = .live ∧ Hears held ∧ (alertOnFields alertPayload2).intact = true ∧
    (∀ x ∈ held.alerts, x.alertId ≠ (alertOnFields alertPayload2).alertId) ∧ (held.chan 4).hold.length < 3 ∧
    (alertOnFields alertPayload2).level ≤ ref1.level ∧ (∃ x ∈ held.alerts, x.alertId = ref1.alertId) ∧ (held.chan 4).state = .alert ∧
    (held.chan 4).active = some (.alert { ref1 with offset := some 0 }) ∧
    (∀ x ∈ records (held.chan 4), x.refersTo (alertOnFields alertPayload2).alertId = false) := by
  unfold Hears ToGroup fromStation; decide +kernel

/-- The window's set names channel 4 alone. -/
def narrow (s : State) : State := { s with window0 := { RegionWindow.reset0 with channelSet := slotMask 4 } }

/-- An alert reference of this id and level, without D. -/
def refOf (id : Ident) (level : Nat) : AlertRef := ⟨id, level, none⟩

/-- Channel 4 under an alert of this level over these records. -/
def stacked (level : Nat) (hold : List Record) : State :=
  narrow { (with4 { quietChan with state := .alert, active := some (.alert (refOf 9 level)), reader := some .awaiting, hold := hold }).setPort
    2 (owned .drain [] false) with alerts := [record1 .override 0x0010] }

/-- Each state of a channel that an OVERRIDE alert of level 2 meets where its window names the channel alone. -/
theorem witness_OverrideAlertTakesTheChannelsOfItsWindow_oneChannel :
    (narrow active).governing 0 .live = some { RegionWindow.reset0 with channelSet := slotMask 4 } ∧ Hears (narrow active) ∧
    ((narrow active).chan 4).state = .network ∧ ((narrow active).chan 4).active = none ∧
    Hears (narrow (awaitsCut [])) ∧ ((narrow (awaitsCut [])).chan 4).pendingEntry = some (entry .cutWait).cueId ∧
    ((narrow (awaitsCut [])).chan 4).entry 0x0201 = some (entry .cutWait) ∧ ((narrow (awaitsCut [])).chan 4).active = none ∧
    ((narrow (awaitsCut [])).port 2).owner = some 4 ∧ ((narrow (awaitsCut [])).port 2).mode ≠ .free ∧ NoneWaits (narrow (awaitsCut [])) 2 ∧
    (∀ x ∈ ((narrow (awaitsCut [])).chan 4).cues, x.waitsFor 2 = false) ∧
    Hears (narrow (returnsOn .any (some (.brk brk)) none)) ∧ NoneWaits (narrow (returnsOn .any (some (.brk brk)) none)) 2 ∧
    ((narrow (returnsOn .any (some (.brk brk)) none)).port 2).mode ≠ .free ∧
    Hears (narrow (onAir [])) ∧ ((narrow (onAir [])).chan 4).hold = [] := by
  unfold Hears NoneWaits; decide +kernel

/-- The ref of level 2 over one of level 1, and beneath one of level 7 on a full hold stack, with a break and with an alert at its bottom
and with a bottom of greater level; and one of level 7 over one of level 3 on a full stack. -/
theorem witness_OverrideAlertTakesTheChannelsOfItsWindow_stacks :
    Hears (stacked 1 []) ∧ ((stacked 1 []).chan 4).active = some (.alert (refOf 9 1)) ∧ (refOf 9 1).level < (alertOnFields alertPayload).level ∧
    (∀ x ∈ (stacked 7 []).alerts, x.alertId ≠ (alertOnFields alertPayload2).alertId) ∧ (alertOnFields alertPayload2).level < (refOf 9 7).level ∧
    ((stacked 7 [.brk brk, .alert (refOf 1 5), .alert (refOf 2 6)]).chan 4).hold = [.brk brk, .alert (refOf 1 5), .alert (refOf 2 6)] ∧
    (Record.brk brk).level < (alertOnFields alertPayload2).level ∧ (Record.alert (refOf 3 1)).level < (alertOnFields alertPayload2).level ∧
    (alertOnFields alertPayload2).level < (Record.alert (refOf 1 5)).level ∧
    ((stacked 7 [.brk brk, .alert (refOf 1 5), .alert (refOf 2 6)]).port 2).owner = some 4 ∧
    NoneWaits (stacked 7 [.brk brk, .alert (refOf 1 5), .alert (refOf 2 6)]) 2 ∧
    (alertOnFields (0x0E03#16 ++ 0x0000#16 ++ 0x07#8 ++ 0xFFFFF8#24 ++ 20#16 ++ 0#8)).intact = true ∧
    (refOf 9 3).level < (alertOnFields (0x0E03#16 ++ 0x0000#16 ++ 0x07#8 ++ 0xFFFFF8#24 ++ 20#16 ++ 0#8)).level ∧
    (Record.brk brk).level < (refOf 9 3).level ∧ (Record.alert (refOf 1 1)).level < (refOf 9 3).level ∧
    (Record.alert (refOf 2 2)).level < (refOf 9 3).level := by
  unfold Hears NoneWaits; decide +kernel

/-- The alert of section 6.10 with an empty set, and on channel 4 over nothing, a break and another alert. -/
theorem witness_EndedAlertLeavesTheTableAndItsChannels :
    held.isHeld = false ∧ Hears held ∧ ToGroup held (frameTo 63) ∧ word3 0x0E0100#24 = 0x0E01 ∧
    held.alerts.find? (fun x => x.alertId == 0x0E01) = some (record1 .override 0x0010) ∧
    (21000000#36 - (record1 .override 0x0010).limitStart).toNat ≤ (record1 .override 0x0010).limit ∧
    (record1 .override 0x0010).limit < (21000001#36 - (record1 .override 0x0010).limitStart).toNat ∧
    inMask (record1 .override 0x0010).channelSet 4 = true ∧ inMask (record1 .override 0x0010).channelSet 3 = false ∧
    (held.chan 4).hold.getLast? = some (.brk brk) ∧ ((underAlert .alert .awaiting (some 0) []).chan 4).hold = [] ∧
    ((underAlert .alert .awaiting (some 0) [.alert ⟨0x0E00, 1, none⟩]).chan 4).hold.getLast? = some (.alert ⟨0x0E00, 1, none⟩) ∧
    (100000 * held.rejoinMinByte.toNat : Int) < signed brk.returnPoint 59999999 ∧
    signed brk.returnPoint 60000000 ≤ 100000 * held.rejoinMinByte.toNat ∧
    full.alerts.find? (fun x => x.alertId == 7) = some { record1 .observe 0 with alertId := 7 } ∧
    (∀ x ∈ active.alerts, x.alertId ≠ 0x0E01) := by
  unfold Hears ToGroup fromStation; decide +kernel

/-- The set of one channel: nothing beneath, an alert beneath, a held break with 2,000,001 µs, 2,000,000 µs and nothing left, and the alert
itself held; and a set whose channels hold no break. -/
theorem witness_EndedAlertLeavesTheTableAndItsChannels_oneChannel :
    (record1 .override 0x0010).channelSet = slotMask 4 ∧ (held.chan 4).active = some (.alert { ref1 with offset := some 0 }) ∧
    (held.chan 4).hold.getLast? = some (.brk brk) ∧ (held.port 2).owner = some 4 ∧ (held.port 2).mode = .drain ∧ NoneWaits held 2 ∧
    (100000 * held.rejoinMinByte.toNat : Int) < signed brk.returnPoint 59999999 ∧
    signed brk.returnPoint 60000000 ≤ 100000 * held.rejoinMinByte.toNat ∧ ¬ signed brk.returnPoint 60000000 ≤ 0 ∧
    signed brk.returnPoint 62000000 ≤ 0 ∧ ((underAlert .alert .awaiting (some 0) []).chan 4).hold = [] ∧
    ((underAlert .alert .awaiting (some 0) [.alert ⟨0x0E00, 1, none⟩]).chan 4).hold.getLast? = some (.alert ⟨0x0E00, 1, none⟩) ∧
    (∀ x ∈ ((underAlert .alert .awaiting (some 0) [.alert ⟨0x0E00, 1, none⟩]).chan 4).hold, x.break? = none) ∧
    ((stacked 7 [.alert ref1]).chan 4).active = some (.alert (refOf 9 7)) ∧ (refOf 9 7).alertId ≠ 0x0E01 := by
  unfold NoneWaits; decide +kernel

/-- The ring with one unit start at position 0. -/
def fed (s : State) : State := after (.alertCellArrival 1000000 (cellOf 0 true true 7200000)) s

/-- The held break with its channel's clock locked at this channel and station time. -/
def heldLong (x : Time) : State := held.setChan 4 { held.chan 4 with clock := ⟨.locked, x, x⟩ }

theorem witness_AlertIsCutToAndCarriedFromTheRing :
    Reaches (fed (underAlert .alertWait .awaiting none [])) 4 (pointAt 3000001) ∧
    Undisturbed ((underAlert .alertWait .awaiting none []).chan 4) 3000000 (pointAt 3000000) ∧
    ((fed (underAlert .alertWait .awaiting none [])).chan 4).reader = some (.positioned 0 1) ∧
    (fed active).ring.cells[0] = some (cellOf 0 true true 7200000) ∧
    ((underAlert .alertWait .awaiting none []).chan 4).reader = some .awaiting ∧
    (3000000#36 - ((underAlert .alertWait .awaiting none []).chan 4).alertWaitTime).toNat ≤ 2000000 ∧
    2000000 < (3000001#36 - ((underAlert .alertWait .awaiting none []).chan 4).alertWaitTime).toNat ∧
    ((underAlert .alert (.positioned 0 0) (some 0) []).chan 4).state = .alert ∧
    Undisturbed ((underAlert .alert (.positioned 0 0) (some 0) []).chan 4) 3000000 (pointAt 3000000) ∧
    (underAlert .alertWait .awaiting none []).isHeld = false ∧ active.isHeld = false ∧ (active.chan 4).state ≠ .alertWait := by
  unfold Reaches Undisturbed; decide +kernel

/-- A held break an hour past its return point, and one µs more. -/
theorem witness_AlertIsCutToAndCarriedFromTheRing_stale :
    Reaches (heldLong 3662000001) 4 (pointAt 3662000001) ∧
    Undisturbed { (heldLong 3662000001).chan 4 with hold := [] } 3662000001 (pointAt 3662000001) ∧
    ((heldLong 3662000001).chan 4).state = .alert ∧ ((heldLong 3662000001).chan 4).hold = [.brk brk] ∧
    ((heldLong 3662000001).chan 4).reader = some .awaiting ∧ signed brk.returnPoint 3662000001 < -3600000000 ∧
    -3600000000 ≤ signed brk.returnPoint 3662000000 ∧ ((heldLong 3662000001).port 2).owner = some 4 ∧
    ((heldLong 3662000001).port 2).mode ≠ .free ∧ NoneWaits (heldLong 3662000001) 2 := by
  unfold Reaches Undisturbed NoneWaits; decide +kernel

theorem witness_RightsAreJudgedInOrderAndApplied :
    Hears cued ∧ ToOwn cued (frameTo 12) ∧ CuesLaw cued ∧ cued.station = .active ∧ last3 0xFFFF00#24 ≠ 1 ∧ last3 0xFFFF03#24 ≠ 2 ∧
    last3 0xFFFF01#24 = 1 ∧ last3 0xFFFF02#24 = 2 ∧ cued.lock = false ∧ ({ cued with lock := true } : State).lock = true ∧
    (∃ i : Slot, inMask (word3 0x001002#24) i = true ∧ ((with4 { quietChan with fixed := true }).chan i).fixed = true ∧
      ((with4 { quietChan with fixed := true }).chan i).rights ≠ .guarded) ∧
    (∃ i : Slot, inMask (word3 0x001002#24) i = true ∧ (∃ r ∈ records ((onAir []).chan i), r.break?.isSome = true)) ∧
    ¬ (∃ i : Slot, inMask (word3 0xFFFF02#24) i = true ∧
      ((∃ r ∈ records (cued.chan i), r.break?.isSome = true) ∨ (cued.chan i).pendingEntry.isSome = true)) ∧
    ¬ (∃ i : Slot, inMask (word3 0xFFFF02#24) i = true ∧ (cued.chan i).fixed = true ∧ (cued.chan i).rights ≠ .guarded) := by
  refine ⟨?_, ?_, cued_cuesLaw, ?_⟩
  · unfold Hears; decide +kernel
  · unfold ToOwn fromStation; decide +kernel
  · unfold records; decide +kernel

theorem witness_RightsLockFollowsItsTable :
    Hears active ∧ ToOwn active (frameTo 12) ∧ active.station = .active ∧ active.lock = false ∧ active.rlk = false ∧
    (0x01#8 : BitVec 8) = 1 ∧ (0x02#8 : BitVec 8) = 2 ∧ (0x03#8 : BitVec 8) ≠ 1 ∧ (0x03#8 : BitVec 8) ≠ 2 := by
  unfold Hears ToOwn fromStation; decide +kernel

theorem witness_RightsFixNeedsPermissionAndNoLock :
    Hears active ∧ ToOwn active (frameTo 12) ∧ active.fixPermitted = false ∧
    ({ active with fixPermitted := true } : State).lock = false ∧ (inState .clash).station = .clash := by
  unfold Hears ToOwn fromStation; decide +kernel

/-- A MISSED report of the own cue 0202h in flight, which the follower of the own cue awaits. -/
def ownMissed : TxFrame := ⟨.cut 116 .missed 0x0202 .noCutPoint 0 0, 3, true⟩

/-- A full queue of PRESENT frames, the first in flight. -/
def eight : State := sending (waiting 0 true :: List.replicate 7 (waiting 0 false)) .frame

/-- PRESENT's first bit is a 1, its second a 0; a MISSED report displaces one of eight, and a ninth PRESENT is dropped. -/
theorem witness_TransmitterQueuesReportsAndStartsTheHead :
    (sending [waiting 0 false] .quiet).isHeld = false ∧ InService (sending [waiting 0 false] .quiet) ∧
    (sending [waiting 0 false] .quiet).line.rx = .quiet ∧ (sending [waiting 0 false] .quiet).line.queue = [waiting 0 false] ∧
    (waiting 0 false).inFlight = false ∧ ¬ InService (inState .clash) ∧
    (sending [waiting 0 true] .frame).line.queue.find? (fun g => g.inFlight) = some (waiting 0 true) ∧
    sentBit ((waiting 0 true).report.frameBytes 12) 0 = some true ∧ sentBit ((waiting 0 true).report.frameBytes 12) 1 ≠ some true ∧
    (sending [waiting 0 false] .quiet).line.dominant = false ∧ (sending [waiting 0 false] .quiet).line.queue.length < 8 ∧
    8 ≤ eight.line.queue.length ∧ InService eight ∧ (waiting 0 false).inFlight = false ∧
    eight.line.queue = [waiting 0 true] ++ waiting 0 false :: List.replicate 6 (waiting 0 false) ∧
    (∀ g ∈ eight.line.queue, g.inFlight = false → g.report.priority ≤ (waiting 0 false).report.priority) ∧
    (∀ g ∈ [waiting 0 true], g.inFlight = true ∨ g.report.priority ≠ (waiting 0 false).report.priority) ∧
    ownMissed.report.priority < (waiting 0 false).report.priority := by
  unfold InService; decide +kernel

theorem witness_FrameInFlightIsSentCleanRetriedOrAbandoned :
    (sending [ownMissed] .frame).isHeld = false ∧ (sending [ownMissed] .frame).line.queue.find? (fun g => g.inFlight) = some ownMissed ∧
    (∃ x ∈ ({ quietChan with cues := [{ follower with trigger := .peer 12 0x0202 0 }] } : Channel).cues, x.awaits 12 0x0202 = true) ∧
    (sentBit (ownMissed.report.frameBytes 12) 24).isSome = true ∧ sentBit (ownMissed.report.frameBytes 12) 0 = some false ∧
    sentBit (ownMissed.report.frameBytes 12) 1 = some true ∧ sentBit (ownMissed.report.frameBytes 12) 120 = none ∧
    (waiting 2 true).retries < 3 ∧ 3 ≤ ownMissed.retries := by decide +kernel

/-- The follower of the own cue 0202h, and the CUT_IN of it in flight. -/
def ownFollower : CueEntry := { follower with trigger := .peer 12 0x0202 2000 }
def ownCutIn : TxFrame := ⟨.cut 116 .cutIn 0x0202 .scheduled 3000000 0, 0, true⟩

/-- Station 12 sends its own CUT_IN while channel 4 has the follower and this record. -/
def followsOwn (k : ClockState) (r : Option Record) : State :=
  { with4 { quietChan with clock := ⟨k, 1000000, 1000000⟩, active := r, cues := [ownFollower] } with
    line := { active.line with queue := [ownCutIn], rx := .frame } }

/-- The splice time of 5 s is 4 s ahead, or 500,001 µs behind at 5.500001 s, and falls in the break on air, but not in one that has ended. -/
theorem witness_FrameInFlightIsSentCleanRetriedOrAbandoned_ownCutIn :
    (followsOwn .locked none).isHeld = false ∧ (followsOwn .locked none).line.queue.find? (fun g => g.inFlight) = some ownCutIn ∧
    ((followsOwn .locked none).chan 4).cues = [ownFollower] ∧ ownFollower.awaits 12 0x0202 = true ∧
    (∀ j : Slot, j ≠ 4 → ¬ ∃ x ∈ ((followsOwn .locked none).chan j).cues, x.awaits 12 0x0202 = true) ∧
    ((followsOwn .acquiring none).chan 4).clock.state ≠ .locked ∧ ((followsOwn .locked none).chan 4).clock.state = .locked ∧
    signed (3000000 + BitVec.ofNat 36 (1000 * 2000)) (1000000 + (1000000 - 1000000)) = 4000000 ∧
    signed (3000000 + BitVec.ofNat 36 (1000 * 2000)) (1000000 + (5500001 - 1000000)) = -500001 ∧
    ((followsOwn .locked (some (.brk brk))).chan 4).breakRecord = some brk ∧ ((followsOwn .locked none).chan 4).breakRecord = none ∧
    intervalsOverlap 5000000 (1000 * ownFollower.duration) (brk.returnPoint - BitVec.ofNat 36 (1000 * brk.duration))
      (1000 * brk.duration) = true := by decide +kernel

/-- The limits of each observation: a run of 39, 40, 56, 57, 159 and 160 µs in QUIET, of 7 and 8 µs in FRAME, of 1 and 2 µs; a pause
after 7 and 8 slots; an edge 9 and 10 µs after the one before, 23 and 24 µs after the byte, and 33 µs after it in an ack window. -/
theorem witness_DisturbancesCountAndLeadToRecover :
    active.isHeld = false ∧ active.line.rx = .quiet ∧ (sending [] .frame).line.rx = .frame ∧ (sending [] .recover).line.rx = .recover ∧
    (sending [] (.window ⟨.ack, 0, .silent⟩)).line.rx = .window ⟨.ack, 0, .silent⟩ ∧
    (isLineError (.run 39) .quiet = true ∧ isLineError (.run 40) .quiet = false ∧ isLineError (.run 56) .quiet = false ∧
      isLineError (.run 57) .quiet = true ∧ isLineError (.run 159) .quiet = true ∧ isLineError (.run 160) .quiet = false ∧
      isLineError (.run 1) .quiet = false ∧ isLineError (.run 2) .quiet = true ∧ isLineError (.run 7) .frame = false ∧
      isLineError (.run 8) .frame = true ∧ isLineError (.earlyEdge 6) .frame = true ∧ isLineError (.earlyEdge 7) .frame = false ∧
      isLineError (.pause 7 2) .frame = true ∧ isLineError (.pause 8 2) .frame = false ∧ isLineError (.lateEdge 9 23) .frame = false ∧
      isLineError (.lateEdge 10 23) .frame = true ∧ isLineError (.lateEdge 10 24) .frame = false ∧
      isLineError (.lateEdge 34 32) (.window ⟨.ack, 0, .silent⟩) = false ∧ isLineError (.lateEdge 34 33) (.window ⟨.ack, 0, .silent⟩) = true ∧
      isLineError (.lateEdge 34 24) (.window ⟨.none, 0, .silent⟩) = true ∧ isLineError .extraByte .recover = false) ∧
    checkByte [0x50#8, 63, 20, 0].dropLast ≠ [0x50#8, 63, 20, 0].getLastD 0 ∧
    checkByte [0x4D#8, 12, 40, checkByte [0x4D#8, 12, 40]].dropLast = [0x4D#8, 12, 40, checkByte [0x4D#8, 12, 40]].getLastD 0 ∧
    FrameKind.setupDone.value = (0x4D#8).extractLsb' 0 5 ∧ judgeFrame [0x4E#8, 12, 40, checkByte [0x4E#8, 12, 40]] = .unknownKind ∧
    judgeFrame [0x4D#8, 12, 40, 0, checkByte [0x4D#8, 12, 40, 0]] = .lengthError := by decide +kernel

/-- A group-list window with room for one more byte and one with none, the limits of the gap, and the values of a byte and of its first
slot that decide: 0Bh, 0Ch and 0Dh, and 81h against an ack of 01h. -/
theorem witness_ResponseByteMovesTheWindowOn :
    (sending [] (.window ⟨.groupList, 7, .number⟩)).isHeld = false ∧
    (sending [] (.window ⟨.groupList, 7, .number⟩)).line.rx = .window ⟨.groupList, 7, .number⟩ ∧ InService (sending [] .quiet) ∧
    (0x0B#8 : Byte) < (12#6 : StationNo).setWidth 8 ∧ ((12#6 : StationNo).setWidth 8 : Byte) = 0x0C#8 ∧
    ((12#6 : StationNo).setWidth 8 : Byte).toNat / 2 ^ (8 - 8) < (0x0D#8).toNat / 2 ^ (8 - 8) ∧
    (0x81#8).toNat / 2 ^ (8 - 1) ≠ OutcomeCode.accepted.value.toNat / 2 ^ (8 - 1) ∧
    (0x01#8).toNat / 2 ^ (8 - 8) = OutcomeCode.accepted.value.toNat / 2 ^ (8 - 8) ∧ ¬ InService (inState .clash) ∧
    ¬ InService (inState .listen) ∧ (24 ≤ 24 ∧ 32 ≤ 32 ∧ 23 < 24 ∧ 32 < 33 ∧ 7 < 8 ∧ 8 ≤ 8) ∧ active.line.rx = .quiet ∧
    (sending [] .frame).line.rx = .frame ∧ (sending [] .recover).line.rx = .recover := by
  unfold InService; decide +kernel

/-- Floor 11 lets station 12 answer and floor 12 does not. -/
theorem witness_QueryIsAnsweredByConditionOrStartLatch :
    Hears active ∧ ToGroup active (frameTo 63) ∧ InService active ∧ (queryFields 0x0BFFFF03#32).floor < active.stationNumber.toNat ∧
    ¬ (queryFields 0x0CFFFF03#32).floor < active.stationNumber.toNat ∧ active.startLatch = true ∧ (inState .clash).station = .clash := by
  unfold Hears ToGroup fromStation InService; decide +kernel

theorem witness_LatchClearClearsTheNamedLatches :
    Hears active ∧ ToGroup active (frameTo 63) ∧ InService active ∧ (inState .clash).station = .clash ∧
    Hears (inState .strapFault) ∧ ToGroup (inState .strapFault) (frameTo 63) ∧ Hears (inState .listen) ∧
    ToGroup (inState .listen) (frameTo 12) := by
  unfold Hears ToGroup fromStation InService; decide +kernel

/-- The first and the last index of each item, and the first beyond it. -/
theorem witness_StateReadAnswersWithThePage :
    Hears active ∧ ToOwn active (frameTo 12) ∧ InService active ∧ SettingsLaw active ∧ (inState .clash).station = .clash ∧
    ((0x000F#16).extractLsb' 8 8).toNat = 0 ∧ ((0x000F#16).extractLsb' 0 8).toNat = 15 ∧ ((0x011F#16).extractLsb' 0 8).toNat = 16 + 15 ∧
    ((0x0207#16).extractLsb' 0 8).toNat = 4 + 3 ∧ ((0x0303#16).extractLsb' 8 8).toNat = 3 ∧ 4 ≤ ((0x0400#16).extractLsb' 8 8).toNat ∧
    (active.page 0x04 0x00).head? = some 0xFF#8 ∧ (active.page 0x00 0x10).head? = some 0xFF#8 := by
  unfold Hears ToOwn fromStation InService SettingsLaw; decide +kernel

theorem witness_PackedPagesCarryTheirFields :
    (held.chan 4).active = some (.alert { ref1 with offset := some 0 }) ∧ ((onAir []).chan 4).active = some (.brk brk) ∧
    (active.chan 4).active = none ∧ (held.chan 4).hold.length ≤ 3 ∧ (held.chan 4).cues.length ≤ 8 ∧ (held.port 2).owner = some 4 ∧
    (∀ x : PortId, x ≠ 2 → (held.port x).owner ≠ some 4) ∧ (∀ x : PortId, (active.port x).owner ≠ some 4) ∧
    (active.port 2).owner = none ∧ (held.port 2).queue.length ≤ 48 := by decide +kernel

theorem witness_SetupFramesSetTheSetupValues :
    Hears (inState .setup) ∧ ToOwn (inState .setup) (frameTo 12) ∧ (inState .setup).station = .setup ∧
    (inState .clash).station = .clash ∧ active.station = .active ∧
    setupWindowOf 0x01120000FF00010001#72 = some ⟨0x1200, 0x00FF, .liveOnly, .observe, 0x0001⟩ ∧
    (0x01120000FF00010001#72).extractLsb' 24 8 = 0#8 ∧ (0x01120000FF00010001#72).extractLsb' 16 8 = 1#8 ∧
    1 < ((0x02120000FF00010001#72).extractLsb' 64 8).toNat ∧ setupWindowOf 0x01120000FF04010001#72 = none ∧
    setupWindowOf 0x01120000FF00020001#72 = none := by
  unfold Hears ToOwn fromStation; decide +kernel

/-- A station that has sent no line break and one whose break ends at 1000200, with a frame in flight, a response to send and neither, and
the times at the limits. -/
theorem witness_QuietLineAndSetupWindowJoinTheStation :
    (inState .listen).isHeld = false ∧ (inState .listen).station = .listen ∧ (sending [] .recover).line.rx = .recover ∧
    (sending [] .quiet).line.rx = .quiet ∧ 64 ≤ (64#36 - (inState .listen).line.recessiveSince).toNat ∧
    (63#36 - (inState .listen).line.recessiveSince).toNat < 64 ∧ (inState .listen).line.dominant = false ∧
    (after (.lineBreak 1000000) active).line.dominant = true ∧ 64 ≤ (1000064#36 - (after (.lineBreak 1000000) active).line.recessiveSince).toNat ∧
    100000 ≤ (100000#36 - (inState .listen).quietStart).toNat ∧
    (99999#36 - (inState .listen).quietStart).toNat < 100000 ∧ (inState .setup).station = .setup ∧
    2000000 < (2000001#36 - (inState .setup).setupStart).toNat ∧ (2000000#36 - (inState .setup).setupStart).toNat ≤ 2000000 ∧
    (sending [] .recover).line.ownBreak = none ∧ breaking.line.ownBreak = some 1000000 ∧ breaking.isHeld = false ∧
    264 ≤ (1000264#36 - 1000000#36).toNat ∧ (1000263#36 - 1000000#36).toNat < 264 ∧ 64 ≤ (1000263#36 - breaking.line.recessiveSince).toNat ∧
    breaking.line.queue.map (·.inFlight) = [false] ∧ (sending [] .recover).line.queue = [] ∧
    (sending [waiting 0 true] .quiet).line.queue.map (·.inFlight) = [true] ∧ active.station = .active ∧
    (sending [] (.window ⟨.ack, 0, .ack .accepted⟩)).line.rx = .window ⟨.ack, 0, .ack .accepted⟩ ∧
    Decision.ack .accepted ≠ .silent := by
  decide +kernel

theorem witness_ClashIsEnteredOnAPresentWithTheOwnNumber :
    Hears active ∧ fromStation ⟨4, 63, 12⟩ ∧ (⟨4, 63, 12⟩ : FrameHeader).destination.toNat < 64 ∧ InService active ∧
    (⟨4, 63, 12⟩ : FrameHeader).source = active.stationNumber.setWidth 8 ∧
    (⟨4, 63, 13⟩ : FrameHeader).source ≠ active.stationNumber.setWidth 8 ∧ (inState .clash).station = .clash ∧
    (inState .strapFault).station = .strapFault ∧ active.station ≠ .listen ∧ Hears (inState .listen) ∧
    (inState .listen).station = .listen ∧ (⟨4, 63, 12⟩ : FrameHeader).source = (inState .listen).stationNumber.setWidth 8 := by
  unfold Hears fromStation InService; decide +kernel

theorem witness_ListenAndStrapFaultTakeNoCommand :
    frameOf (.setupDone 1000000 (frameTo 12)) = some (1000000, frameTo 12, .setupDone, receivedBytes .setupDone (frameTo 12) 0#0) ∧
    Hears (inState .listen) ∧ Hears (inState .strapFault) ∧
    fromStation (frameTo 12) ∧ (frameTo 12).destination.toNat < 64 ∧ (∀ i : Slot, ((inState .listen).chan i).cues = []) ∧
    (inState .listen).station = .listen ∧ (inState .strapFault).station = .strapFault ∧
    (frameTo 12).source ≠ (inState .listen).stationNumber.setWidth 8 := by
  unfold Hears fromStation; decide +kernel

theorem witness_ControlsChangeUnderTheirOwnCommandsAlone :
    exec (.noisePulse 0) active = .next (after (.noisePulse 0) active) ∧ isReset (.noisePulse 0) = false := ⟨rfl, rfl⟩

theorem witness_StationStateMovesAsItsTable :
    exec (.quietPeriodEnd 100000) (inState .listen) = .next (after (.quietPeriodEnd 100000) (inState .listen)) ∧
    isReset (.quietPeriodEnd 100000) = false ∧ (after (.quietPeriodEnd 100000) (inState .listen)).station ≠ (inState .listen).station :=
  ⟨rfl, rfl, by decide +kernel⟩

/-- A state with this command in front. -/
def queued (c : Instr) (s : State) : State := { s with pending := [c] }

/-- The alert ends over the held break: a command that moves table, channel, port and transmit queue. -/
def ending : Instr := .alertExpiry 21000001 0x0E01

theorem witness_StepKeepsTheAlertTableLaw :
    AlertTableLaw (queued ending held) ∧ step (queued ending held) = .next (after ending held) := by
  refine ⟨?_, rfl⟩
  unfold AlertTableLaw; decide +kernel

theorem witness_StepKeepsTheGuardDriveAndSettingsLaws :
    GuardLaw (queued ending held) ∧ DriveLaw (queued ending held) ∧ SettingsLaw (queued ending held) ∧
    step (queued ending held) = .next (after ending held) := by
  refine ⟨?_, ?_, ?_, rfl⟩
  · unfold GuardLaw records; decide +kernel
  · unfold DriveLaw; decide +kernel
  · unfold SettingsLaw; decide +kernel

theorem held_channelsLaw : ChannelsLaw held :=
  all_of_with4 (channelLaw_of_alert (b := brk) rfl rfl rfl (by decide) rfl rfl rfl rfl rfl) quietChan_law

theorem held_cuesLaw : CuesLaw held := ⟨all_of_with4 (cueLaw_of_empty rfl rfl (by decide)) quietChan_cueLaw, by decide +kernel⟩

theorem witness_StepKeepsThePortLaws :
    PortsLaw (queued ending held) ∧ ChannelsLaw (queued ending held) ∧ CuesLaw (queued ending held) ∧ BindingLaw (queued ending held) ∧
    boundPort (held.chan 4) = some (2, .drain, false) ∧ step (queued ending held) = .next (after ending held) := by
  refine ⟨?_, held_channelsLaw, held_cuesLaw, ?_, by decide +kernel, rfl⟩
  · unfold PortsLaw PortLaw HoldPinLaw; decide +kernel
  · have free : ∀ i p, i ≠ (4 : Slot) ∨ p ≠ (2 : PortId) → (held.port p).owner ≠ some i := by decide +kernel
    have bare : ∀ i : Slot, i ≠ 4 → boundPort (held.chan i) = none := by decide +kernel
    have bound : boundPort (held.chan 4) = some (2, (held.port 2).mode, (held.port 2).seeking) := by decide +kernel
    refine ⟨fun h => absurd h (by decide +kernel), fun i p => ⟨fun h => ?_, fun m k h => ?_⟩⟩
    · by_cases e : i = 4 ∧ p = 2
      · rw [e.1, e.2]; exact bound
      · exact absurd h (free i p (by tauto))
    · by_cases e : i = 4
      · subst e
        have h' : boundPort (held.chan 4) = some (p, m, k) := h
        rw [bound] at h'
        cases h'
        exact (by decide +kernel : (held.port 2).owner = some 4)
      · have h' : boundPort (held.chan i) = some (p, m, k) := h
        rw [bare i e] at h'
        cases h'

theorem witness_StepKeepsTheTransmitQueueLaw :
    TxQueueLaw (queued (.bitError 1000000 24) (sending [waiting 3 true, waiting 0 false] .frame)) ∧
    step (queued (.bitError 1000000 24) (sending [waiting 3 true, waiting 0 false] .frame)) =
      .next (after (.bitError 1000000 24) (sending [waiting 3 true, waiting 0 false] .frame)) := by
  refine ⟨?_, rfl⟩
  unfold TxQueueLaw; decide +kernel

/-- One cell of slot 4 sent, and the next one in front. -/
def sentOne : State := queued (.networkCellArrival 1008000 (cellOf 116 false true 1008000))
  (after (.networkCellArrival 1004000 (cellOf 116 true true 1004000)) active)

theorem witness_StepKeepsTheSequenceLaw :
    SequenceLaw sentOne ∧ (sentFor sentOne 4).length = 1 ∧
    step sentOne = .next (after (.networkCellArrival 1008000 (cellOf 116 false true 1008000)) { sentOne with pending := [] }) := by
  refine ⟨?_, ?_, rfl⟩
  · unfold SequenceLaw sentFor; decide +kernel
  · unfold sentFor; decide +kernel

theorem witness_StepKeepsTheChannelRecordLaw :
    ChannelsLaw (queued ending held) ∧ step (queued ending held) = .next (after ending held) := ⟨held_channelsLaw, rfl⟩

theorem witness_StepKeepsTheRingLaw :
    RingLaw (queued (.alertCellArrival 1000000 (cellOf 0 true true 0)) (fed active)) ∧ (fed active).ring.newest = some 0 ∧
    step (queued (.alertCellArrival 1000000 (cellOf 0 true true 0)) (fed active)) =
      .next (after (.alertCellArrival 1000000 (cellOf 0 true true 0)) (fed active)) := by
  have h : ∀ i : Slot, ((fed active).chan i).reader = none := by decide +kernel
  refine ⟨⟨by decide +kernel, fun i p n k => ?_⟩, by decide +kernel, rfl⟩
  have : ((fed active).chan i).reader = some (.positioned p n) := k
  rw [h i] at this
  cases this

theorem witness_StepKeepsTheCueLaw :
    ChannelsLaw (queued (.cueCancel 1000000 (frameTo 12) 0x0201) cued) ∧ CuesLaw (queued (.cueCancel 1000000 (frameTo 12) 0x0201) cued) ∧
    TimedLaw (queued (.cueCancel 1000000 (frameTo 12) 0x0201) cued) ∧ TimedLaw waitsAmong ∧
    step (queued (.cueCancel 1000000 (frameTo 12) 0x0201) cued) = .next (after (.cueCancel 1000000 (frameTo 12) 0x0201) cued) := by
  refine ⟨cued_channelsLaw, cued_cuesLaw, ?_, ?_, rfl⟩ <;> (unfold TimedLaw; decide +kernel)

theorem witness_StepKeepsTheIdAndLossLaws :
    ChannelsLaw (queued ending held) ∧ CuesLaw (queued ending held) ∧ IdLaw (queued ending held) ∧ LossLaw (queued ending held) ∧
    step (queued ending held) = .next (after ending held) := by
  refine ⟨held_channelsLaw, held_cuesLaw, ?_, ?_, rfl⟩
  · unfold IdLaw usedIds records; decide +kernel
  · unfold LossLaw records; decide +kernel

theorem witness_StepKeepsTheKeyAndChannelSetLaws :
    AlertTableLaw (queued ending held) ∧ ChannelsLaw (queued ending held) ∧ KeyLaw (queued ending held) ∧
    ChannelSetLaw (queued ending held) ∧ step (queued ending held) = .next (after ending held) := by
  refine ⟨by unfold AlertTableLaw; decide +kernel, held_channelsLaw, ?_, ?_, rfl⟩
  · have h1 : ∀ i : Slot, ((queued ending held).chan i).hold.Pairwise (fun l u => (queued ending held).keyGreater u l = true) ∧
        (∀ top ∈ ((queued ending held).chan i).active, ∀ r ∈ ((queued ending held).chan i).hold,
          (queued ending held).keyGreater top r = true) := by decide +kernel
    have h2 : ∀ i : Slot, ∀ r ∈ records ((queued ending held).chan i),
        r = .brk brk ∨ r = .alert { ref1 with offset := some 0 } := by unfold records; decide +kernel
    refine fun i => ⟨(h1 i).1, (h1 i).2, fun a ha => ⟨record1 .override 0x0010, List.mem_singleton.mpr rfl, ?_⟩⟩
    rcases h2 i _ ha with e | e <;> cases e
    exact ⟨rfl, rfl, rfl⟩
  · unfold ChannelSetLaw records; decide +kernel

end Sys2Proof.Tests
end

section
/-!
What the operations of a slot event do to the channel clocks (chapter 2). Only stamp arrival and the loss of the clock write a
clock record; every other operation leaves every channel's clock as it was, said once per operation.
-/
namespace Sys2Proof.Machine

/-! ## Channel records: changes that leave the clock alone -/

@[simp] theorem Channel.modEntry_clock (c : Channel) (cueId : Ident) (f : CueEntry → CueEntry) :
    (c.modEntry cueId f).clock = c.clock := rfl
@[simp] theorem Channel.dropEntry_clock (c : Channel) (cueId : Ident) : (c.dropEntry cueId).clock = c.clock := rfl
@[simp] theorem Channel.enterCutWait_clock (c : Channel) (cueId : Ident) : (c.enterCutWait cueId).clock = c.clock := rfl
@[simp] theorem Channel.leaveCutWait_clock (c : Channel) : c.leaveCutWait.clock = c.clock := rfl
@[simp] theorem Channel.markCut_clock (c : Channel) : c.markCut.clock = c.clock := rfl
@[simp] theorem Channel.afterSend_clock (c : Channel) : c.afterSend.clock = c.clock := rfl
@[simp] theorem Channel.enterNetwork_clock (c : Channel) : c.enterNetwork.clock = c.clock := rfl
@[simp] theorem Channel.enterReturnWait_clock (c : Channel) (k : ReturnCondition) (r : Option ReturnReport) :
    (c.enterReturnWait k r).clock = c.clock := rfl
@[simp] theorem Channel.dropHeldBreak_clock (c : Channel) : c.dropHeldBreak.clock = c.clock := rfl

@[simp] theorem Channel.dropBreak_clock (c : Channel) : c.dropBreak.clock = c.clock := by
  unfold Channel.dropBreak
  split <;> rfl

@[simp] theorem Channel.afterLoss_clock (c : Channel) : c.afterLoss.clock = c.clock := by
  unfold Channel.afterLoss
  split <;> rfl

/-! ## One channel, the line, the output -/

/-- The clock of a channel after one has been changed; where the change leaves the record's clock alone, both branches agree. -/
@[simp] theorem State.modChan_clock (s : State) (i j : Slot) (f : Channel → Channel) :
    ((s.modChan i f).chan j).clock = if j = i then (f (s.chan j)).clock else (s.chan j).clock := by
  rw [State.modChan_chan, apply_ite Channel.clock]

@[simp] theorem State.send_clock (s : State) (i j : Slot) (c : StreamCell) : ((s.send i c).chan j).clock = (s.chan j).clock :=
  (s.modChan_clock i j Channel.afterSend).trans (ite_self _)

@[simp] theorem State.sendFill_clock (s : State) (i j : Slot) : ((s.sendFill i).chan j).clock = (s.chan j).clock := by
  simp [State.sendFill]

@[simp] theorem State.offer_chan (s : State) (r : Report) (j : Slot) : (s.offer r).chan j = s.chan j := by
  unfold State.offer
  split <;> rfl

@[simp] theorem State.raiseCut_chan (s : State) (i j : Slot) (k : CutKind) (r : CutReason) (id : Ident) (x : Time) (l : Byte) :
    (s.raiseCut i k r id x l).chan j = s.chan j := s.offer_chan _ j

@[simp] theorem State.raiseBreak_chan (s : State) (i j : Slot) (k : CutKind) (r : CutReason) (b : BreakRecord) :
    (s.raiseBreak i k r b).chan j = s.chan j := s.offer_chan _ j

/-- A fold of operations that leave a clock alone leaves it alone. -/
theorem State.foldl_clock {α : Type} {f : State → α → State} {j : Slot}
    (hf : ∀ s a, ((f s a).chan j).clock = (s.chan j).clock) (l : List α) (s : State) :
    ((l.foldl f s).chan j).clock = (s.chan j).clock := by
  induction l generalizing s with
  | nil => rfl
  | cons a l ih => exact (ih _).trans (hf s a)

/-! ## Ports and entries (R10, R76) -/

@[simp] theorem State.arbitrate_clock (s : State) (p : PortId) (j : Slot) : ((s.arbitrate p).chan j).clock = (s.chan j).clock := by
  unfold State.arbitrate
  split <;> simp

@[simp] theorem State.releasePort_clock (s : State) (i j : Slot) (p : PortId) :
    ((s.releasePort i p).chan j).clock = (s.chan j).clock := by
  unfold State.releasePort
  split <;> simp

@[simp] theorem State.drainTruncating_clock (s : State) (i j : Slot) (p : PortId) :
    ((s.drainTruncating i p).chan j).clock = (s.chan j).clock := by simp [State.drainTruncating]

@[simp] theorem State.leaveEntry_clock (s : State) (i j : Slot) (e : CueEntry) (k : CutKind) (r : CutReason) :
    ((s.leaveEntry i e k r).chan j).clock = (s.chan j).clock := by
  simp only [State.leaveEntry]
  split <;> simp

@[simp] theorem State.missEntry_clock (s : State) (i j : Slot) (r : CutReason) (e : CueEntry) :
    ((s.missEntry i r e).chan j).clock = (s.chan j).clock := by simp [State.missEntry]

@[simp] theorem State.withdrawById_clock (s : State) (i j : Slot) (r : CutReason) (id : Ident) :
    ((s.withdrawById i r id).chan j).clock = (s.chan j).clock := by
  unfold State.withdrawById
  split
  · exact s.leaveEntry_clock i j _ _ r
  · rfl

@[simp] theorem State.withdrawEntries_clock (s : State) (i j : Slot) (which : CueEntry → Bool) (r : CutReason) :
    ((s.withdrawEntries i which r).chan j).clock = (s.chan j).clock :=
  State.foldl_clock (fun s id => s.withdrawById_clock i j r id) _ s

/-! ## The end of a break by the clock (R29, R63) -/

@[simp] theorem State.endBreak_clock (s : State) (i j : Slot) (r : CutReason) (b : BreakRecord) :
    ((s.endBreak i r b).chan j).clock = (s.chan j).clock := by simp [State.endBreak]

@[simp] theorem State.removeHeldBreak_clock (s : State) (i j : Slot) (b : BreakRecord) :
    ((s.removeHeldBreak i b).chan j).clock = (s.chan j).clock := by simp [State.removeHeldBreak]

@[simp] theorem State.loseBreak_clock (s : State) (i j : Slot) : ((s.loseBreak i).chan j).clock = (s.chan j).clock := by
  simp only [State.loseBreak]
  split <;> simp

@[simp] theorem State.judgeStale_clock (s : State) (i j : Slot) (t : Time) :
    ((s.judgeStale i t).chan j).clock = (s.chan j).clock := by
  simp only [State.judgeStale]
  split
  · split <;> simp
  · rfl

/-! ## Steps 2 and 3 of a slot event (R73 to R75, R89, R102) -/

@[simp] theorem State.judgeRejoinLimit_clock (s : State) (i j : Slot) (t : Time) :
    ((s.judgeRejoinLimit i t).chan j).clock = (s.chan j).clock := by
  simp only [State.judgeRejoinLimit]
  split
  · split <;> simp [State.rejoinLimitEnd]
  · rfl

@[simp] theorem State.judgeStarvation_clock (s : State) (i j : Slot) (t : Time) :
    ((s.judgeStarvation i t).chan j).clock = (s.chan j).clock := by
  unfold State.judgeStarvation
  split <;> simp

@[simp] theorem State.matureFirst_clock (s : State) (i j : Slot) (c : Time) :
    ((s.matureFirst i c).chan j).clock = (s.chan j).clock := by
  unfold State.matureFirst
  split
  · split <;> simp
  · rfl

@[simp] theorem State.judgeMiss_clock (s : State) (i j : Slot) (c : Time) (id : Ident) :
    ((s.judgeMiss i c id).chan j).clock = (s.chan j).clock := by
  unfold State.judgeMiss
  split
  · split <;> simp
  · rfl

@[simp] theorem State.judgeMisses_clock (s : State) (i j : Slot) (c : Time) :
    ((s.judgeMisses i c).chan j).clock = (s.chan j).clock :=
  State.foldl_clock (fun s id => s.judgeMiss_clock i j c id) _ s

@[simp] theorem State.reserve_clock (s : State) (i j : Slot) (e : CueEntry) :
    ((s.reserve i e).chan j).clock = (s.chan j).clock := by
  unfold State.reserve
  split <;> simp

@[simp] theorem State.proceed_clock (s : State) (i j : Slot) : ((s.proceed i).chan j).clock = (s.chan j).clock := by
  unfold State.proceed
  split
  · split <;> simp
  · rfl

@[simp] theorem State.cueStep_clock (s : State) (i j : Slot) (t : Time) : ((s.cueStep i t).chan j).clock = (s.chan j).clock := by
  unfold State.cueStep
  split <;> simp

/-! ## Step 4 of a slot event, by channel state -/

@[simp] theorem State.cutIn_clock (s : State) (i j : Slot) (e : CueEntry) (sp u : Time) (head : StreamCell) :
    ((s.cutIn i e sp u head).chan j).clock = (s.chan j).clock := by simp [State.cutIn]

@[simp] theorem State.outputCutWait_clock (s : State) (i j : Slot) (cell : StreamCell) :
    ((s.outputCutWait i cell).chan j).clock = (s.chan j).clock := by
  unfold State.outputCutWait
  repeat' split
  all_goals simp

@[simp] theorem State.returnCut_clock (s : State) (i j : Slot) (b : BreakRecord) (cell : StreamCell) :
    ((s.returnCut i b cell).chan j).clock = (s.chan j).clock := by simp [State.returnCut]

@[simp] theorem State.truncate_clock (s : State) (i j : Slot) (b : BreakRecord) :
    ((s.truncate i b).chan j).clock = (s.chan j).clock := by simp [State.truncate]

@[simp] theorem State.endMark_clock (s : State) (i j : Slot) (b : BreakRecord) :
    ((s.endMark i b).chan j).clock = (s.chan j).clock := by simp [State.endMark]

@[simp] theorem State.outputBreak_clock (s : State) (i j : Slot) (cell : StreamCell) :
    ((s.outputBreak i cell).chan j).clock = (s.chan j).clock := by
  unfold State.outputBreak
  repeat' split
  all_goals simp

@[simp] theorem State.raiseDue_chan (s : State) (i j : Slot) (b : BreakRecord) (due : Option ReturnReport) :
    (s.raiseDue i b due).chan j = s.chan j := by
  cases due with
  | none => rfl
  | some r => exact s.raiseBreak_chan i j _ _ b

@[simp] theorem State.returnFromWait_clock (s : State) (i j : Slot) (cell : StreamCell) :
    ((s.returnFromWait i cell).chan j).clock = (s.chan j).clock := by
  simp only [State.returnFromWait]
  split <;> simp

@[simp] theorem State.outputReturnWait_clock (s : State) (i j : Slot) (cell : StreamCell) :
    ((s.outputReturnWait i cell).chan j).clock = (s.chan j).clock := by
  unfold State.outputReturnWait
  split <;> simp

@[simp] theorem State.rejoinCut_clock (s : State) (i j : Slot) (b : BreakRecord) (head : StreamCell) :
    ((s.rejoinCut i b head).chan j).clock = (s.chan j).clock := by simp [State.rejoinCut]

@[simp] theorem State.outputRejoinWait_clock (s : State) (i j : Slot) (cell : StreamCell) :
    ((s.outputRejoinWait i cell).chan j).clock = (s.chan j).clock := by
  unfold State.outputRejoinWait
  repeat' split
  all_goals simp

@[simp] theorem State.alertCut_clock (s : State) (i j : Slot) (a : AlertRef) (reader : Reader) (cell : StreamCell) :
    ((s.alertCut i a reader cell).chan j).clock = (s.chan j).clock := by simp [State.alertCut]

@[simp] theorem State.outputWaiting_clock (s : State) (i j : Slot) (cell : StreamCell) :
    ((s.outputWaiting i cell).chan j).clock = (s.chan j).clock := by
  unfold State.outputWaiting
  split <;> simp

@[simp] theorem State.outputAlertWait_clock (s : State) (i j : Slot) (cell : StreamCell) :
    ((s.outputAlertWait i cell).chan j).clock = (s.chan j).clock := by
  simp only [State.outputAlertWait]
  repeat' split
  all_goals simp

@[simp] theorem State.outputAlert_clock (s : State) (i j : Slot) : ((s.outputAlert i).chan j).clock = (s.chan j).clock := by
  simp only [State.outputAlert]
  repeat' split
  all_goals simp

@[simp] theorem State.output_clock (s : State) (i j : Slot) (cell : StreamCell) :
    ((s.output i cell).chan j).clock = (s.chan j).clock := by
  unfold State.output
  split <;> simp

/-! ## What a slot event does to a clock (R20 to R28) -/

/-- The clocks after a slot event are those after its silence judgement and its stamp arrival. -/
theorem State.slotEvent_clock (s : State) (i j : Slot) (t : Time) (cell : StreamCell) :
    ((s.slotEvent i t cell).chan j).clock =
      ((if cell.stamp then (s.judgeSilence i t).stampArrival i cell.time t cell.disc else s.judgeSilence i t).chan j).clock := by
  simp [State.slotEvent, State.beforeOutput, State.clockStep]

/-- A loss of the clock keeps the last stamp and its station time (R28, log entry 14). -/
@[simp] theorem State.loseClock_clock (s : State) (i : Slot) :
    ((s.loseClock i).chan i).clock = { (s.chan i).clock with state := .noClock } := by simp [State.loseClock]

/-- A stamp in NO_CLOCK starts acquisition (R22). -/
theorem State.stampArrival_clock_of_noClock {s : State} {i : Slot} (h : (s.chan i).clock.state = .noClock) (x t : Time)
    (disc : Bool) : ((s.stampArrival i x t disc).chan i).clock = ⟨.acquiring, x, t⟩ := by
  simp [State.stampArrival, h, Channel.takeStamp]

/-- The silence judgement leaves NO_CLOCK where the clock stands there already or its silence limit has passed (R27, R28). -/
theorem State.judgeSilence_noClock {s : State} {i : Slot} {t : Time}
    (h : (s.chan i).clock.state = .noClock ∨ 2000000 < (t - (s.chan i).clock.lastTime).toNat) :
    ((s.judgeSilence i t).chan i).clock.state = .noClock := by
  unfold State.judgeSilence
  split
  next => rw [State.loseClock_clock]
  next hsil =>
    rw [Clock.silent_iff] at hsil
    by_contra hk
    exact hsil ⟨hk, h.resolve_left hk⟩

/-- Settles O14: after the silence judgement the channel is in NO_CLOCK, so the stamp starts acquisition, and the rest of the slot
event leaves the clock alone. -/
theorem stampInNoClockStartsAcquisition : Obligations.StampInNoClockStartsAcquisition := by
  intro t cell s i hreach hstamp hclock
  refine ⟨_, exec_networkCellArrival_of_reaches hreach, ?_⟩
  rw [State.slotEvent_clock, if_pos hstamp]
  exact State.stampArrival_clock_of_noClock (State.judgeSilence_noClock (by simpa using hclock)) _ _ _

end Sys2Proof.Machine
end

section
/-!
The arithmetic of times (R50, R51): sums and differences reduced modulo M = 2^36 = 68719476736, the durations that are added, the
signed difference and the order. Every lemma gives the value as a plain number.
-/
namespace Sys2Proof.Machine

/-! ## Sums and differences modulo M (R50) -/

/-- Two numbers below M need at most one reduction. -/
theorem mod_two_pow_36_of_lt_two_mul {n : Nat} (h : n < 2 * 68719476736) :
    n % 2 ^ 36 = if 68719476736 ≤ n then n - 68719476736 else n := by
  split <;> omega

theorem time_toNat_add (x y : Time) :
    (x + y).toNat = if 68719476736 ≤ x.toNat + y.toNat then x.toNat + y.toNat - 68719476736 else x.toNat + y.toNat := by
  rw [BitVec.toNat_add, mod_two_pow_36_of_lt_two_mul (by omega)]

theorem diff_toNat (x y : Time) :
    (diff x y).toNat = if y.toNat ≤ x.toNat then x.toNat - y.toNat else 68719476736 - y.toNat + x.toNat := by
  unfold diff
  split
  next hle => exact BitVec.toNat_sub_of_le (BitVec.le_def.mpr hle)
  next hlt => rw [BitVec.toNat_sub, Nat.mod_eq_of_lt (by omega)]

/-- Any duration below M is itself a time, so adding it is adding that time. -/
theorem addMicros_toNat (x : Time) {us : Nat} (h : us < 68719476736) :
    (addMicros x us).toNat = if 68719476736 ≤ x.toNat + us then x.toNat + us - 68719476736 else x.toNat + us := by
  have hus : (BitVec.ofNat 36 us).toNat = us := Nat.mod_eq_of_lt h
  rw [addMicros, time_toNat_add, hus]

/-! ## The durations that are added (R50, R54) -/

theorem clampDuration_le (ms : Nat) : clampDuration ms ≤ 14400000 := by
  unfold clampDuration
  split
  · decide
  · split <;> omega

theorem breakLength_clampDuration_le (ms : Nat) : breakLength (clampDuration ms) ≤ 14400000000 :=
  Nat.mul_le_mul_right 1000 (clampDuration_le ms)

/-- A peer offset has 16 bits. -/
theorem cueFields_peerOffset_lt (p : BitVec 96) : (cueFields p).peerOffset < 65536 := BitVec.isLt _

/-! ## The signed difference and the order (R51) -/

theorem signed_eq_ite (x y : Time) :
    signed x y = if (diff x y).toNat < 34359738368 then ((diff x y).toNat : Int) else ((diff x y).toNat : Int) - 68719476736 := by
  rw [signed, BitVec.toInt_eq_toNat_cond]
  split <;> split <;> omega

theorem signed_bounds (x y : Time) : -34359738368 ≤ signed x y ∧ signed x y ≤ 34359738367 := by
  rw [signed_eq_ite]
  split <;> omega

theorem atOrAfter_iff_diff (x y : Time) : atOrAfter x y = true ↔ (diff x y).toNat < 34359738368 := decide_eq_true_iff

/-- A difference below H is the signed difference itself; one of H or more is taken down by M, below 0. -/
theorem atOrAfter_iff_signed (x y : Time) : atOrAfter x y = true ↔ 0 ≤ signed x y := by
  rw [atOrAfter_iff_diff, signed_eq_ite]
  split <;> omega

theorem atOrAfter_false_iff_signed (x y : Time) : atOrAfter x y = false ↔ signed x y < 0 := by
  rw [← Bool.not_eq_true, atOrAfter_iff_signed, Int.not_le]

/-- Settles O6, clause by clause: the two reductions modulo M, the bounds of the durations that are added, and the signed
difference, which every order of two times reads. -/
theorem timesAddAndCompareModuloM : Obligations.TimesAddAndCompareModuloM := by
  intro x y
  refine ⟨time_toNat_add x y, diff_toNat x y, ?addDuration, breakLength_clampDuration_le, ?peerOffset, signed_eq_ite x y,
    signed_bounds x y, atOrAfter_iff_diff x y, atOrAfter_iff_signed x y, atOrAfter_false_iff_signed x y, ?magnitude⟩
  case addDuration =>
    intro us hus
    exact addMicros_toNat x (by omega)
  case peerOffset =>
    intro p
    have hoffset := cueFields_peerOffset_lt p
    omega
  case magnitude => split <;> omega

end Sys2Proof.Machine
end

section
/-!
The lock flag of the rights unit (R119): what a RIGHTS_LOCK that is judged does to the state with its window open, by its action, the
lock flag and RLK.
-/
namespace Sys2Proof.Machine

open Sys2Proof.Safety

/-! ## The action byte (R119) -/

theorem lockAction_one : lockAction 1 = some true := rfl

theorem lockAction_two : lockAction 2 = some false := rfl

theorem lockAction_of_ne {p : Byte} (hset : p ≠ 1) (hclear : p ≠ 2) : lockAction p = none :=
  (if_neg hset).trans (if_neg hclear)

/-! ## The rights unit in SETUP and ACTIVE -/

theorem State.takeRights_of_inService {s : State} (hs : InService s) (act : State → State) : s.takeRights act = act s := by
  rcases hs with hs | hs <;> rw [State.takeRights, hs]

/-- A RIGHTS_LOCK for this station alone, heard in SETUP or ACTIVE, is judged with its window open. -/
theorem exec_rightsLock {s : State} {h : FrameHeader} (hear : Hears s) (own : ToOwn s h) (hs : InService s) (t : Time)
    (p : BitVec 8) : exec (.rightsLock t h p) s = .next ((answered s t .ack .silent).doLock (lockAction p)) := by
  have hlisten : s.station ≠ .listen := by rcases hs with hs | hs <;> simp [hs]
  have hfault : s.station ≠ .strapFault := by rcases hs with hs | hs <;> simp [hs]
  have hopen : InService (answered s t .ack .silent) := hs
  calc exec (.rightsLock t h p) s
      = .next ((answered s t .ack .silent).takeRights fun s => s.doLock (lockAction p)) :=
        State.take_receive_ifOwn hear own hlisten hfault t .rightsLock p _
    _ = .next ((answered s t .ack .silent).doLock (lockAction p)) := by rw [State.takeRights_of_inService hopen]

/-! ## The table of R119, row by row -/

theorem State.doLock_set (s : State) (t : Time) (d : Decision) :
    (answered s t .ack d).doLock (some true) = answered { s with lock := true } t .ack (.ack .accepted) := rfl

/-- Asserted RLK keeps a lock that is set. -/
theorem State.doLock_clear_of_rlk {s : State} (hlock : s.lock = true) (hrlk : s.rlk = true) (t : Time) (d : Decision) :
    (answered s t .ack d).doLock (some false) = answered s t .ack (.ack .locked) := by
  have hkeep : ((answered s t .ack d).lock && (answered s t .ack d).rlk) = true := by simp [answered, hlock, hrlk]
  rw [State.doLock, if_pos hkeep, State.answer_answered]

/-- Without a lock, or without RLK, the lock flag is clear afterwards. -/
theorem State.doLock_clear_of_free {s : State} (hfree : s.lock = false ∨ s.rlk = false) (t : Time) (d : Decision) :
    (answered s t .ack d).doLock (some false) = answered { s with lock := false } t .ack (.ack .accepted) := by
  have hfree' : ¬ ((answered s t .ack d).lock && (answered s t .ack d).rlk) = true := by
    simpa [answered, imp_iff_not_or] using hfree
  rw [State.doLock, if_neg hfree']
  rfl

theorem State.doLock_none (s : State) (t : Time) (d : Decision) :
    (answered s t .ack d).doLock none = answered s t .ack (.ack .field) := rfl

/-- Settles O35, row by row of R119's table: the frame is judged with its window open, and each row is the lemma of its action; a
refusal leaves the lock flag at the value it has. -/
theorem rightsLockFollowsItsTable : Obligations.RightsLockFollowsItsTable := by
  intro t h p s hear own hs gives
  have judged := exec_rightsLock hear own hs t p
  refine ⟨?set, ?clear, ?clearKept, ?clearUnlocked, ?field⟩
  case set =>
    rintro rfl
    rwa [lockAction_one, State.doLock_set] at judged
  case clear =>
    rintro rfl - hrlk
    rwa [lockAction_two, State.doLock_clear_of_free (.inr hrlk)] at judged
  case clearKept =>
    rintro rfl hlock hrlk
    have hsame : { s with lock := true } = s := by rw [← hlock]
    rw [lockAction_two, State.doLock_clear_of_rlk hlock hrlk] at judged
    simpa only [gives, hsame] using judged
  case clearUnlocked =>
    rintro rfl hlock
    rwa [lockAction_two, State.doLock_clear_of_free (.inl hlock)] at judged
  case field =>
    intro hset hclear
    rwa [lockAction_of_ne hset hclear, State.doLock_none] at judged

end Sys2Proof.Machine
end

section
/-!
Roll-call (R155 to R158): which station takes a frame to a group, what each test code asks of a channel, what the condition says over
the masked channels, and when the station's number is decided.
-/
namespace Sys2Proof.Machine

open Sys2Proof.Safety

/-! ## A frame to a group, outside LISTEN and STRAP_FAULT (R145, R155) -/

theorem StationState.takesReadings_of_inService {s : State} (hs : InService s) : s.station.takesReadings = true := by
  rcases hs with hs | hs <;> rw [hs] <;> rfl

/-- The block takes the frame, with its window open, where the station takes readings, and does nothing elsewhere. -/
theorem State.take_receive_ifReading {w : Nat} {s : State} {h : FrameHeader} (hear : Hears s) (group : ToGroup s h)
    (hl : s.station ≠ .listen) (hf : s.station ≠ .strapFault) (t : Time) (kind : FrameKind) (p : BitVec w) (act : State → State) :
    (s.take t fun s => s.receive kind h p fun s => if s.station.takesReadings && s.groupAddressed h then act s else s) =
      .next (if s.station.takesReadings then act (answered s t kind.responseType .silent)
        else answered s t kind.responseType .silent) := by
  obtain ⟨haddr, hd⟩ := State.groupAddressed_of_toGroup group hf
  have haddr' : (answered s t kind.responseType .silent).groupAddressed h = true := haddr
  rw [State.take_of_not_held hear.1, State.receive_of_hears hear hd group.2 hl, haddr', Bool.and_true]
  rfl

theorem exec_query_of_inService {s : State} {h : FrameHeader} (hear : Hears s) (group : ToGroup s h) (hs : InService s) (t : Time)
    (p : BitVec 32) : exec (.query t h p) s = .next ((answered s t .groupList .silent).doQuery (queryFields p)) := by
  have hlisten : s.station ≠ .listen := by rcases hs with hs | hs <;> simp [hs]
  have hfault : s.station ≠ .strapFault := by rcases hs with hs | hs <;> simp [hs]
  refine (State.take_receive_ifReading hear group hlisten hfault t .query p _).trans ?_
  rw [if_pos (StationState.takesReadings_of_inService hs)]
  rfl

theorem exec_query_of_clash {s : State} {h : FrameHeader} (hear : Hears s) (group : ToGroup s h) (hs : s.station = .clash) (t : Time)
    (p : BitVec 32) : exec (.query t h p) s = .next (answered s t .groupList .silent) := by
  have hskip : ¬ s.station.takesReadings = true := by rw [hs]; decide
  refine (State.take_receive_ifReading hear group (by simp [hs]) (by simp [hs]) t .query p _).trans ?_
  rw [if_neg hskip]
  rfl

/-! ## The tests on one channel (R156) -/

theorem Channel.activeBreak_isSome_iff (c : Channel) : c.activeBreak.isSome = true ↔ ∃ b, c.active = some (.brk b) := by
  unfold Channel.activeBreak
  cases c.active with
  | none => simp
  | some r => cases r <;> simp [Record.break?]

theorem Channel.inBreak_iff (c : Channel) :
    c.inBreak = true ↔
      c.state = .onBreak ∨ c.state = .rejoinWait ∨ c.state = .returnWait ∧ ∃ b, c.active = some (.brk b) := by
  rw [← Channel.activeBreak_isSome_iff]
  cases hstate : c.state <;> simp [Channel.inBreak, hstate]

theorem Channel.inAlert_iff (c : Channel) : c.inAlert = true ↔ c.state = .alertWait ∨ c.state = .alert := by
  simp [Channel.inAlert]

/-- What each test code asks of the channel; the codes 6 and 7 stand in no row. -/
def Channel.Meets (c : Channel) (code : BitVec 3) : Prop :=
  (code = 0 ∧ (c.state = .onBreak ∨ c.state = .rejoinWait ∨ c.state = .returnWait ∧ ∃ b, c.active = some (.brk b))) ∨
  (code = 1 ∧ (c.state = .alertWait ∨ c.state = .alert)) ∨ (code = 2 ∧ c.cues ≠ []) ∨
  (code = 3 ∧ c.clock.state = .locked) ∨ (code = 4 ∧ c.activity = true) ∨ (code = 5 ∧ c.rights = .guarded)

theorem testCode_cases : ∀ code : BitVec 3,
    code = 0 ∨ code = 1 ∨ code = 2 ∨ code = 3 ∨ code = 4 ∨ code = 5 ∨ code = 6 ∨ code = 7 := by decide

theorem Channel.test_iff (c : Channel) (code : BitVec 3) : c.test code = true ↔ c.Meets code := by
  rcases testCode_cases code with rfl | rfl | rfl | rfl | rfl | rfl | rfl | rfl
  · simp [Channel.Meets, Channel.test, Channel.inBreak_iff]
  · simp [Channel.Meets, Channel.test, Channel.inAlert_iff]
  all_goals simp [Channel.Meets, Channel.test]

/-! ## The condition over the masked channels (R157) -/

theorem mem_maskSlots (m : ChanMask) (i : Slot) : i ∈ maskSlots m ↔ inMask m i = true := by
  have hall : ∀ i : Slot, i ∈ Config.slots := by decide
  simp [maskSlots, hall i]

/-- The polarity bit inverts the test's result. -/
theorem bne_inverts_iff (result inverts : Bool) : (result != inverts) = true ↔ (result = true ↔ inverts = false) := by
  cases result <;> cases inverts <;> decide

/-- ANY over the masked channels; ALL asks as well that no masked channel fails, so an empty mask gives false under both. -/
theorem State.condition_iff (s : State) (f : QueryFields) :
    s.condition f = true ↔
      (∃ i, inMask f.mask i = true ∧ ((s.chan i).Meets f.test ↔ f.inverts = false)) ∧
        (f.all = true → ∀ i, inMask f.mask i = true → ((s.chan i).Meets f.test ↔ f.inverts = false)) := by
  simp only [← mem_maskSlots, ← Channel.test_iff, ← bne_inverts_iff]
  unfold State.condition
  cases hall : f.all with
  | false => simp
  | true =>
    simp only [if_true, Bool.and_eq_true, Bool.not_eq_true', List.isEmpty_eq_false_iff, ne_eq, List.map_eq_nil_iff, List.all_map,
      List.all_eq_true, Function.comp_apply, id_eq, forall_const]
    constructor
    · rintro ⟨hne, hevery⟩
      obtain ⟨i, hi⟩ := List.exists_mem_of_ne_nil _ hne
      exact ⟨⟨i, hi, hevery i hi⟩, hevery⟩
    · rintro ⟨⟨i, hi, -⟩, hevery⟩
      exact ⟨List.ne_nil_of_mem hi, hevery⟩

/-! ## The decision to answer (R158) -/

theorem State.answerNumber_answered (s : State) (t : Time) (responds : Bool) (floor : Nat) :
    (answered s t .groupList .silent).answerNumber responds floor =
      answered s t .groupList (numberAbove s floor (responds = true)) := by
  have hnumber : (answered s t .groupList .silent).stationNumber = s.stationNumber := rfl
  unfold State.answerNumber numberAbove
  simp only [hnumber, Bool.and_eq_true, decide_eq_true_eq]
  split
  · exact State.setDecision_answered s t .groupList .silent .number
  · rfl

/-- A judged QUERY decides the station's number where its condition is true or its start latch is set, above the floor. -/
theorem State.doQuery_answered (s : State) (t : Time) (f : QueryFields) :
    (answered s t .groupList .silent).doQuery f =
      answered s t .groupList (numberAbove s f.floor ((s.condition f || s.startLatch) = true)) :=
  State.answerNumber_answered s t (s.condition f || s.startLatch) f.floor

/-- Settles O41: in SETUP and ACTIVE the QUERY is judged with its window open, and the decision is that of R158 over the condition of
R157; in CLASH the window stays silent. -/
theorem queryIsAnsweredByConditionOrStartLatch : Obligations.QueryIsAnsweredByConditionOrStartLatch := by
  intro t h p s hear group f masked broken test result condition answers
  have hcond : s.condition f = true ↔ condition := State.condition_iff s f
  have hanswers : ((s.condition f || s.startLatch) = true ∧ f.floor < s.stationNumber.toNat) ↔ answers := by
    rw [Bool.or_eq_true, hcond, and_comm]
  have judged : ∀ hs : InService s, exec (.query t h p) s =
      .next (answered s t .groupList (numberAbove s f.floor ((s.condition f || s.startLatch) = true))) := fun hs =>
    (exec_query_of_inService hear group hs t p).trans (congrArg _ (State.doQuery_answered s t f))
  refine ⟨fun hs ha => ?answers, fun hs ha => ?silent, fun hs => exec_query_of_clash hear group hs t p⟩
  case answers => rw [judged hs, numberAbove, if_pos (hanswers.mpr ha)]
  case silent => rw [judged hs, numberAbove, if_neg (mt hanswers.mp ha)]

end Sys2Proof.Machine
end

section
/-!
The commands outside reset, said once: a part that is held ignores them, and otherwise a command sets the station timer and acts
(log entries 2 and 4); and what each of them can do to the blocks of the part, the channels, ports, ring, alert table and output, is
one operation of one block.
-/
namespace Sys2Proof.Machine

open Sys2Proof.Safety

/-! ## A command on a running part -/

/-- The station time that a command brings. -/
def Instr.time : Instr → Time
  | .networkCellArrival t _ | .silenceExpiry t _ | .rejoinLimitExpiry t _ | .starvationExpiry t _ | .insertCellArrival t _ _
  | .alertCellArrival t _ | .cue t _ _ | .cueCancel t _ _ | .alertOn t _ _ | .alertOff t _ _ | .alertExpiry t _ | .rights t _ _
  | .rightsLock t _ _ | .rightsFix t _ _ | .query t _ _ | .latchClear t _ _ | .stateRead t _ _ | .setupTimes t _ _
  | .setupWindow t _ _ | .setupDone t _ | .setupWindowExpiry t | .quietPeriodEnd t | .cutFrameReceived t _ _
  | .peerDeadlineExpiry t _ | .presentReceived t _ _ | .alertReportReceived t _ _ | .transmitStart t | .arbitrationLoss t _
  | .cleanSend t | .bitError t _ | .lineBreak t | .receiveError t _ | .checkError t _ | .noisePulse t | .responseByte t _
  | .lineIdle t => t
  | .powerOn _ | .rstnAssert | .rstnRelease _ | .rlkChange _ => 0

/-- What a command does to a running part whose station timer reads the command's time. The commands of power-on and of the pins have no
such part. -/
def act : Instr → State → State
  | .networkCellArrival t cell, s => s.networkCell t cell
  | .silenceExpiry t i, s => s.judgeSilence i t
  | .rejoinLimitExpiry t i, s => s.judgeRejoinLimit i t
  | .starvationExpiry t i, s => s.judgeStarvation i t
  | .insertCellArrival _ p cell, s => if s.station = .strapFault then s else s.modPort p fun q => q.arrive cell
  | .alertCellArrival _ cell, s => s.alertCell cell
  | .cue _ h p, s => s.receive .cue h p fun s => s.ifOwn h fun s => s.takeCue (cueFields p)
  | .cueCancel _ h p, s => s.receive .cueCancel h p fun s => s.ifOwn h fun s => s.takeCancel p
  | .alertOn _ h p, s => s.receive .alertOn h p fun s =>
      if s.considersAlerts h then s.considerAlertOn (alertOnFields p) h.source else s
  | .alertOff _ h p, s => s.receive .alertOff h p fun s =>
      if s.considersAlerts h then s.considerAlertOff (word3 p) (last3 p).toNat else s
  | .alertExpiry t alertId, s => s.judgeAlertLimit alertId t
  | .rights _ h p, s => s.receive .rights h p fun s => s.ifOwn h fun s =>
      s.takeRights fun s => s.doRights (word3 p) (rightsAction (last3 p))
  | .rightsLock _ h p, s => s.receive .rightsLock h p fun s => s.ifOwn h fun s => s.takeRights fun s => s.doLock (lockAction p)
  | .rightsFix _ h p, s => s.receive .rightsFix h p fun s => s.ifOwn h fun s => s.takeRights fun s => s.doFix p
  | .query _ h p, s => s.receive .query h p fun s =>
      if s.station.takesReadings && s.groupAddressed h then s.doQuery (queryFields p) else s
  | .latchClear _ h p, s => s.receive .latchClear h p fun s =>
      if s.station.takesReadings && s.groupAddressed h then s.doLatchClear (word3 p) ((last3 p).getLsbD 0) else s
  | .stateRead _ h p, s => s.receive .stateRead h p fun s => s.ifOwn h fun s =>
      if s.station.takesReadings then s.doStateRead (p.extractLsb' 8 8) (p.extractLsb' 0 8) else s
  | .setupTimes _ h p, s => s.receive .setupTimes h p fun s => s.ifOwn h fun s => s.takeSetup fun s => s.doSetupTimes p
  | .setupWindow _ h p, s => s.receive .setupWindow h p fun s => s.ifOwn h fun s => s.takeSetup fun s => s.doSetupWindow p
  | .setupDone _ h, s => s.receive .setupDone h (0 : BitVec 0) fun s => s.ifOwn h fun s =>
      s.takeSetup fun s => s.enterActive.answer .accepted
  | .setupWindowExpiry t, s => s.judgeSetup t
  | .quietPeriodEnd t, s => s.endQuiet t
  | .cutFrameReceived _ h p, s => s.receive .cut h p fun s =>
      s.matchCut h.source (cutFields p).cueId (CutKind.ofValue (cutFields p).kind) (cutFields p).cutStamp
  | .peerDeadlineExpiry t cueId, s => s.judgeDeadline cueId t
  | .presentReceived _ h p, s => s.receive .present h p fun s => s.judgePresent h.source
  | .alertReportReceived _ h p, s => s.receive .alertReport h p fun s => s
  | .transmitStart _, s => s.startSending
  | .arbitrationLoss _ n, s => s.loseArbitration n
  | .cleanSend _, s => s.finishSend
  | .bitError _ n, s => s.bitError n
  | .lineBreak t, s => s.seeBreak t
  | .receiveError t o, s => s.receiveError t o
  | .checkError _ bytes, s => s.judgeBytes bytes
  | .noisePulse _, s => s.countNoise
  | .responseByte t line, s => s.responseByte t line.gap line.slots line.bits
  | .lineIdle t, s => s.lineIdle t
  | .powerOn _, s | .rstnAssert, s | .rstnRelease _, s | .rlkChange _, s => s

/-- A command that is not of power-on or of a pin is taken at its time and acts (log entries 2 and 4). -/
theorem exec_eq_take {c : Instr} (h : takenInReset c = false) (s : State) : exec c s = s.take (Instr.time c) (act c) := by
  cases c <;> first | rfl | exact absurd h (by simp [takenInReset])

/-- Everything a command outside reset can do: nothing on a part that is held, a level of the RLK pin, or its action at its time. -/
theorem exec_cases {c : Instr} {s s' : State} (h : exec c s = .next s') (hr : isReset c = false) :
    s' = s ∨ (∃ level, c = .rlkChange level ∧ s' = { s with rlk := level }) ∨
      (takenInReset c = false ∧ s.isHeld = false ∧ s' = act c (s.atTime (Instr.time c))) := by
  by_cases ht : takenInReset c = false
  · rw [exec_eq_take ht] at h
    cases hh : s.isHeld
    · rw [State.take_of_not_held hh] at h
      cases h
      exact .inr (.inr ⟨ht, rfl, rfl⟩)
    · simp only [State.take, hh, if_true] at h
      cases h
      exact .inl rfl
  · cases c with
    | rlkChange level =>
      cases h
      exact .inr (.inl ⟨level, rfl, rfl⟩)
    | powerOn | rstnAssert | rstnRelease => exact absurd hr (by simp [isReset])
    | _ => exact absurd rfl ht

/-! ## Receiving a frame -/

/-- Everything receiving a frame can do: it moves the recessive period, and opens the window where the receiver has seen the frame's
start mark; its block acts on what is then left, where the header passes (R129, R140). -/
theorem State.receive_cases {w : Nat} (s : State) (kind : FrameKind) (h : FrameHeader) (p : BitVec w) (f : State → State) :
    s.receive kind h p f = s.noteFrame (checkByte (receivedBytes kind h p)) ∨
    (s.canReceive = true ∧
      s.receive kind h p f = (s.noteFrame (checkByte (receivedBytes kind h p))).openWindow kind.responseType) ∨
    (s.canReceive = true ∧ headerPasses h = true ∧
      s.receive kind h p f = f ((s.noteFrame (checkByte (receivedBytes kind h p))).openWindow kind.responseType)) := by
  unfold State.receive
  split
  · split
    · exact .inr (.inr ⟨by assumption, by assumption, rfl⟩)
    · exact .inr (.inl ⟨by assumption, rfl⟩)
  · exact .inl rfl

theorem State.noteFrame_lineOnly (s : State) (check : Byte) : s.LineOnly (s.noteFrame check) := s.noteRest_lineOnly _ _

theorem State.openWindow_lineOnly (s : State) (type : ResponseType) : s.LineOnly (s.openWindow type) := s.setLine_lineOnly _

theorem State.setDecision_lineOnly (s : State) (d : Decision) : s.LineOnly (s.setDecision d) := by
  unfold State.setDecision
  split
  · exact s.setLine_lineOnly _
  all_goals exact .rfl

theorem State.answer_lineOnly (s : State) (code : OutcomeCode) : s.LineOnly (s.answer code) := s.setDecision_lineOnly _

theorem State.answerNumber_lineOnly (s : State) (b : Bool) (n : Nat) : s.LineOnly (s.answerNumber b n) := by
  unfold State.answerNumber
  split
  · exact s.setDecision_lineOnly _
  · exact .rfl

theorem State.offer_lineOnly (s : State) (r : Report) : s.LineOnly (s.offer r) := by
  unfold State.offer
  split
  · exact s.setLine_lineOnly _
  · exact .rfl

/-! ## The blocks -/

/-- The blocks of the part stand: what the laws of the channels, ports, ring, alert table and output speak of. -/
structure State.SameBlocks (s s' : State) : Prop where
  powered     : s'.powered = s.powered
  rstAsserted : s'.rstAsserted = s.rstAsserted
  blockBase   : s'.blockBase = s.blockBase
  channels    : s'.channels = s.channels
  ports       : s'.ports = s.ports
  ring        : s'.ring = s.ring
  alerts      : s'.alerts = s.alerts
  sout        : s'.sout = s.sout

namespace State.SameBlocks

variable {s u v : State}

theorem refl (s : State) : s.SameBlocks s := ⟨rfl, rfl, rfl, rfl, rfl, rfl, rfl, rfl⟩

theorem trans (h : s.SameBlocks u) (k : u.SameBlocks v) : s.SameBlocks v :=
  ⟨k.powered.trans h.powered, k.rstAsserted.trans h.rstAsserted, k.blockBase.trans h.blockBase, k.channels.trans h.channels,
    k.ports.trans h.ports, k.ring.trans h.ring, k.alerts.trans h.alerts, k.sout.trans h.sout⟩

theorem chan (h : s.SameBlocks u) (i : Slot) : u.chan i = s.chan i := by
  unfold State.chan
  rw [h.channels]

theorem port (h : s.SameBlocks u) (p : PortId) : u.port p = s.port p := by
  unfold State.port
  rw [h.ports]

theorem isHeld (h : s.SameBlocks u) : u.isHeld = s.isHeld := by
  unfold State.isHeld
  rw [h.powered, h.rstAsserted]

theorem tagOf (h : s.SameBlocks u) (i : Slot) : u.tagOf i = s.tagOf i := by
  unfold State.tagOf
  rw [h.blockBase]

end State.SameBlocks

theorem State.LineOnly.sameBlocks {s u : State} (h : s.LineOnly u) : s.SameBlocks u := by
  constructor <;> rw [h]

theorem State.atTime_sameBlocks (s : State) (t : Time) : s.SameBlocks (s.atTime t) := ⟨rfl, rfl, rfl, rfl, rfl, rfl, rfl, rfl⟩

/-- One operation of one block: everything a command outside reset can do to the blocks of a running part. -/
inductive BlockOp : State → State → Prop
  | slotEvent (s : State) (i : Slot) (t : Time) (cell : StreamCell) (h : s.gatePasses i cell = true) :
      BlockOp s ((s.modChan i fun c => { c with gateOpen := true }).slotEvent i t cell)
  | silence (s : State) (i : Slot) (t : Time) : BlockOp s (s.judgeSilence i t)
  | rejoinLimit (s : State) (i : Slot) (t : Time) : BlockOp s (s.judgeRejoinLimit i t)
  | starvation (s : State) (i : Slot) (t : Time) : BlockOp s (s.judgeStarvation i t)
  | insertCell (s : State) (p : PortId) (cell : StreamCell) : BlockOp s (s.modPort p fun q => q.arrive cell)
  | ringCount (s : State) : BlockOp s { s with ring := { s.ring with markErrors := countUp s.ring.markErrors } }
  | ringCell (s : State) (cell : StreamCell) : BlockOp s (s.writeRing cell)
  | cue (s : State) (f : CueFields) (h : (s.judgeCue f).admits = true) :
      BlockOp s (s.modChan f.slot fun c => c.putEntry (f.toEntry s.timer))
  | withdrawCue (s : State) (i : Slot) (e : CueEntry) (cueId : Ident) (h : s.findEntry cueId = some (i, e)) (r : CutReason) :
      BlockOp s (s.withdrawEntry i r e)
  | cancelBreak (s : State) (i : Slot) (b : BreakRecord) (cueId : Ident) (h : s.findBreak cueId = some (i, b)) :
      BlockOp s (s.cancelBreak i b)
  | refresh (s : State) (f : AlertOnFields) (source : Byte) (r : AlertRecord) (h : s.alertRecord f.alertId = some r) :
      BlockOp s (s.modAlert f.alertId fun r =>
        { r with limitStart := s.timer, limit := alertLimit f.duration, source := source })
  | observe (s : State) (f : AlertOnFields) (source : Byte) (hf : f.intact = true) (h : s.alertRecord f.alertId = none)
      (hl : s.alerts.length < 8) : BlockOp s (s.addAlert (f.toRecord .observe source s.timer))
  | override (s : State) (f : AlertOnFields) (source : Byte) (w : RegionWindow) (hf : f.intact = true)
      (h : s.alertRecord f.alertId = none) (hl : s.alerts.length < 8) : BlockOp s (s.overrideAlert f source w)
  | endAlert (s : State) (r : AlertRecord) (alertId : Ident) (h : s.alertRecord alertId = some r) (reason : AlertReason) :
      BlockOp s (s.endAlert r reason)
  | rights (s : State) (m : ChanMask) (asked : Rights) (h : s.judgeRights m (some asked) = .accepted) :
      BlockOp s (s.applyRights m asked)
  | fix (s : State) (m : ChanMask) : BlockOp s (s.fixChannels m)
  | latches (s : State) (m : ChanMask) : BlockOp s (s.clearLatches m)
  | matchCut (s : State) (source : Byte) (cueId : Ident) (kind : Option CutKind) (cutStamp : Time) :
      BlockOp s (s.matchCut source cueId kind cutStamp)

/-- The blocks stand, or one operation of one block is done between changes that leave the blocks. -/
inductive BlockStep (s s' : State) : Prop
  | none (h : s.SameBlocks s')
  | one (u v : State) (h : s.SameBlocks u) (op : BlockOp u v) (k : v.SameBlocks s')

namespace BlockStep

variable {s u v : State}

theorem of_op (h : BlockOp s v) : BlockStep s v := .one s v (.refl s) h (.refl v)

theorem before (h : s.SameBlocks u) (k : BlockStep u v) : BlockStep s v := by
  cases k with
  | none k => exact .none (h.trans k)
  | one a b k op l => exact .one a b (h.trans k) op l

theorem after (h : BlockStep s u) (k : u.SameBlocks v) : BlockStep s v := by
  cases h with
  | none h => exact .none (h.trans k)
  | one a b h op l => exact .one a b h op (l.trans k)

theorem of_lineOnly (h : s.LineOnly v) : BlockStep s v := .none h.sameBlocks

theorem refl (s : State) : BlockStep s s := .none (.refl s)

end BlockStep

theorem State.receive_blockStep {w : Nat} (s : State) (kind : FrameKind) (h : FrameHeader) (p : BitVec w) {f : State → State}
    (hf : ∀ u, BlockStep u (f u)) : BlockStep s (s.receive kind h p f) := by
  have hn := (s.noteFrame_lineOnly (checkByte (receivedBytes kind h p))).sameBlocks
  have ho := hn.trans (State.openWindow_lineOnly _ kind.responseType).sameBlocks
  rcases s.receive_cases kind h p f with e | ⟨_, e⟩ | ⟨_, _, e⟩ <;> rw [e]
  · exact .none hn
  · exact .none ho
  · exact (hf _).before ho

theorem State.ifOwn_blockStep (s : State) (h : FrameHeader) {f : State → State} (hf : ∀ u, BlockStep u (f u)) :
    BlockStep s (s.ifOwn h f) := by
  unfold State.ifOwn
  split
  · exact hf s
  · exact .refl s

theorem State.takeRights_blockStep (s : State) {f : State → State} (hf : ∀ u, BlockStep u (f u)) :
    BlockStep s (s.takeRights f) := by
  unfold State.takeRights
  split
  case h_1 | h_2 => exact hf s
  case h_3 | h_4 => exact .of_lineOnly (s.answer_lineOnly _)
  case h_5 => exact .refl s

theorem State.takeSetup_blockStep (s : State) {f : State → State} (hf : ∀ u, BlockStep u (f u)) :
    BlockStep s (s.takeSetup f) := by
  unfold State.takeSetup
  split
  case h_1 => exact hf s
  case h_5 => exact .refl s
  all_goals exact .of_lineOnly (s.answer_lineOnly _)

theorem State.networkCell_blockStep (s : State) (t : Time) (cell : StreamCell) : BlockStep s (s.networkCell t cell) := by
  unfold State.networkCell
  split
  · exact .none ⟨rfl, rfl, rfl, rfl, rfl, rfl, rfl, rfl⟩
  split
  · exact .refl s
  split
  · exact .refl s
  split
  · unfold State.startGate
    split
    · exact .of_op (.slotEvent s _ t cell (by assumption))
    · exact .refl s
  · exact .refl s

theorem State.alertCell_blockStep (s : State) (cell : StreamCell) : BlockStep s (s.alertCell cell) := by
  unfold State.alertCell
  split
  · exact .refl s
  split
  · exact .of_op (.ringCount s)
  · exact .of_op (.ringCell s cell)

theorem State.takeCue_blockStep (s : State) (f : CueFields) : BlockStep s (s.takeCue f) := by
  unfold State.takeCue
  split
  · split
    · exact (BlockStep.of_op (.cue s f (by assumption))).after (State.answer_lineOnly _ _).sameBlocks
    · exact .of_lineOnly (s.answer_lineOnly _)
  case h_5 => exact .refl s
  all_goals exact .of_lineOnly (s.answer_lineOnly _)

theorem State.takeCancel_blockStep (s : State) (cueId : Ident) : BlockStep s (s.takeCancel cueId) := by
  unfold State.takeCancel
  split
  · unfold State.cancelCue
    split
    · exact (BlockStep.of_op (.withdrawCue s _ _ _ (by assumption) _)).after (State.answer_lineOnly _ _).sameBlocks
    split
    · exact (BlockStep.of_op (.cancelBreak s _ _ _ (by assumption))).after (State.answer_lineOnly _ _).sameBlocks
    · exact .of_lineOnly (s.answer_lineOnly _)
  case h_5 => exact .refl s
  all_goals exact .of_lineOnly (s.answer_lineOnly _)

theorem State.considerAlertOn_blockStep (s : State) (f : AlertOnFields) (source : Byte) :
    BlockStep s (s.considerAlertOn f source) := by
  unfold State.considerAlertOn
  split
  case isFalse => exact .none ⟨rfl, rfl, rfl, rfl, rfl, rfl, rfl, rfl⟩
  case isTrue hf =>
    split
    case h_1 r hr =>
      unfold State.repeatAlert
      split
      · exact (BlockStep.of_op (.refresh s f source r hr)).after (State.answerNumber_lineOnly _ _ _).sameBlocks
      · exact .none ⟨rfl, rfl, rfl, rfl, rfl, rfl, rfl, rfl⟩
    case h_2 hr =>
      unfold State.newAlert
      split
      · exact .refl s
      split
      · exact .of_lineOnly (s.offer_lineOnly _)
      next hl =>
        have hl : s.alerts.length < 8 := Nat.lt_of_not_le hl
        split
        · exact (BlockStep.of_op (.observe s f source hf hr hl)).after
            ((State.offer_lineOnly _ _).trans (State.answerNumber_lineOnly _ _ _)).sameBlocks
        · exact .of_op (.override s f source _ hf hr hl)

theorem State.considerAlertOff_blockStep (s : State) (alertId : Ident) (floor : Nat) :
    BlockStep s (s.considerAlertOff alertId floor) := by
  unfold State.considerAlertOff
  split
  · exact (BlockStep.of_op (.endAlert s _ _ (by assumption) _)).after (State.answerNumber_lineOnly _ _ _).sameBlocks
  · exact .refl s

theorem State.judgeAlertLimit_blockStep (s : State) (alertId : Ident) (t : Time) : BlockStep s (s.judgeAlertLimit alertId t) := by
  unfold State.judgeAlertLimit
  split
  · split
    · exact .of_op (.endAlert s _ _ (by assumption) _)
    · exact .refl s
  · exact .refl s

theorem State.judgeDeadline_blockStep (s : State) (cueId : Ident) (t : Time) : BlockStep s (s.judgeDeadline cueId t) := by
  unfold State.judgeDeadline
  split
  · split
    · exact .of_op (.withdrawCue s _ _ _ (by assumption) _)
    · exact .refl s
  · exact .refl s

theorem State.doRights_blockStep (s : State) (m : ChanMask) (action : Option Rights) : BlockStep s (s.doRights m action) := by
  unfold State.doRights
  split
  next asked hj => exact (BlockStep.of_op (.rights s m asked hj)).after (State.answer_lineOnly _ _).sameBlocks
  · exact .of_lineOnly (s.answer_lineOnly _)

theorem State.doLock_blockStep (s : State) (action : Option Bool) : BlockStep s (s.doLock action) := by
  have h (b : Bool) : s.SameBlocks { s with lock := b } := ⟨rfl, rfl, rfl, rfl, rfl, rfl, rfl, rfl⟩
  unfold State.doLock
  split
  · exact .of_lineOnly (s.answer_lineOnly _)
  · exact .none ((h true).trans (State.answer_lineOnly _ _).sameBlocks)
  · split
    · exact .of_lineOnly (s.answer_lineOnly _)
    · exact .none ((h false).trans (State.answer_lineOnly _ _).sameBlocks)

theorem State.doFix_blockStep (s : State) (m : ChanMask) : BlockStep s (s.doFix m) := by
  unfold State.doFix
  split
  · exact .of_lineOnly (s.answer_lineOnly _)
  split
  · exact .of_lineOnly (s.answer_lineOnly _)
  · exact (BlockStep.of_op (.fix s m)).after (State.answer_lineOnly _ _).sameBlocks

theorem State.doLatchClear_blockStep (s : State) (m : ChanMask) (start : Bool) : BlockStep s (s.doLatchClear m start) := by
  unfold State.doLatchClear
  refine ((BlockStep.of_op (.latches s m)).after ?_).after (State.answerNumber_lineOnly _ _ _).sameBlocks
  exact ⟨rfl, rfl, rfl, rfl, rfl, rfl, rfl, rfl⟩

theorem State.doSetupTimes_blockStep (s : State) (p : BitVec 32) : BlockStep s (s.doSetupTimes p) :=
  .none (State.SameBlocks.trans (u := { s with
    prerollByte   := clampByte 100 (p.extractLsb' 24 8)
    lateLimitByte := clampByte 200 (p.extractLsb' 16 8)
    rejoinMinByte := p.extractLsb' 8 8
    fixPermitted  := p.getLsbD 0 }) ⟨rfl, rfl, rfl, rfl, rfl, rfl, rfl, rfl⟩ (State.answer_lineOnly _ _).sameBlocks)

theorem State.doSetupWindow_blockStep (s : State) (p : BitVec 72) : BlockStep s (s.doSetupWindow p) := by
  unfold State.doSetupWindow
  split
  · exact .of_lineOnly (s.answer_lineOnly _)
  next w _ =>
    have h0 : s.SameBlocks { s with window0 := w } := ⟨rfl, rfl, rfl, rfl, rfl, rfl, rfl, rfl⟩
    have h1 : s.SameBlocks { s with window1 := w } := ⟨rfl, rfl, rfl, rfl, rfl, rfl, rfl, rfl⟩
    split
    · exact .none (h0.trans (State.answer_lineOnly _ _).sameBlocks)
    split
    · exact .none (h1.trans (State.answer_lineOnly _ _).sameBlocks)
    · exact .of_lineOnly (s.answer_lineOnly _)

theorem State.enterActive_sameBlocks (s : State) : s.SameBlocks s.enterActive :=
  State.SameBlocks.trans (u := { s with station := .active }) ⟨rfl, rfl, rfl, rfl, rfl, rfl, rfl, rfl⟩
    (State.offer_lineOnly _ _).sameBlocks

theorem State.endQuiet_sameBlocks (s : State) (t : Time) : s.SameBlocks (s.endQuiet t) := by
  unfold State.endQuiet
  split <;> exact ⟨rfl, rfl, rfl, rfl, rfl, rfl, rfl, rfl⟩

theorem State.judgePresent_sameBlocks (s : State) (source : Byte) : s.SameBlocks (s.judgePresent source) := by
  unfold State.judgePresent
  split <;> exact ⟨rfl, rfl, rfl, rfl, rfl, rfl, rfl, rfl⟩

theorem State.handOwn_blockStep (s : State) (r : Report) : BlockStep s (s.handOwn r) := by
  cases r with
  | cut tag kind cueId reason cutStamp lateMs => exact .of_op (.matchCut s _ _ _ _)
  | alert | present => exact .refl s

theorem State.finishSend_blockStep (s : State) : BlockStep s s.finishSend := by
  unfold State.finishSend
  split
  next f _ =>
    refine BlockStep.before (State.LineOnly.sameBlocks ?_) (State.handOwn_blockStep _ f.report)
    exact (s.setLine_lineOnly _).trans (State.openWindow_lineOnly _ .none)
  · exact .refl s

theorem State.startSending_lineOnly (s : State) : s.LineOnly s.startSending := by
  unfold State.startSending
  split
  · exact s.setLine_lineOnly _
  · exact .rfl

theorem State.loseArbitration_lineOnly (s : State) (n : Nat) : s.LineOnly (s.loseArbitration n) := by
  unfold State.loseArbitration
  split
  · exact s.setLine_lineOnly _
  · exact .rfl

theorem State.bitError_lineOnly (s : State) (n : Nat) : s.LineOnly (s.bitError n) := by
  unfold State.bitError
  split
  · split
    · exact s.setLine_lineOnly _
    · exact .rfl
  · exact .rfl

/-- The action of a command leaves the blocks, or is one operation of one block. -/
theorem act_blockStep (c : Instr) (s : State) : BlockStep s (act c s) := by
  cases c <;> simp only [act]
  case networkCellArrival t cell => exact s.networkCell_blockStep t cell
  case silenceExpiry t i => exact .of_op (.silence s i t)
  case rejoinLimitExpiry t i => exact .of_op (.rejoinLimit s i t)
  case starvationExpiry t i => exact .of_op (.starvation s i t)
  case insertCellArrival t p cell =>
    split
    · exact .refl s
    · exact .of_op (.insertCell s p cell)
  case alertCellArrival t cell => exact s.alertCell_blockStep cell
  case cue t h p => exact s.receive_blockStep _ h p fun u => u.ifOwn_blockStep h fun v => v.takeCue_blockStep _
  case cueCancel t h p => exact s.receive_blockStep _ h p fun u => u.ifOwn_blockStep h fun v => v.takeCancel_blockStep _
  case alertOn t h p =>
    refine s.receive_blockStep _ h p fun u => ?_
    split
    · exact u.considerAlertOn_blockStep _ _
    · exact .refl u
  case alertOff t h p =>
    refine s.receive_blockStep _ h p fun u => ?_
    split
    · exact u.considerAlertOff_blockStep _ _
    · exact .refl u
  case alertExpiry t id => exact s.judgeAlertLimit_blockStep id t
  case rights t h p =>
    exact s.receive_blockStep _ h p fun u => u.ifOwn_blockStep h fun v => v.takeRights_blockStep fun w => w.doRights_blockStep _ _
  case rightsLock t h p =>
    exact s.receive_blockStep _ h p fun u => u.ifOwn_blockStep h fun v => v.takeRights_blockStep fun w => w.doLock_blockStep _
  case rightsFix t h p =>
    exact s.receive_blockStep _ h p fun u => u.ifOwn_blockStep h fun v => v.takeRights_blockStep fun w => w.doFix_blockStep _
  case query t h p =>
    refine s.receive_blockStep _ h p fun u => ?_
    split
    · exact .of_lineOnly (u.answerNumber_lineOnly _ _)
    · exact .refl u
  case latchClear t h p =>
    refine s.receive_blockStep _ h p fun u => ?_
    split
    · exact u.doLatchClear_blockStep _ _
    · exact .refl u
  case stateRead t h p =>
    refine s.receive_blockStep _ h p fun u => u.ifOwn_blockStep h fun v => ?_
    split
    · exact .of_lineOnly (v.setDecision_lineOnly _)
    · exact .refl v
  case setupTimes t h p =>
    exact s.receive_blockStep _ h p fun u => u.ifOwn_blockStep h fun v => v.takeSetup_blockStep fun w => w.doSetupTimes_blockStep p
  case setupWindow t h p =>
    exact s.receive_blockStep _ h p fun u => u.ifOwn_blockStep h fun v => v.takeSetup_blockStep fun w => w.doSetupWindow_blockStep p
  case setupDone t h =>
    exact s.receive_blockStep _ h _ fun u => u.ifOwn_blockStep h fun v => v.takeSetup_blockStep fun w =>
      .none (w.enterActive_sameBlocks.trans (State.answer_lineOnly _ _).sameBlocks)
  case setupWindowExpiry t =>
    unfold State.judgeSetup
    split
    · exact .none s.enterActive_sameBlocks
    · exact .refl s
  case quietPeriodEnd t => exact .none (s.endQuiet_sameBlocks t)
  case cutFrameReceived t h p => exact s.receive_blockStep _ h p fun u => .of_op (.matchCut u _ _ _ _)
  case peerDeadlineExpiry t id => exact s.judgeDeadline_blockStep id t
  case presentReceived t h p => exact s.receive_blockStep _ h p fun u => .none (u.judgePresent_sameBlocks _)
  case alertReportReceived t h p => exact s.receive_blockStep _ h p fun u => .refl u
  case transmitStart t => exact .of_lineOnly s.startSending_lineOnly
  case arbitrationLoss t n => exact .of_lineOnly (s.loseArbitration_lineOnly n)
  case cleanSend t => exact s.finishSend_blockStep
  case bitError t n => exact .of_lineOnly (s.bitError_lineOnly n)
  case lineBreak t => exact .of_lineOnly (s.setLine_lineOnly _)
  case receiveError t o => exact .of_lineOnly (s.receiveError_lineOnly t o)
  case checkError t bytes => exact .of_lineOnly (s.judgeBytes_lineOnly bytes)
  case noisePulse t => exact .of_lineOnly (s.setLine_lineOnly _)
  case responseByte t line => exact .of_lineOnly (s.responseByte_lineOnly t _ _ _)
  case lineIdle t => exact .of_lineOnly (s.lineIdle_lineOnly t)
  all_goals exact .refl s

/-- What a command outside reset does to the blocks of the part. -/
theorem exec_blockStep {c : Instr} {s s' : State} (h : exec c s = .next s') (hr : isReset c = false) : BlockStep s s' := by
  rcases exec_cases h hr with rfl | ⟨level, rfl, rfl⟩ | ⟨_, _, rfl⟩
  · exact .refl _
  · exact .none ⟨rfl, rfl, rfl, rfl, rfl, rfl, rfl, rfl⟩
  · exact (act_blockStep c _).before (s.atTime_sameBlocks _)

end Sys2Proof.Machine
end

section
/-!
What a step can do to the blocks of the part, and with it the rule by which a law of the blocks is kept by every step: by the changes
that leave the blocks, by the operations of the blocks, and by the commands of power-on and of the RSTn pin (R162, R168).
-/
namespace Sys2Proof.Machine

open Sys2Proof.Safety

/-- Every block holds its values after reset; HOLD may be asserted, while RSTn is, and a channel keeps its rights and its fixed flag
(R17, R168). -/
structure State.Cleared (s : State) : Prop where
  chan  : ∀ i, ∃ c : Channel, s.chan i = c.afterRstn
  port  : ∀ p, s.port p = InsertPort.reset ∨ (s.port p = InsertPort.inReset ∧ s.rstAsserted = true)
  ring   : s.ring = AlertRing.reset
  alerts : s.alerts = []
  sout   : s.sout = []

/-- RSTn is released: the ports hold their values after reset, and the other blocks stand (R168). -/
structure State.Released (s s' : State) : Prop where
  before : s.rstAsserted = true
  after  : s'.rstAsserted = false
  chan  : ∀ i, s'.chan i = s.chan i
  port  : ∀ p, s'.port p = InsertPort.reset
  ring   : s'.ring = s.ring
  alerts : s'.alerts = s.alerts
  sout   : s'.sout = s.sout

theorem replicate_port (q : InsertPort) (s : State) (p : PortId) (h : s.ports = Vector.replicate 4 q) : s.port p = q := by
  simp [State.port, h]

theorem replicate_chan (c : Channel) (s : State) (i : Slot) (h : s.channels = Vector.replicate 16 c) : s.chan i = c := by
  simp [State.chan, h]

theorem map_chan (f : Channel → Channel) (s u : State) (i : Slot) (h : u.channels = s.channels.map f) :
    u.chan i = f (s.chan i) := by simp [State.chan, h]

theorem State.powerUp_readStraps_cleared (s : State) (levels : ReleaseLevels) : (s.powerUp.readStraps levels).Cleared :=
  ⟨fun i => ⟨Channel.reset, replicate_chan _ _ i rfl⟩, fun p => .inl (replicate_port _ _ p rfl), rfl, rfl, rfl⟩

theorem State.enterReset_cleared (s : State) : s.enterReset.Cleared :=
  ⟨fun i => ⟨s.chan i, map_chan _ s _ i rfl⟩, fun p => .inr ⟨replicate_port _ _ p rfl, rfl⟩, rfl, rfl, rfl⟩

/-- Everything a command of power-on or of the RSTn pin can do to the blocks (R162, R168). -/
theorem exec_reset_cases {c : Instr} {s s' : State} (h : exec c s = .next s') (hr : isReset c = true) :
    s' = s ∨ s'.Cleared ∨ s.Released s' := by
  cases c with
  | powerOn levels =>
    simp only [exec, execPowerOn] at h
    cases h
    split
    · exact .inr (.inl (State.enterReset_cleared _))
    · exact .inr (.inl (s.powerUp_readStraps_cleared levels))
  | rstnAssert =>
    simp only [exec, execRstnAssert] at h
    cases h
    exact .inr (.inl s.enterReset_cleared)
  | rstnRelease levels =>
    simp only [exec, execRstnRelease] at h
    cases h
    split
    · exact .inl rfl
    next hra =>
      have hra : s.rstAsserted = true := by simpa using hra
      split
      · exact .inr (.inr ⟨hra, rfl, fun i => rfl, fun p => replicate_port _ _ p rfl, rfl, rfl, rfl⟩)
      · exact .inr (.inr ⟨hra, rfl, fun i => rfl, fun p => replicate_port _ _ p rfl, rfl, rfl, rfl⟩)
  | _ => exact absurd hr (by simp [isReset])

/-- A step idles or runs the command at the front of the queue. -/
theorem step_cases {s s' : State} (h : step s = .next s') :
    s' = s ∨ ∃ c rest, s.pending = c :: rest ∧ exec c { s with pending := rest } = .next s' := by
  unfold step at h
  split at h
  next c rest hp => exact .inr ⟨c, rest, hp, h⟩
  next => cases h; exact .inl rfl

/-- A law of the blocks is kept by every step when the changes that leave the blocks keep it, every operation of a block on a running
part, and the commands of power-on and of the RSTn pin. -/
theorem step_keeps {P : State → Prop} (same : ∀ u v, u.SameBlocks v → P u → P v)
    (op : ∀ u v, u.isHeld = false → BlockOp u v → P u → P v) (cleared : ∀ u v, P u → v.Cleared → P v)
    (released : ∀ u v, P u → u.Released v → P v) {s s' : State} (hs : P s) (h : step s = .next s') : P s' := by
  rcases step_cases h with rfl | ⟨c, rest, _, h⟩
  · exact hs
  have hs : P { s with pending := rest } := same s _ ⟨rfl, rfl, rfl, rfl, rfl, rfl, rfl, rfl⟩ hs
  generalize { s with pending := rest } = u at hs h
  cases hr : isReset c
  · rcases exec_cases h hr with rfl | ⟨level, _, rfl⟩ | ⟨_, hheld, rfl⟩
    · exact hs
    · exact same u _ ⟨rfl, rfl, rfl, rfl, rfl, rfl, rfl, rfl⟩ hs
    · have hb := (act_blockStep c (u.atTime (Instr.time c))).before (u.atTime_sameBlocks _)
      rcases hb with hb | ⟨v, w, h1, ho, h2⟩
      · exact same _ _ hb hs
      · exact same _ _ h2 (op v w (h1.isHeld.trans hheld) ho (same _ _ h1 hs))
  · rcases exec_reset_cases h hr with rfl | hc | hrel
    · exact hs
    · exact cleared u s' hs hc
    · exact released u s' hs hrel

end Sys2Proof.Machine
end

section
/-!
The sequence counts of the output port (R15, R16): a cell sent carries the count of its channel, which then advances; nothing else
moves a count or the output.
-/
namespace Sys2Proof.Machine

open Sys2Proof.Safety

/-! ## The cells sent for a channel -/

theorem State.tagOf_inj (s : State) {i j : Slot} (h : s.tagOf i = s.tagOf j) : i = j := by
  rw [← slotOfTag_tagOf s i, h, slotOfTag_tagOf]

/-- The tags of two slots agree only for the same slot, so a cell sent for one channel is none of another's. -/
theorem sentFor_send (s : State) (i j : Slot) (c : StreamCell) :
    sentFor (s.send i c) j = if j = i then sentFor s j ++ [s.rewrite i c] else sentFor s j := by
  have htag : (s.rewrite i c).tag == s.tagOf j ↔ j = i := by
    rw [beq_iff_eq]
    exact ⟨fun h => (s.tagOf_inj h).symm, fun h => by rw [h]; rfl⟩
  have hs : sentFor (s.send i c) j = sentFor s j ++ [s.rewrite i c].filter (fun x => x.tag == s.tagOf j) :=
    List.filter_append ..
  rw [hs]
  split
  · rw [List.filter_singleton, htag.mpr (by assumption), cond_true]
  · rw [List.filter_singleton, Bool.eq_false_iff.mpr (mt htag.mp (by assumption)), cond_false, List.append_nil]

/-- The counts of a channel: the cells sent carry 0, 1, 2 and so on modulo 16, and the channel's count is the next one (R16). -/
def Counted (s : State) (i : Slot) : Prop :=
  (sentFor s i).map (·.seq) = (List.range (sentFor s i).length).map (BitVec.ofNat 4) ∧
    (s.chan i).outSeq = BitVec.ofNat 4 (sentFor s i).length

/-- The output and the counts stand. -/
structure SameCounts (s s' : State) : Prop where
  blockBase : s'.blockBase = s.blockBase
  sout      : s'.sout = s.sout
  outSeq    : ∀ i, (s'.chan i).outSeq = (s.chan i).outSeq

theorem SameCounts.counted {s s' : State} (h : SameCounts s s') {i : Slot} (k : Counted s i) : Counted s' i := by
  have hs : sentFor s' i = sentFor s i := by simp only [sentFor, State.tagOf, h.sout, h.blockBase]
  unfold Counted
  rw [hs, h.outSeq i]
  exact k

theorem Counted.send {s : State} {j : Slot} (h : Counted s j) (i : Slot) (c : StreamCell) : Counted (s.send i c) j := by
  obtain ⟨hseq, hout⟩ := h
  unfold Counted
  rw [sentFor_send]
  by_cases hij : j = i
  · subst hij
    simp only [if_true, List.map_append, List.map_cons, List.map_nil, List.length_append, List.length_singleton,
      List.range_succ, hseq, State.send_chan_same, Channel.afterSend]
    refine ⟨?_, ?_⟩
    · rw [show (s.rewrite j c).seq = (s.chan j).outSeq from rfl, hout]
    · rw [hout, BitVec.ofNat_add]
      rfl
  · rw [if_neg hij, State.send_chan_ne _ _ hij]
    exact ⟨hseq, hout⟩

theorem State.modChan_sameCounts (s : State) (i : Slot) {f : Channel → Channel} (h : ∀ c, (f c).outSeq = c.outSeq) :
    SameCounts s (s.modChan i f) := by
  refine ⟨rfl, rfl, fun j => ?_⟩
  rw [State.modChan_chan]
  split
  · exact h _
  · rfl

/-- Every chain of moves keeps the counts. -/
theorem Moves.counted {s s' : State} (h : Moves s s') {i : Slot} (k : Counted s i) : Counted s' i := by
  induction h with
  | start => exact k
  | chan _ j f hf ih => exact (State.modChan_sameCounts _ j fun c => (hf c).outSeq).counted ih
  | port _ p f hf ih => exact SameCounts.counted ⟨rfl, rfl, fun _ => rfl⟩ ih
  | @offer u _ r ih =>
    have hb := (u.offer_lineOnly r).sameBlocks
    exact SameCounts.counted ⟨hb.blockBase, hb.sout, fun j => by rw [hb.chan j]⟩ ih
  | table _ a ih => exact SameCounts.counted ⟨rfl, rfl, fun _ => rfl⟩ ih
  | @decide u _ d ih =>
    have hb := (u.setDecision_lineOnly d).sameBlocks
    exact SameCounts.counted ⟨hb.blockBase, hb.sout, fun j => by rw [hb.chan j]⟩ ih
  | send _ j c ih => exact ih.send j c

/-! ## Operations on several channels -/

/-- A fold of operations that keep a property of states keeps it. -/
theorem foldl_keeps {α : Type} {P : State → Prop} {f : State → α → State} (l : List α) {s : State} (hs : P s)
    (hf : ∀ s, P s → ∀ a ∈ l, P (f s a)) : P (l.foldl f s) := by
  induction l generalizing s with
  | nil => exact hs
  | cons a l ih => exact ih (hf s hs a (by simp)) fun s hs b hb => hf s hs b (by simp [hb])

theorem State.giveRights_counted (s : State) (asked : Rights) (j : Slot) {i : Slot} (k : Counted s i) :
    Counted (s.giveRights asked j) i := by
  unfold State.giveRights
  refine (State.modChan_sameCounts _ j (by intro c; rfl)).counted ?_
  split
  · exact k
  · exact (s.withdrawEntries_moves j _ _).counted k

theorem Channel.afterRingWrite_outSeq (after : AlertRing) (w : RingPos) (cell : StreamCell) (c : Channel) :
    (c.afterRingWrite after w cell).outSeq = c.outSeq := by
  unfold Channel.afterRingWrite
  split
  · rfl
  · split <;> rfl

theorem State.writeRing_chan (s : State) (cell : StreamCell) (i : Slot) :
    (s.writeRing cell).chan i = (s.chan i).afterRingWrite (s.ring.write cell) s.ring.writer cell := by
  simp [State.writeRing, State.chan]

/-- Every operation of a block keeps the counts. -/
theorem BlockOp.counted {u v : State} (h : BlockOp u v) {i : Slot} (k : Counted u i) : Counted v i := by
  cases h with
  | slotEvent j t cell hg =>
    exact (State.slotEvent_moves _ j t cell).counted ((State.modChan_sameCounts _ j (by intro c; rfl)).counted k)
  | silence j t => exact (u.judgeSilence_moves j t).counted k
  | rejoinLimit j t => exact (u.judgeRejoinLimit_moves j t).counted k
  | starvation j t => exact (u.judgeStarvation_moves j t).counted k
  | insertCell p cell => exact SameCounts.counted ⟨rfl, rfl, fun _ => rfl⟩ k
  | ringCount => exact SameCounts.counted ⟨rfl, rfl, fun _ => rfl⟩ k
  | ringCell cell =>
    have hw : SameCounts u (u.writeRing cell) :=
      ⟨rfl, rfl, fun j => by rw [State.writeRing_chan, Channel.afterRingWrite_outSeq]⟩
    exact hw.counted k
  | cue f h => exact (State.modChan_sameCounts _ _ (by intro c; rfl)).counted k
  | withdrawCue j e id h r => exact (u.withdrawEntry_moves j r e).counted k
  | cancelBreak j b id h => exact (u.cancelBreak_moves j b).counted k
  | refresh f src r h => exact SameCounts.counted ⟨rfl, rfl, fun _ => rfl⟩ k
  | observe f src hf h hl => exact SameCounts.counted ⟨rfl, rfl, fun _ => rfl⟩ k
  | override f src w hf h hl => exact (u.overrideAlert_moves f src w).counted k
  | endAlert r id h reason => exact (u.endAlert_moves r reason).counted k
  | rights m asked h => exact foldl_keeps _ k fun s hs j _ => s.giveRights_counted asked j hs
  | fix m => exact foldl_keeps _ k fun s hs j _ => (State.modChan_sameCounts s j (by intro c; rfl)).counted hs
  | latches m => exact foldl_keeps _ k fun s hs j _ => (State.modChan_sameCounts s j (by intro c; rfl)).counted hs
  | matchCut src id kind x => exact (u.matchCut_moves src id kind x).counted k

/-- The pins and the power of the part stand through every operation of a block. -/
theorem BlockOp.pins {u v : State} (h : BlockOp u v) :
    v.powered = u.powered ∧ v.rstAsserted = u.rstAsserted ∧ v.station = u.station := by
  have ofMoves {s s' : State} (m : Moves s s') :
      s'.powered = s.powered ∧ s'.rstAsserted = s.rstAsserted ∧ s'.station = s.station := by
    rw [m.frame]
    exact ⟨rfl, rfl, rfl⟩
  cases h with
  | slotEvent j t cell hg =>
    obtain ⟨h1, h2, h3⟩ := ofMoves (State.slotEvent_moves (u.modChan j fun c => { c with gateOpen := true }) j t cell)
    exact ⟨h1, h2, h3⟩
  | silence j t => exact ofMoves (u.judgeSilence_moves j t)
  | rejoinLimit j t => exact ofMoves (u.judgeRejoinLimit_moves j t)
  | starvation j t => exact ofMoves (u.judgeStarvation_moves j t)
  | withdrawCue j e id h r => exact ofMoves (u.withdrawEntry_moves j r e)
  | cancelBreak j b id h => exact ofMoves (u.cancelBreak_moves j b)
  | override f src w hf h hl => exact ofMoves (u.overrideAlert_moves f src w)
  | endAlert r id h reason => exact ofMoves (u.endAlert_moves r reason)
  | matchCut src id kind x => exact ofMoves (u.matchCut_moves src id kind x)
  | rights m asked h =>
    refine foldl_keeps (P := fun s => s.powered = u.powered ∧ s.rstAsserted = u.rstAsserted ∧ s.station = u.station)
      _ ⟨rfl, rfl, rfl⟩ fun s hs j _ => ?_
    cases asked with
    | opened => exact hs
    | guarded =>
      obtain ⟨h1, h2, h3⟩ := ofMoves (s.withdrawEntries_moves j (fun _ => true) .guarded)
      exact ⟨h1.trans hs.1, h2.trans hs.2.1, h3.trans hs.2.2⟩
  | fix m =>
    exact foldl_keeps (P := fun s => s.powered = u.powered ∧ s.rstAsserted = u.rstAsserted ∧ s.station = u.station)
      _ ⟨rfl, rfl, rfl⟩ fun s hs j _ => hs
  | latches m =>
    exact foldl_keeps (P := fun s => s.powered = u.powered ∧ s.rstAsserted = u.rstAsserted ∧ s.station = u.station)
      _ ⟨rfl, rfl, rfl⟩ fun s hs j _ => hs
  | insertCell | ringCount | ringCell | cue | refresh | observe => exact ⟨rfl, rfl, rfl⟩

theorem BlockOp.isHeld {u v : State} (h : BlockOp u v) : v.isHeld = u.isHeld := by
  unfold State.isHeld
  rw [h.pins.1, h.pins.2.1]

/-! ## The sequence law -/

theorem sequenceLaw_of_cleared {s : State} (h : s.Cleared) : SequenceLaw s := by
  have hs (i : Slot) : sentFor s i = [] := by simp [sentFor, h.sout]
  refine ⟨fun _ => h.sout, fun i => ?_⟩
  obtain ⟨c, hc⟩ := h.chan i
  rw [hs i, hc]
  exact ⟨rfl, rfl⟩

/-- Settles O55: a step leaves the output and the counts, or runs one operation of a block, whose sends each carry and advance their
channel's count; a reset empties the output, and the release of RSTn finds it empty. -/
theorem stepKeepsTheSequenceLaw : Obligations.StepKeepsTheSequenceLaw := by
  intro s s' hs h
  refine step_keeps (P := SequenceLaw) ?same ?op ?cleared ?released hs h
  case same =>
    intro u v e ⟨h1, h2⟩
    refine ⟨fun hv => ?_, fun i => ?_⟩
    · rw [e.sout]
      exact h1 (e.isHeld ▸ hv)
    · exact SameCounts.counted ⟨e.blockBase, e.sout, fun j => by rw [e.chan j]⟩ (h2 i)
  case op =>
    intro u v hu o ⟨_, h2⟩
    refine ⟨fun hv => ?_, fun i => o.counted (h2 i)⟩
    rw [o.isHeld, hu] at hv
    exact absurd hv (by decide)
  case cleared => exact fun u v _ hv => sequenceLaw_of_cleared hv
  case released =>
    intro u v ⟨h1, h2⟩ e
    have hu : u.sout = [] := h1 (by simp [State.isHeld, e.before])
    have hsent (w : State) (hw : w.sout = []) (i : Slot) : sentFor w i = [] := by simp [sentFor, hw]
    refine ⟨fun _ => e.sout.trans hu, fun i => ?_⟩
    have h2 := h2 i
    rw [hsent u hu] at h2
    rw [hsent v (e.sout.trans hu), e.chan i]
    exact h2

end Sys2Proof.Machine
end

section
/-!
The machine's step, its values after reset and the commands of its pins (chapter 11), and the order of intervals (section 4.3).
-/
namespace Sys2Proof.Machine

open Sys2Proof.Safety

/-- Settles O1: the two cases of the definition of a step. -/
theorem stepRunsFrontCommand : Obligations.StepRunsFrontCommand := by
  refine ⟨fun c rest s => rfl, fun s h => ?_⟩
  simp only [step, h]

/-! ## The reset state -/

theorem State.reset_chan (i : Slot) : State.reset.chan i = Channel.reset := replicate_chan _ _ i rfl

theorem State.reset_port (p : PortId) : State.reset.port p = InsertPort.reset := replicate_port _ _ p rfl

/-- Settles O2: every channel, port and ring position is read off the vector of equal values; the rest are the fields themselves. -/
theorem resetLeavesTheManualsValues : Obligations.ResetLeavesTheManualsValues := by
  refine ⟨fun i => ?_, fun p => State.reset_port p, ⟨fun p => ?_, rfl, rfl, rfl⟩, ?_⟩
  · simp [State.reset_chan, Channel.reset, Clock.reset]
  · simp [State.reset, AlertRing.reset]
  · simp [State.reset, RegionWindow.reset0, RegionWindow.reset1, LineInterface.reset]

theorem insertPort_reset_law : PortLaw InsertPort.reset ∧ HoldPinLaw InsertPort.reset := by
  simp [PortLaw, HoldPinLaw, InsertPort.reset]

theorem channel_reset_law : ChannelLaw Channel.reset := by
  simp [ChannelLaw, recordsFit, records, Channel.reset]

theorem channel_reset_cueLaw : CueLaw Channel.reset := by
  simp [CueLaw, Channel.reset]

theorem reset_cueTotal : State.reset.cueTotal = 0 := by
  simp [State.cueTotal, State.reset_chan, Channel.reset, Config.slots]

theorem reset_idLaw : IdLaw State.reset := by
  simp [IdLaw, State.reset_chan, usedIds, records, Channel.reset, Config.slots]

/-- Settles O3: the reset state has no alert, no frame, no record, no entry, no owned port and no sent cell, and its settings are those
of R65. -/
theorem lawsHoldAtReset : Obligations.LawsHoldAtReset := by
  refine ⟨by simp [AlertTableLaw, State.reset], ?drive, ?guard, fun p => ?ports, by simp [TxQueueLaw, State.reset, LineInterface.reset],
    fun i => ?channels, ⟨fun i => ?cues, ?total⟩, reset_idLaw, ?loss, ?key, ?set, ?ring, ?sequence, ?settings, ?binding, ?timed⟩
  case drive =>
    simp [DriveLaw, State.drivesLine, State.sendsBits, State.reset, LineInterface.reset, LineInterface.flying,
      LineInterface.responding, LineInterface.drivesBreak]
  case guard => simp [GuardLaw, State.reset_chan, records, Channel.reset]
  case ports =>
    rw [State.reset_port]
    exact ⟨insertPort_reset_law.1, fun _ => insertPort_reset_law.2⟩
  case channels => rw [State.reset_chan]; exact channel_reset_law
  case cues => rw [State.reset_chan]; exact channel_reset_cueLaw
  case total => rw [reset_cueTotal]; decide
  case loss => simp [LossLaw, State.reset_chan, records, Channel.reset]
  case key => simp [KeyLaw, State.reset_chan, records, Channel.reset]
  case set => simp [ChannelSetLaw, State.reset]
  case ring =>
    refine ⟨by simp [State.reset, AlertRing.reset], fun i p n h => ?_⟩
    simp [State.reset_chan, Channel.reset] at h
  case sequence =>
    refine ⟨fun _ => rfl, fun i => ?_⟩
    have h : sentFor State.reset i = [] := rfl
    rw [h, State.reset_chan]
    exact ⟨rfl, rfl⟩
  case settings => simp [SettingsLaw, State.reset]
  case binding =>
    refine ⟨fun _ p => by rw [State.reset_port]; rfl, fun i p => ⟨fun h => ?_, fun m k h => ?_⟩⟩
    · rw [State.reset_port] at h
      exact absurd h (by simp [InsertPort.reset])
    · rw [State.reset_chan] at h
      exact absurd h (by simp [boundPort, Channel.reset])
  case timed => simp [TimedLaw, State.reset_chan, Channel.reset]

/-- Settles O4: a command that is not of power-on or of a pin is taken behind the gate of a held part. -/
theorem heldPartTakesNoOtherCommand : Obligations.HeldPartTakesNoOtherCommand := by
  intro c s held taken
  rw [exec_eq_take taken, State.take, if_pos held]

/-! ## Power-on and the pins -/

theorem strapsValid_iff (p : ReleaseLevels) :
    strapsValid p = true ↔ 1 ≤ p.number.toNat ∧ p.number.toNat ≤ 62 ∧ 1 ≤ p.base.toNat ∧ p.base.toNat ≤ 254 := by
  simp [strapsValid, and_assoc]

/-- A part that power-on finds in reset has its power-on values, with HOLD asserted (R17, R168). -/
theorem State.powerUp_enterReset (s : State) :
    s.powerUp.enterReset = { s.powerUp with rstAsserted := true, ports := Vector.replicate 4 InsertPort.inReset } := by
  have h : s.powerUp.channels.map Channel.afterRstn = s.powerUp.channels := Vector.map_replicate
  unfold State.enterReset
  rw [h]
  rfl

/-- Settles O5, command by command: each is one update of the whole state, chosen by the power and the level of RSTn. -/
theorem resetCommandsSetEveryBlock : Obligations.ResetCommandsSetEveryBlock := by
  intro s levels joined
  have read (u : State) (h : u.timer = 0) : u.readStraps levels = joined u := by
    simp only [State.readStraps, joined, h, strapsValid_iff]
  refine ⟨fun h => ?_, fun h => ?_, rfl, fun hp hr ht => ?_, fun hp hr => ?_, fun h => ?_, fun level => rfl⟩
  · simp only [exec, execPowerOn, h]
    exact congrArg _ (read _ rfl)
  · simp only [exec, execPowerOn, h, if_true, State.powerUp_enterReset]
    rfl
  · simp only [exec, execRstnRelease]
    rw [if_neg (by simp [hr]), if_pos hp]
    exact congrArg _ (read { s with rstAsserted := false, ports := Vector.replicate 4 InsertPort.reset } ht)
  · simp [exec, execRstnRelease, hp, hr]
  · simp only [exec, execRstnRelease, h, if_true]

/-! ## Intervals -/

theorem intervalsOverlap_iff (a b : Time) (la lb : Nat) :
    intervalsOverlap a la b lb = true ↔ signed b a < la ∧ signed a b < lb := by
  simp [intervalsOverlap]

/-- The signed differences of two times in the two orders are opposite, but for times H apart. -/
theorem signed_swap (x y : Time) : signed x y = -signed y x ∨ signed x y = -34359738368 ∧ signed y x = -34359738368 := by
  have h1 := signed_eq_ite x y
  have h2 := signed_eq_ite y x
  rw [diff_toNat] at h1 h2
  split at h1 <;> split at h1 <;> split at h2 <;> split at h2 <;> omega

/-- Settles O7: the definition is the two differences; the earlier interval begins before the other's end whatever its length. -/
theorem intervalsOverlapWhenEachBeginsInTheOther : Obligations.IntervalsOverlapWhenEachBeginsInTheOther := by
  intro a b la lb hla hlb
  have hswap := signed_swap a b
  refine ⟨intervalsOverlap_iff a b la lb, fun h => ?later, fun h => ?earlier, fun h => ?touching⟩
  case later =>
    rw [atOrAfter_iff_signed] at h
    have hle : signed a b ≤ 0 := by omega
    exact ⟨hle, by rw [intervalsOverlap_iff]; omega⟩
  case earlier =>
    rw [atOrAfter_false_iff_signed] at h
    rw [intervalsOverlap_iff]
    omega
  case touching =>
    rw [← Bool.not_eq_true, intervalsOverlap_iff]
    omega

/-! ## Region windows (R92) -/

theorem WindowScope.admits_iff (w : WindowScope) (scope : AlertScope) :
    w.admits scope = true ↔ w = .either ∨ (w = .liveOnly ∧ scope = .live) ∨ (w = .testOnly ∧ scope = .test) := by
  cases w <;> cases scope <;> decide

/-- A word under the inverse of a mask is zero when its bits that the mask does not hide are. -/
theorem and_not_eq_zero_iff (x m : BitVec 16) : x &&& ~~~ m = 0#16 ↔ ∀ n, n < 16 → m.getLsbD n = false → x.getLsbD n = false := by
  constructor
  · intro h n hn hm
    have h : (x.getLsbD n && (decide (n < 16) && !m.getLsbD n)) = (0#16).getLsbD n := by
      rw [← BitVec.getLsbD_not, ← BitVec.getLsbD_and, h]
    rw [hm, BitVec.getLsbD_zero] at h
    simpa only [hn, decide_true, Bool.not_false, Bool.and_true] using h
  · intro h
    apply BitVec.eq_of_getLsbD_eq
    intro n hn
    cases hm : m.getLsbD n
    · simp [h n hn hm]
    · simp [hm]

/-- Settles O29: the masked difference is zero bit by bit. -/
theorem windowsMatchByBareBitsAndScope : Obligations.WindowsMatchByBareBitsAndScope := by
  intro s w region scope
  refine ⟨?_, rfl⟩
  rw [RegionWindow.matches, Bool.and_eq_true, beq_iff_eq, and_not_eq_zero_iff, WindowScope.admits_iff]
  simp

end Sys2Proof.Machine
end

section
/-!
Cells, frames and the check byte as bytes on the line (sections 8.3 and 12.1): fields of a word are read as quotients and remainders of
its number, and a bit of the check register's input is never lost.
-/
namespace Sys2Proof.Machine

open Sys2Proof.Safety

/-! ## Fields of a word -/

theorem append_toNat {n m : Nat} (x : BitVec n) (y : BitVec m) : (x ++ y).toNat = x.toNat * 2 ^ m + y.toNat := by
  rw [BitVec.toNat_append, ← Nat.shiftLeft_add_eq_or_of_lt y.isLt, Nat.shiftLeft_eq]

theorem extract_toNat {n : Nat} (x : BitVec n) (start len : Nat) :
    (x.extractLsb' start len).toNat = x.toNat / 2 ^ start % 2 ^ len := by
  rw [BitVec.extractLsb'_toNat, Nat.shiftRight_eq_div_pow]

theorem getLsbD_eq_decide {n : Nat} (x : BitVec n) (k : Nat) : x.getLsbD k = decide (x.toNat / 2 ^ k % 2 = 1) := by
  rw [← BitVec.testBit_toNat, Nat.testBit_eq_decide_div_mod_eq]

/-- A field is read back when the number of what is read is its number. -/
theorem flag_eq {n : Nat} {b : Bool} (h : n = b.toNat) : decide (n = 1) = b := by
  subst h
  cases b <;> rfl

/-- Settles O8: both directions place by place, over the number that the eight bytes are. -/
theorem cellHeaderRoundTrips : Obligations.CellHeaderRoundTrips := by
  refine ⟨fun c => ?_, fun w payload => ⟨?_, rfl⟩⟩
  · obtain ⟨mark, tag, seq, unit, stamp, disc, fill, time, payload⟩ := c
    have hu := unit.toNat_lt
    have hs := stamp.toNat_lt
    have hd := disc.toNat_lt
    have hf := fill.toNat_lt
    simp only [cellOfHeaderBits, StreamCell.mk.injEq, getLsbD_eq_decide]
    refine ⟨BitVec.eq_of_toNat_eq ?_, BitVec.eq_of_toNat_eq ?_, BitVec.eq_of_toNat_eq ?_, flag_eq ?_, flag_eq ?_, flag_eq ?_,
      flag_eq ?_, BitVec.eq_of_toNat_eq ?_, trivial⟩ <;>
      simp only [cellHeaderBits, append_toNat, extract_toNat, BitVec.toNat_ofBool] <;> omega
  · apply BitVec.eq_of_toNat_eq
    simp only [cellOfHeaderBits, cellHeaderBits, append_toNat, extract_toNat, BitVec.toNat_ofBool, getLsbD_eq_decide]
    have bit (n : Nat) : (decide (n % 2 = 1)).toNat = n % 2 := by
      rcases Nat.mod_two_eq_zero_or_one n with h | h <;> simp [h]
    simp only [bit]
    omega

/-! ## Payload layouts (section 12.1) -/

theorem CutKind.ofValue_value (k : CutKind) : CutKind.ofValue k.value = some k := by cases k <;> decide

theorem cutFields_cutPayload (tag : BitVec 12) (kind : CutKind) (cueId : Ident) (reason : CutReason) (stamp : Time) (late : Byte) :
    cutFields (cutPayload tag kind cueId reason stamp late) = ⟨tag, kind.value, cueId, reason.value, stamp, late⟩ := by
  simp only [cutFields, CutFields.mk.injEq]
  refine ⟨BitVec.eq_of_toNat_eq ?_, BitVec.eq_of_toNat_eq ?_, BitVec.eq_of_toNat_eq ?_, BitVec.eq_of_toNat_eq ?_,
    BitVec.eq_of_toNat_eq ?_, BitVec.eq_of_toNat_eq ?_⟩ <;>
    simp only [cutPayload, append_toNat, extract_toNat, BitVec.toNat_ofNat] <;> omega

theorem cueFields_time (cueId : Ident) (slot : BitVec 4) (port : BitVec 2) (early : Bool) (splice : Time) (duration : BitVec 24)
    (wait : Byte) :
    let f := cueFields (cueId ++ slot ++ port ++ BitVec.ofBool early ++ 0#1 ++ 0#4 ++ splice ++ duration ++ wait)
    f.cueId = cueId ∧ f.slot = slot.toFin ∧ f.port = port.toFin ∧ f.earlyReturn = early ∧ f.peerTrigger = false ∧
      f.triggerHigh = 0 ∧ f.splice = splice ∧ f.duration = duration.toNat ∧ f.peerWait = wait.toNat := by
  have he := early.toNat_lt
  simp only [cueFields, getLsbD_eq_decide]
  refine ⟨BitVec.eq_of_toNat_eq ?_, congrArg BitVec.toFin (BitVec.eq_of_toNat_eq ?_),
    congrArg BitVec.toFin (BitVec.eq_of_toNat_eq ?_), flag_eq ?_, flag_eq ?_, BitVec.eq_of_toNat_eq ?_,
    BitVec.eq_of_toNat_eq ?_, ?_, ?_⟩ <;>
    simp only [append_toNat, extract_toNat, BitVec.toNat_ofBool, BitVec.ofNat_eq_ofNat, BitVec.toNat_ofNat, Bool.toNat_false] <;> omega

theorem cueFields_peer (cueId : Ident) (slot : BitVec 4) (port : BitVec 2) (early : Bool) (station : Byte)
    (peerCue offset : BitVec 16) (duration : BitVec 24) (wait : Byte) :
    let f := cueFields (cueId ++ slot ++ port ++ BitVec.ofBool early ++ 1#1 ++ station ++ peerCue ++ offset ++ duration ++ wait)
    f.cueId = cueId ∧ f.slot = slot.toFin ∧ f.port = port.toFin ∧ f.earlyReturn = early ∧ f.peerTrigger = true ∧
      f.peerStation = station ∧ f.peerCueId = peerCue ∧ f.peerOffset = offset.toNat ∧ f.duration = duration.toNat ∧
      f.peerWait = wait.toNat := by
  have he := early.toNat_lt
  simp only [cueFields, getLsbD_eq_decide]
  refine ⟨BitVec.eq_of_toNat_eq ?_, congrArg BitVec.toFin (BitVec.eq_of_toNat_eq ?_),
    congrArg BitVec.toFin (BitVec.eq_of_toNat_eq ?_), flag_eq ?_, flag_eq ?_, BitVec.eq_of_toNat_eq ?_,
    BitVec.eq_of_toNat_eq ?_, ?_, ?_, ?_⟩ <;>
    simp only [append_toNat, extract_toNat, BitVec.toNat_ofBool, BitVec.toNat_ofNat, Bool.toNat_true] <;> omega

theorem alertOnFields_append (alertId : Ident) (region : BitVec 16) (control : Byte) (inverted : BitVec 24)
    (duration : BitVec 16) (floor : Byte) :
    alertOnFields (alertId ++ region ++ control ++ inverted ++ duration ++ floor) =
      ⟨alertId, region, control, inverted, duration.toNat, floor.toNat⟩ := by
  simp only [alertOnFields, AlertOnFields.mk.injEq]
  refine ⟨BitVec.eq_of_toNat_eq ?_, BitVec.eq_of_toNat_eq ?_, BitVec.eq_of_toNat_eq ?_, BitVec.eq_of_toNat_eq ?_, ?_, ?_⟩ <;>
    simp only [append_toNat, extract_toNat] <;> omega

/-- The bits of a control byte (R169). -/
theorem control_bits (test : Bool) (level : BitVec 3) :
    let c : Byte := 0#4 ++ BitVec.ofBool test ++ level
    c.extractLsb' 0 3 = level ∧ c.getLsbD 3 = test ∧ c.extractLsb' 4 4 = 0#4 := by
  have ht := test.toNat_lt
  simp only [getLsbD_eq_decide]
  refine ⟨BitVec.eq_of_toNat_eq ?_, flag_eq ?_, BitVec.eq_of_toNat_eq ?_⟩ <;>
    simp only [append_toNat, extract_toNat, BitVec.toNat_ofBool, BitVec.toNat_ofNat] <;> omega

theorem queryFields_append (floor : Byte) (mask : ChanMask) (all inverts : Bool) (test : BitVec 3) :
    queryFields (floor ++ mask ++ (0#3 ++ BitVec.ofBool all ++ BitVec.ofBool inverts ++ test)) =
      ⟨floor.toNat, mask, test, inverts, all⟩ := by
  have ha := all.toNat_lt
  have hi := inverts.toNat_lt
  simp only [queryFields, QueryFields.mk.injEq, getLsbD_eq_decide]
  refine ⟨?_, BitVec.eq_of_toNat_eq ?_, BitVec.eq_of_toNat_eq ?_, flag_eq ?_, flag_eq ?_⟩ <;>
    simp only [append_toNat, extract_toNat, BitVec.toNat_ofBool, BitVec.toNat_ofNat] <;> omega

/-- The bytes of a SETUP_WINDOW payload (R169). -/
theorem setupWindow_bytes (index : Byte) (base mask set : BitVec 16) (code modeCode : Byte) :
    let p : BitVec 72 := index ++ base ++ mask ++ code ++ modeCode ++ set
    p.extractLsb' 64 8 = index ∧ p.extractLsb' 48 16 = base ∧ p.extractLsb' 32 16 = mask ∧ p.extractLsb' 24 8 = code ∧
      p.extractLsb' 16 8 = modeCode ∧ p.extractLsb' 0 16 = set := by
  refine ⟨BitVec.eq_of_toNat_eq ?_, BitVec.eq_of_toNat_eq ?_, BitVec.eq_of_toNat_eq ?_, BitVec.eq_of_toNat_eq ?_,
    BitVec.eq_of_toNat_eq ?_, BitVec.eq_of_toNat_eq ?_⟩ <;>
    simp only [append_toNat, extract_toNat] <;> omega

/-- Settles O9, layout by layout. -/
theorem payloadLayoutsRoundTrip : Obligations.PayloadLayoutsRoundTrip := by
  refine ⟨fun tag kind cueId reason stamp late => ?cut, cueFields_time, cueFields_peer,
    fun alertId region test level inverted duration floor => ?alertOn, queryFields_append,
    fun index base mask set scope mode => ?window⟩
  case cut => exact ⟨cutFields_cutPayload .., by rw [cutFields_cutPayload]; exact kind.ofValue_value⟩
  case alertOn =>
    obtain ⟨hlevel, htest, hzero⟩ := control_bits test level
    have hne : level.toNat ≠ 0 ↔ level ≠ 0 := by
      rw [ne_eq, ne_eq, ← BitVec.toNat_inj]
      rfl
    intro f
    rw [show f = _ from alertOnFields_append alertId region (0#4 ++ BitVec.ofBool test ++ level) inverted duration floor]
    simp only [AlertOnFields.level, AlertOnFields.scope, AlertOnFields.intact, hlevel, htest, hzero, bne_iff_ne,
      Bool.and_eq_true, beq_iff_eq, and_true, hne]
  case window =>
    intro code modeCode p
    obtain ⟨hindex, hbase, hmask, hcode, hmode, hset⟩ := setupWindow_bytes index base mask set code modeCode
    refine ⟨hindex, ?_⟩
    have hscope : windowScopeOf code = some scope := by cases scope <;> decide
    have hmode' : alertModeOf modeCode = some mode := by cases mode <;> decide
    simp only [setupWindowOf, p, hbase, hmask, hcode, hmode, hset, hscope, hmode']

/-! ## The check byte (section 8.3) -/

theorem FrameKind.ofValue_value (k : FrameKind) : FrameKind.ofValue k.value = some k := by cases k <;> decide

theorem headerByte0_kind (priority : BitVec 3) (kind : FrameKind) : (headerByte0 priority kind).extractLsb' 0 5 = kind.value := by
  apply BitVec.eq_of_toNat_eq
  simp only [headerByte0, append_toNat, extract_toNat]
  omega

theorem Report.payload_length (r : Report) : r.payload.length = r.kind.payloadBytes := by
  cases r <;> simp [Report.payload, Report.kind, FrameKind.payloadBytes, payloadBytes]

/-- The last byte read is judged against the check byte over the others (R129). -/
theorem judgeFrame_append (covered : List Byte) (check : Byte) :
    judgeFrame (covered ++ [check]) = if checkByte covered ≠ check then .checkError
      else match FrameKind.ofValue (((covered ++ [check]).headD 0).extractLsb' 0 5) with
        | none => .unknownKind
        | some k => if covered.length + 1 = k.payloadBytes + 4 then .intact else .lengthError := by
  simp only [judgeFrame, List.dropLast_concat, List.getLastD_concat, List.length_append, List.length_singleton] <;> rfl

/-- Settles O10: the last byte is the check byte over the others, the first names the report's kind, and the payload has the kind's
length. -/
theorem sentFramesAreJudgedIntact : Obligations.SentFramesAreJudgedIntact := by
  intro number r
  have hkind (rest : List Byte) : ((headerByte0 r.priority r.kind :: rest).headD 0).extractLsb' 0 5 = r.kind.value :=
    headerByte0_kind _ _
  rw [Report.frameBytes, judgeFrame_append, if_neg (not_not_intro rfl), List.cons_append, hkind, FrameKind.ofValue_value]
  simp [r.payload_length]

/-- The register before a bit went in, from the register after it: the polynomial is odd, so its lowest bit tells whether it was
added. -/
def crcUndo (r : Byte) (d : Bool) : Byte :=
  if r.getLsbD 0 then ((r ^^^ 0x1D#8) >>> 1) ||| (if d then 0#8 else 0x80#8) else (r >>> 1) ||| (if d then 0x80#8 else 0#8)

theorem crcUndo_crcBit : ∀ (r : Byte) (d : Bool), crcUndo (crcBit r d) d = r := by decide

theorem crcBit_injective (d : Bool) : Function.Injective fun r => crcBit r d := fun a b h => by
  rw [← crcUndo_crcBit a d, ← crcUndo_crcBit b d]
  exact congrArg (crcUndo · d) h

/-- A bit that goes in inverted leaves another lowest bit in the register. -/
theorem crcBit_ne : ∀ (r : Byte) (d : Bool), crcBit r (!d) ≠ crcBit r d := by decide

/-- Registers that differ still differ after the same input. -/
theorem crcFold_injective {α : Type} {f : Byte → α → Byte} (hf : ∀ a, Function.Injective fun r => f r a) (l : List α) :
    Function.Injective fun r => l.foldl f r := by
  induction l with
  | nil => exact fun a b h => h
  | cons x l ih => exact fun a b h => hf x (ih h)

theorem crcByte_injective (b : Byte) : Function.Injective fun r => crcByte r b :=
  crcFold_injective (fun k => crcBit_injective (b.getLsbD k)) _

/-- The bits of a byte with bit slot n inverted (R126). -/
theorem invertedByte_getLsbD (b : Byte) {n : Nat} (hn : n < 8) (k : Nat) (hk : k < 8) :
    (b ^^^ (0x80#8 >>> n)).getLsbD k = if k = 7 - n then !b.getLsbD k else b.getLsbD k := by
  have h : ∀ n < 8, ∀ k < 8, (0x80#8 >>> n).getLsbD k = decide (k = 7 - n) := by decide
  rw [BitVec.getLsbD_xor, h n hn k hk]
  by_cases e : k = 7 - n <;> simp [e]

/-- One inverted bit among the bits that go in, in their order, makes another register. -/
theorem crcFold_ne (g : Nat → Bool) (j : Nat) (l : List Nat) (hl : l.Nodup) (hj : j ∈ l) (r : Byte) :
    l.foldl (fun r k => crcBit r (if k = j then !g k else g k)) r ≠ l.foldl (fun r k => crcBit r (g k)) r := by
  induction l generalizing r with
  | nil => simp at hj
  | cons x l ih =>
    obtain ⟨hx, hl⟩ := List.nodup_cons.mp hl
    simp only [List.foldl_cons]
    by_cases e : x = j
    · subst e
      rw [if_pos rfl, List.foldl_ext _ (fun r k => crcBit r (g k)) _ fun r k hk => by
        rw [if_neg (show k ≠ x from fun hkx => hx (hkx ▸ hk))]]
      exact fun h => crcBit_ne r (g x) (crcFold_injective (fun k => crcBit_injective (g k)) l h)
    · rw [if_neg e]
      exact ih hl (List.mem_of_ne_of_mem (Ne.symm e) hj) _

theorem crcByte_ne (r b : Byte) {n : Nat} (hn : n < 8) : crcByte r (b ^^^ (0x80#8 >>> n)) ≠ crcByte r b := by
  have h := crcFold_ne (fun k => b.getLsbD k) (7 - n) [7, 6, 5, 4, 3, 2, 1, 0] (by decide) (by simp; omega) r
  rw [crcByte, List.foldl_ext _ _ _ fun r k hk => by
    rw [invertedByte_getLsbD b hn k (by simp at hk; omega)]]
  exact h

/-- One inverted bit in the bytes makes another register after them. -/
theorem crcBytes_ne (bytes : List Byte) (k : Nat) {n : Nat} (hk : k < bytes.length) (hn : n < 8) (r : Byte) :
    (bytes.modify k fun b => b ^^^ (0x80#8 >>> n)).foldl crcByte r ≠ bytes.foldl crcByte r := by
  induction bytes generalizing k r with
  | nil => simp at hk
  | cons b rest ih =>
    cases k with
    | zero =>
      rw [List.modify_zero_cons]
      exact fun h => crcByte_ne r b hn (crcFold_injective crcByte_injective rest h)
    | succ k => 
      rw [List.modify_succ_cons]
      exact ih k (by simpa using hk) _

theorem checkByte_ne {a b : List Byte} (h : a.foldl crcByte 0xFF#8 ≠ b.foldl crcByte 0xFF#8) : checkByte a ≠ checkByte b :=
  fun e => h (BitVec.not_inj.mp e)

theorem modify_append_of_lt {α : Type} (f : α → α) (l r : List α) {k : Nat} (h : k < l.length) :
    (l ++ r).modify k f = l.modify k f ++ r := by
  induction l generalizing k with
  | nil => simp at h
  | cons a l ih =>
    cases k with
    | zero => rfl
    | succ k =>
      rw [List.cons_append, List.modify_succ_cons, List.modify_succ_cons, ih (by simpa using h), List.cons_append]

theorem modify_append_last {α : Type} (f : α → α) (l : List α) (a : α) : (l ++ [a]).modify l.length f = l ++ [f a] := by
  induction l with
  | nil => rfl
  | cons b l ih => rw [List.cons_append, List.length_cons, List.modify_succ_cons, ih, List.cons_append]

theorem invertedByte_ne (b : Byte) {n : Nat} (hn : n < 8) : b ^^^ (0x80#8 >>> n) ≠ b := by
  intro h
  have hbit := invertedByte_getLsbD b hn (7 - n) (by omega)
  rw [h, if_pos rfl] at hbit
  cases hb : b.getLsbD (7 - n) <;> simp [hb] at hbit

/-- Settles O11: an inverted bit before the check byte makes another register, and one of the check byte leaves the register and makes
another check byte. -/
theorem oneInvertedBitIsACheckError : Obligations.OneInvertedBitIsACheckError := by
  intro covered bit hbit
  have hn : bit % 8 < 8 := Nat.mod_lt _ (by decide)
  rcases Nat.lt_or_ge (bit / 8) covered.length with hk | hk
  · rw [invertBit, modify_append_of_lt _ _ _ hk, judgeFrame_append, if_pos (checkByte_ne (crcBytes_ne covered _ hk hn _))]
  · have hlast : bit / 8 = covered.length := by omega
    rw [invertBit, hlast, modify_append_last, judgeFrame_append, if_pos (Ne.symm (invertedByte_ne _ hn))]

/-! ## The packed bytes of the pages (section 12.2) -/

end Sys2Proof.Machine
end

section
/-!
The pages of STATE_READ (sections 9.6 and 12.2): the bits of their packed bytes, and which page an item and an index name.
-/
namespace Sys2Proof.Machine

open Sys2Proof.Safety

/-! ## Packed bytes -/

/-- Byte 0 of the channel summary: a state code under two flags (R170). -/
theorem packed_state (a b : Bool) (v : BitVec 3) :
    let x : Byte := (0#3 : BitVec 3) ++ BitVec.ofBool a ++ BitVec.ofBool b ++ v
    x.extractLsb' 0 3 = v ∧ x.getLsbD 3 = b ∧ x.getLsbD 4 = a ∧ x.extractLsb' 5 3 = 0#3 := by
  have ha := a.toNat_lt
  have hb := b.toNat_lt
  simp only [getLsbD_eq_decide]
  refine ⟨BitVec.eq_of_toNat_eq ?_, flag_eq ?_, flag_eq ?_, BitVec.eq_of_toNat_eq ?_⟩ <;>
    simp only [append_toNat, extract_toNat, BitVec.toNat_ofBool, BitVec.toNat_ofNat] <;> omega

/-- Byte 1 of the channel summary: three codes of two bits (R170). -/
theorem packed_codes (x y z : BitVec 2) :
    let w : Byte := (0#2 : BitVec 2) ++ x ++ y ++ z
    w.extractLsb' 0 2 = z ∧ w.extractLsb' 2 2 = y ∧ w.extractLsb' 4 2 = x ∧ w.extractLsb' 6 2 = 0#2 := by
  refine ⟨BitVec.eq_of_toNat_eq ?_, BitVec.eq_of_toNat_eq ?_, BitVec.eq_of_toNat_eq ?_, BitVec.eq_of_toNat_eq ?_⟩ <;>
    simp only [append_toNat, extract_toNat, BitVec.toNat_ofNat] <;> omega

/-- Byte 0 of the first port page: a mode code under two flags (R170). -/
theorem packed_mode (a b : Bool) (v : BitVec 2) :
    let x : Byte := (0#4 : BitVec 4) ++ BitVec.ofBool a ++ BitVec.ofBool b ++ v
    x.extractLsb' 0 2 = v ∧ x.getLsbD 2 = b ∧ x.getLsbD 3 = a ∧ x.extractLsb' 4 4 = 0#4 := by
  have ha := a.toNat_lt
  have hb := b.toNat_lt
  simp only [getLsbD_eq_decide]
  refine ⟨BitVec.eq_of_toNat_eq ?_, flag_eq ?_, flag_eq ?_, BitVec.eq_of_toNat_eq ?_⟩ <;>
    simp only [append_toNat, extract_toNat, BitVec.toNat_ofBool, BitVec.toNat_ofNat] <;> omega

theorem bitsByte_three : ∀ a b c : Bool, (bitsByte [a, b, c]).getLsbD 0 = a ∧ (bitsByte [a, b, c]).getLsbD 1 = b ∧
    (bitsByte [a, b, c]).getLsbD 2 = c ∧ (bitsByte [a, b, c]).extractLsb' 3 5 = 0 := by decide

theorem bitsByte_five : ∀ a b c d e : Bool, (bitsByte [a, b, c, d, e]).getLsbD 0 = a ∧ (bitsByte [a, b, c, d, e]).getLsbD 1 = b ∧
    (bitsByte [a, b, c, d, e]).getLsbD 2 = c ∧ (bitsByte [a, b, c, d, e]).getLsbD 3 = d ∧
    (bitsByte [a, b, c, d, e]).getLsbD 4 = e ∧ (bitsByte [a, b, c, d, e]).extractLsb' 5 3 = 0 := by decide

/-- A word is its two bytes (R170). -/
theorem twoBytes_append (x : BitVec 16) : x.extractLsb' 8 8 ++ x.extractLsb' 0 8 = x := by
  apply BitVec.eq_of_toNat_eq
  simp only [append_toNat, extract_toNat]
  omega

theorem numberByte_toNat {n : Nat} (h : n < 256) : (numberByte n).toNat = n := by
  rw [numberByte, BitVec.toNat_ofNat, Nat.mod_eq_of_lt h]

/-- No port is bound to a channel that owns none (R149). -/
theorem State.boundPort_none {s : State} {i : Slot} (h : ∀ x, (s.port x).owner ≠ some i) : s.boundPort i = none := by
  rw [State.boundPort, List.find?_eq_none]
  intro x _
  simpa using h x

/-- The one port a channel owns is bound to it (R149). -/
theorem State.boundPort_some {s : State} {i : Slot} {q : PortId} (h : (s.port q).owner = some i)
    (hne : ∀ x, x ≠ q → (s.port x).owner ≠ some i) : s.boundPort i = some q := by
  cases hb : s.boundPort i with
  | none =>
    rw [State.boundPort, List.find?_eq_none] at hb
    exact absurd h (by simpa using hb q (by fin_cases q <;> decide))
  | some x =>
    have hx := List.find?_some hb
    rw [Decidable.not_imp_not.mp (hne x) (by simpa using hx)]

/-- Settles O44: the code values are computed, and each packed byte is read by the lemma on its fields. -/
theorem packedPagesCarryTheirFields : Obligations.PackedPagesCarryTheirFields := by
  refine ⟨by decide, fun s i q => ?_⟩
  intro c byte summary first
  have hs0 : summary 0 = (0#3 : BitVec 3) ++ BitVec.ofBool (c.state == .alertWait && c.starved) ++
    BitVec.ofBool (c.state == .returnWait && c.returnCondition == some .any) ++ c.state.value := rfl
  have hs1 : summary 1 = (0#2 : BitVec 2) ++ c.clock.state.value ++ BitVec.ofNat 2 c.hold.length ++ c.occupant.1 := rfl
  have hid : summary 2 ++ summary 3 = c.occupant.2 := twoBytes_append c.occupant.2
  have hs4 : summary 4 = bitsByte [c.rights == .guarded, c.fixed, c.activity] := rfl
  have hs5 : summary 5 = numberByte c.cues.length := rfl
  have hs6 : summary 6 = absentAs80 (s.boundPort i) := rfl
  have hf0 : first 0 = (0#4 : BitVec 4) ++ BitVec.ofBool (s.port q).hold ++ BitVec.ofBool (s.port q).seeking ++
    (s.port q).mode.value := rfl
  have hf1 : first 1 = absentAs80 (s.port q).owner := rfl
  have hf2 : first 2 = numberByte (s.port q).queue.length := rfl
  have hflags : s.stationFlags = bitsByte [s.lock, s.fixPermitted, s.rlk, s.startLatch, s.line.transmitFault] := rfl
  obtain ⟨hstate, hany, hstarved, hzero0⟩ := packed_state (c.state == .alertWait && c.starved)
    (c.state == .returnWait && c.returnCondition == some .any) c.state.value
  obtain ⟨hocc, hhold, hclock, hzero1⟩ := packed_codes c.clock.state.value (BitVec.ofNat 2 c.hold.length) c.occupant.1
  obtain ⟨hrights, hfixed, hactivity, hzero4⟩ := bitsByte_three (c.rights == .guarded) c.fixed c.activity
  obtain ⟨hmode, hseek, hhold', hzerof⟩ := packed_mode (s.port q).hold (s.port q).seeking (s.port q).mode.value
  obtain ⟨hlock, hfix, hrlk, hstart, hfault, hzero⟩ :=
    bitsByte_five s.lock s.fixPermitted s.rlk s.startLatch s.line.transmitFault
  rw [hid, hs0, hs1, hs4, hs5, hs6, hf0, hf1, hf2, hflags, hstate, hany, hstarved, hzero0, hocc, hhold, hclock, hzero1, hrights,
    hfixed, hactivity, hzero4, hmode, hseek, hhold', hzerof, hlock, hfix, hrlk, hstart, hfault, hzero]
  refine ⟨rfl, by simp, by simp, rfl, fun h => ?_, fun b h => ?_, fun a h => ?_, fun h => ?_, rfl, rfl, by simp, rfl, rfl, rfl,
    fun h => numberByte_toNat (by omega), fun h => ?_, fun h hne => ?_, rfl, rfl, rfl, rfl, fun h => ?_, fun h => ?_,
    fun h => numberByte_toNat (by omega), twoBytes_append _, twoBytes_append _, rfl, rfl, rfl, rfl, rfl, rfl⟩
  · simp [Channel.occupant, h]
  · simp [Channel.occupant, h]
  · simp [Channel.occupant, h]
  · rw [BitVec.toNat_ofNat]
    omega
  · rw [State.boundPort_none h]
    rfl
  · rw [State.boundPort_some h hne]
    rfl
  · rw [h]
    rfl
  · rw [h]
    rfl

end Sys2Proof.Machine
end

section
/-!
The frames to the station that touch many channels or its setup values: RIGHTS_FIX, LATCH_CLEAR, STATE_READ and the setup frames, each
behind the frame that is heard (R141, R145).
-/
namespace Sys2Proof.Machine

open Sys2Proof.Safety

/-! ## A change of every channel of a mask -/

theorem nodup_maskSlots (m : ChanMask) : (maskSlots m).Nodup := List.Nodup.filter _ (by decide)

/-- A change of the channels of a list, one after the other, changes each channel of the list and nothing else. -/
theorem foldl_modChan (f : Channel → Channel) (l : List Slot) (hl : l.Nodup) (s : State) :
    (∀ i, (l.foldl (fun s i => s.modChan i f) s).chan i = if i ∈ l then f (s.chan i) else s.chan i) ∧
    l.foldl (fun s i => s.modChan i f) s = { s with channels := (l.foldl (fun s i => s.modChan i f) s).channels } := by
  induction l generalizing s with
  | nil => exact ⟨fun i => by simp, rfl⟩
  | cons a l ih =>
    obtain ⟨ha, hl⟩ := List.nodup_cons.mp hl
    obtain ⟨hchan, hframe⟩ := ih hl (s.modChan a f)
    refine ⟨fun i => ?_, hframe⟩
    rw [List.foldl_cons, hchan, State.modChan_chan]
    by_cases e : i = a
    · subst e
      simp [ha]
    · simp [e]

/-- The channels of a mask are changed at once. -/
theorem foldl_maskSlots (m : ChanMask) (f : Channel → Channel) (s : State) :
    (maskSlots m).foldl (fun s i => s.modChan i f) s =
      { s with channels := Vector.ofFn fun i : Slot => if inMask m i then f (s.chan i) else s.chan i } := by
  obtain ⟨hchan, hframe⟩ := foldl_modChan f (maskSlots m) (nodup_maskSlots m) s
  rw [hframe]
  have hv : ((maskSlots m).foldl (fun s i => s.modChan i f) s).channels =
      Vector.ofFn fun i : Slot => if inMask m i then f (s.chan i) else s.chan i := by
    refine State.channels_ext fun i => ?_
    have h := hchan i
    simp only [mem_maskSlots] at h
    simpa [State.chan] using h
  rw [hv]

/-! ## A frame that is heard -/

/-- A frame heard outside LISTEN is judged by its block with its window open. -/
theorem State.take_receive {w : Nat} {s : State} {h : FrameHeader} (hear : Hears s) (hd : h.destination.toNat < 64)
    (hs : fromStation h) (hl : s.station ≠ .listen) (t : Time) (kind : FrameKind) (p : BitVec w) (act : State → State) :
    (s.take t fun s => s.receive kind h p act) = .next (act (answered s t kind.responseType .silent)) := by
  rw [State.take_of_not_held hear.1, State.receive_of_hears hear hd hs hl]

/-- A frame heard in LISTEN moves the quiet start as well (R163). -/
theorem State.take_receive_listen {w : Nat} {s : State} {h : FrameHeader} (hear : Hears s) (hd : h.destination.toNat < 64)
    (hs : fromStation h) (hl : s.station = .listen) (t : Time) (kind : FrameKind) (p : BitVec w) (act : State → State) :
    (s.take t fun s => s.receive kind h p act) =
      .next (act (answered { s with quietStart := frameRunEnd t (checkByte (receivedBytes kind h p)) } t kind.responseType
        .silent)) := by
  rw [State.take_of_not_held hear.1, State.receive_of_hears_listen hear hd hs hl]

theorem ownDestination_lt {s : State} {h : FrameHeader} (e : h.destination = s.stationNumber.setWidth 8) :
    h.destination.toNat < 64 := by
  rw [e, StationNo.setWidth_toNat]
  exact s.stationNumber.isLt

theorem toGroup_destination_lt {s : State} {h : FrameHeader} (group : ToGroup s h) : h.destination.toNat < 64 := by
  rcases group.1 with e | e
  · exact ownDestination_lt e
  · rw [e]
    decide

/-! ## RIGHTS_FIX (R121) -/

theorem inService_ne {s : State} (hs : InService s) : s.station ≠ .listen ∧ s.station ≠ .strapFault := by
  rcases hs with hs | hs <;> simp [hs]

/-- A rights frame that CLASH hears is refused (R145). -/
theorem State.takeRights_of_clash {s : State} (hs : s.station = .clash) (t : Time) (act : State → State) :
    (answered s t .ack .silent).takeRights act = answered s t .ack (.ack .notNow) := by
  have hstation : (answered s t .ack .silent).station = .clash := hs
  simp only [State.takeRights, hstation, State.answer_answered]

theorem State.fixChannels_eq (s : State) (m : ChanMask) :
    s.fixChannels m =
      { s with channels := Vector.ofFn fun i : Slot => if inMask m i then { s.chan i with fixed := true } else s.chan i } :=
  foldl_maskSlots m (fun c => { c with fixed := true }) s

/-- Settles O36: the two refusals in their order, and the change of every masked channel. -/
theorem rightsFixNeedsPermissionAndNoLock : Obligations.RightsFixNeedsPermissionAndNoLock := by
  intro t h p s hear own refused
  refine ⟨fun hs => ?inService, fun hs => ?clash⟩
  case inService =>
    have judged : exec (.rightsFix t h p) s = .next ((answered s t .ack .silent).doFix p) := by
      refine (State.take_receive_ifOwn hear own (inService_ne hs).1 (inService_ne hs).2 t .rightsFix p _).trans (congrArg _ ?_)
      exact State.takeRights_of_inService (s := answered s t .ack .silent) hs _
    refine ⟨fun hp => ?_, fun hp hl => ?_, fun hp hl => ?_⟩
    · simp only [refused, judged, State.doFix, answered, hp, if_true]
      rfl
    · simp only [refused, judged, State.doFix, answered, hp, hl, if_true]
      rfl
    · simp only [judged, State.doFix, State.fixChannels_eq, answered, hp, hl]
      rfl
  case clash =>
    have refuse {w : Nat} (kind : FrameKind) (hk : kind.responseType = .ack) (payload : BitVec w) (act : State → State) :
        (s.take t fun s => s.receive kind h payload fun s => s.ifOwn h fun s => s.takeRights act) =
          .next (answered s t .ack (.ack .notNow)) := by
      rw [State.take_receive_ifOwn hear own (by simp [hs]) (by simp [hs]), hk]
      exact congrArg _ (State.takeRights_of_clash hs t act)
    exact ⟨refuse .rightsFix rfl p _, fun action => refuse .rightsLock rfl action _⟩

/-! ## LATCH_CLEAR (R160) -/

theorem State.clearLatches_eq (s : State) (m : ChanMask) :
    s.clearLatches m =
      { s with channels := Vector.ofFn fun i : Slot => if inMask m i then { s.chan i with activity := false } else s.chan i } :=
  foldl_maskSlots m (fun c => { c with activity := false }) s

theorem State.hasLatch_iff (s : State) (m : ChanMask) (start : Bool) :
    s.hasLatch m start = true ↔
      (∃ i, inMask m i = true ∧ (s.chan i).activity = true) ∨ (start = true ∧ s.startLatch = true) := by
  simp [State.hasLatch, mem_maskSlots]

/-- The response is decided over the window that is open, whatever has become of the rest. -/
theorem numberAbove_congr {s u : State} (h : u.stationNumber = s.stationNumber) (floor : Nat) {p q : Prop} [Decidable p] [Decidable q]
    (hpq : p ↔ q) : numberAbove u floor p = numberAbove s floor q := by
  unfold numberAbove
  rw [h]
  simp only [hpq]

theorem State.doLatchClear_answered (s : State) (t : Time) (m : ChanMask) (start : Bool) :
    (answered s t .groupList .silent).doLatchClear m start = answered
      { s with
        channels := Vector.ofFn fun i : Slot => if inMask m i then { s.chan i with activity := false } else s.chan i
        startLatch := if start then false else s.startLatch } t .groupList
      (numberAbove s 0 ((∃ i, inMask m i = true ∧ (s.chan i).activity = true) ∨ (start = true ∧ s.startLatch = true))) := by
  have hstart : (s.startLatch && !start) = if start then false else s.startLatch := by cases start <;> simp
  unfold State.doLatchClear
  rw [State.clearLatches_eq]
  refine (State.answerNumber_answered { s with
    channels := Vector.ofFn fun i : Slot => if inMask m i then { s.chan i with activity := false } else s.chan i
    startLatch := s.startLatch && !start } t _ 0).trans ?_
  rw [hstart]
  exact congrArg _ (numberAbove_congr rfl 0 (State.hasLatch_iff s m start))

/-- Settles O42: the frame is taken where the station takes readings, and opens its window elsewhere. -/
theorem latchClearClearsTheNamedLatches : Obligations.LatchClearClearsTheNamedLatches := by
  intro t h p s hear group start
  refine ⟨fun hs => ?_, fun hs => ?_, fun hs => ?_⟩
  · refine (State.take_receive_ifReading hear group (inService_ne hs).1 (inService_ne hs).2 t .latchClear p _).trans ?_
    rw [if_pos (StationState.takesReadings_of_inService hs)]
    exact congrArg _ (State.doLatchClear_answered s t _ _)
  · have hskip : (answered s t .groupList .silent).station.takesReadings = false := by
      show s.station.takesReadings = false
      rcases hs with hs | hs <;> rw [hs] <;> rfl
    have hlisten : s.station ≠ .listen := by rcases hs with hs | hs <;> simp [hs]
    refine (State.take_receive hear (toGroup_destination_lt group) group.2 hlisten t .latchClear p _).trans ?_
    simp only [FrameKind.responseType, hskip, Bool.false_and, Bool.false_eq_true, if_false]
  · refine (State.take_receive_listen hear (toGroup_destination_lt group) group.2 hs t .latchClear p _).trans ?_
    have hskip : (answered { s with quietStart := frameRunEnd t (checkByte (receivedBytes .latchClear h p)) } t .groupList
        .silent).station.takesReadings = false := by
      show s.station.takesReadings = false
      rw [hs]
      rfl
    simp only [FrameKind.responseType, hskip, Bool.false_and, Bool.false_eq_true, if_false]

end Sys2Proof.Machine
end

section
/-!
STATE_READ (sections 9.6 and 12.2) and the setup frames (section 11.3).
-/
namespace Sys2Proof.Machine

open Sys2Proof.Safety

/-! ## STATE_READ -/

theorem slotOfIndex_eq {index : Byte} {i : Slot} (h : index.toNat % 16 = i.val) : slotOfIndex index = i := by
  apply Fin.ext
  rw [slotOfIndex, BitVec.val_toFin, extract_toNat]
  simpa using h

theorem portOfIndex_eq {index : Byte} {p : PortId} (h : index.toNat % 4 = p.val) : portOfIndex index = p := by
  apply Fin.ext
  rw [portOfIndex, BitVec.val_toFin, extract_toNat]
  simpa using h

/-- The pages of the channels (R149). -/
theorem State.page_channel (s : State) {item index : Byte} (hi : item.toNat = 0) :
    s.page item index = if index.toNat < 16 then s.channelPage (slotOfIndex index) else List.replicate 7 0xFF#8 := by
  simp only [State.page, hi]

/-- The pages of the counters (R149). -/
theorem State.page_counter (s : State) {item index : Byte} (hi : item.toNat = 1) :
    s.page item index = if index.toNat < 16 then s.counterPage1 (slotOfIndex index)
      else if index.toNat < 32 then s.counterPage2 (slotOfIndex index) else List.replicate 7 0xFF#8 := by
  simp only [State.page, hi]

/-- The pages of the insert ports (R149). -/
theorem State.page_port (s : State) {item index : Byte} (hi : item.toNat = 2) :
    s.page item index = if index.toNat < 4 then s.portPage1 (portOfIndex index)
      else if index.toNat < 8 then s.portPage2 (portOfIndex index) else List.replicate 7 0xFF#8 := by
  simp only [State.page, hi]

/-- The pages of the station (R149). -/
theorem State.page_station (s : State) {item index : Byte} (hi : item.toNat = 3) :
    (index.toNat = 0 → s.page item index = s.stationPage0) ∧ (index.toNat = 1 → s.page item index = s.stationPage1) ∧
    (index.toNat = 2 → s.page item index = s.stationPage2) ∧ (index.toNat = 3 → s.page item index = s.stationPage3) := by
  refine ⟨fun h => ?_, fun h => ?_, fun h => ?_, fun h => ?_⟩ <;> simp only [State.page, hi, h]

/-- There is no page beyond the ranges (R150). -/
theorem State.page_absent (s : State) {item index : Byte}
    (h : 4 ≤ item.toNat ∨ (item.toNat = 0 ∧ 16 ≤ index.toNat) ∨ (item.toNat = 1 ∧ 32 ≤ index.toNat) ∨
      (item.toNat = 2 ∧ 8 ≤ index.toNat) ∨ (item.toNat = 3 ∧ 4 ≤ index.toNat)) :
    s.page item index = List.replicate 7 0xFF#8 := by
  rcases h with h | ⟨hi, hn⟩ | ⟨hi, hn⟩ | ⟨hi, hn⟩ | ⟨hi, hn⟩
  · obtain ⟨k, hk⟩ := Nat.exists_eq_add_of_le' h
    simp only [State.page, hk]
  · rw [s.page_channel hi, if_neg (by omega)]
  · rw [s.page_counter hi, if_neg (by omega), if_neg (by omega)]
  · rw [s.page_port hi, if_neg (by omega), if_neg (by omega)]
  · obtain ⟨k, hk⟩ := Nat.exists_eq_add_of_le' hn
    simp only [State.page, hi, hk]

/-- A byte below FFh is none. -/
theorem head_ne_ff {b : Byte} {rest : List Byte} (h : b.toNat < 255) : (b :: rest).head? ≠ some 0xFF#8 := by
  intro e
  rw [List.head?_cons, Option.some.injEq] at e
  rw [e] at h
  exact absurd h (by decide)

theorem State.channelPage_head (s : State) (i : Slot) : (s.channelPage i).head? ≠ some 0xFF#8 := by
  refine head_ne_ff ?_
  simp only [append_toNat, BitVec.toNat_ofNat, BitVec.toNat_ofBool]
  have h1 := Bool.toNat_lt ((s.chan i).state == .alertWait && (s.chan i).starved)
  have h2 := Bool.toNat_lt ((s.chan i).state == .returnWait && (s.chan i).returnCondition == some .any)
  have h3 := (s.chan i).state.value.isLt
  omega

theorem State.counterPage1_head (s : State) (i : Slot) : (s.counterPage1 i).head? ≠ some 0xFF#8 := by
  refine head_ne_ff ?_
  have h := (s.chan i).outSeq.isLt
  rw [BitVec.toNat_setWidth]
  omega

theorem numberByte_lt {n : Nat} (h : n < 255) : (numberByte n).toNat < 255 := by
  rw [numberByte_toNat (by omega)]
  exact h

theorem State.portPage1_head (s : State) (p : PortId) : (s.portPage1 p).head? ≠ some 0xFF#8 := by
  refine head_ne_ff ?_
  simp only [append_toNat, BitVec.toNat_ofNat, BitVec.toNat_ofBool]
  have h1 := Bool.toNat_lt (s.port p).hold
  have h2 := Bool.toNat_lt (s.port p).seeking
  have h3 := (s.port p).mode.value.isLt
  omega

/-- A station in service has its own number and base, and lawful settings, on its pages (R65, R162). -/
theorem State.stationPages_head {s : State} (law : SettingsLaw s) (hs : s.station ≠ .strapFault) {index : Byte}
    {item : Byte} (hi : item.toNat = 3) (hn : index.toNat < 4) : (s.page item index).head? ≠ some 0xFF#8 := by
  obtain ⟨hpre, -, hstraps⟩ := law
  obtain ⟨-, hnumber, -, hbase⟩ := hstraps hs
  obtain h | h | h | h : index.toNat = 0 ∨ index.toNat = 1 ∨ index.toNat = 2 ∨ index.toNat = 3 := by omega
  all_goals
    simp only [State.page, hi, h]
    refine head_ne_ff ?_
  · cases s.station <;> decide
  · rw [StationNo.setWidth_toNat]
    omega
  · omega
  · omega

/-- Settles O43: the decision is the page and its check byte; the page is read off the table of R149, and its first byte is below FFh
in every row. -/
theorem stateReadAnswersWithThePage : Obligations.StateReadAnswersWithThePage := by
  intro t h p s hear own item index reads two
  have taken (hl : s.station ≠ .listen) (hf : s.station ≠ .strapFault) : exec (.stateRead t h p) s =
      .next (if s.station.takesReadings then
        (answered s t .data .silent).doStateRead (p.extractLsb' 8 8) (p.extractLsb' 0 8) else answered s t .data .silent) :=
    (State.take_receive_ifOwn hear own hl hf t .stateRead p _).trans rfl
  refine ⟨fun hs => ?inService, fun hs => ?clash⟩
  case clash =>
    rw [taken (by simp [hs]) (by simp [hs]), hs]
    rfl
  case inService =>
    have reading {page : List Byte} (hlen : page.length = 7) (hpage : s.page (p.extractLsb' 8 8) (p.extractLsb' 0 8) = page) :
        reads page := by
      refine ⟨hlen, ?_⟩
      rw [taken (inService_ne hs).1 (inService_ne hs).2, if_pos (StationState.takesReadings_of_inService hs), ← hpage]
      rfl
    refine ⟨fun i hi hn => reading rfl ?_, fun i hi hn => reading rfl ?_, fun i hi hn => reading rfl ?_,
      fun q hi hn => reading rfl ?_, fun q hi hn => reading rfl ?_, fun hi hn => reading rfl ?_, fun hi hn => reading rfl ?_,
      fun hi hn => reading rfl ?_, fun hi hn => reading rfl ?_, fun habsent => reading rfl (s.page_absent habsent),
      fun law hff => ?_⟩
    · have := i.isLt
      rw [s.page_channel hi, if_pos (by omega), slotOfIndex_eq (i := i) (by omega)]
    · have := i.isLt
      rw [s.page_counter hi, if_pos (by omega), slotOfIndex_eq (i := i) (by omega)]
      rfl
    · have := i.isLt
      rw [s.page_counter hi, if_neg (by omega), if_pos (by omega), slotOfIndex_eq (i := i) (by omega)]
      rfl
    · have := q.isLt
      rw [s.page_port hi, if_pos (by omega), portOfIndex_eq (p := q) (by omega)]
    · have := q.isLt
      rw [s.page_port hi, if_neg (by omega), if_pos (by omega), portOfIndex_eq (p := q) (by omega)]
      rfl
    · exact (s.page_station hi).1 hn
    · exact (s.page_station hi).2.1 hn
    · exact (s.page_station hi).2.2.1 hn
    · exact (s.page_station hi).2.2.2 hn
    · by_contra hrange
      obtain hi | hi | hi | hi : item = 0 ∨ item = 1 ∨ item = 2 ∨ item = 3 := by omega
      · rw [s.page_channel hi, if_pos (by omega)] at hff
        exact s.channelPage_head _ hff
      · rw [s.page_counter hi] at hff
        split at hff
        · exact s.counterPage1_head _ hff
        · rw [if_pos (by omega)] at hff
          exact head_ne_ff (numberByte_lt (by have := (slotOfIndex (p.extractLsb' 0 8)).isLt; omega)) hff
      · rw [s.page_port hi] at hff
        split at hff
        · exact s.portPage1_head _ hff
        · rw [if_pos (by omega)] at hff
          exact head_ne_ff (numberByte_lt (by have := (portOfIndex (p.extractLsb' 0 8)).isLt; omega)) hff
      · exact State.stationPages_head law (inService_ne hs).2 hi (by omega) hff

end Sys2Proof.Machine
end

section
/-!
Joining the line (chapter 11): the setup frames, the idle line, the quiet period and the setup window, the clash, and what LISTEN and
STRAP_FAULT make of a frame.
-/
namespace Sys2Proof.Machine

open Sys2Proof.Safety

/-! ## The setup frames (R164, R165) -/

theorem clampByte_eq (b : Byte) :
    clampByte 100 b = (if 100 < b.toNat then 100 else b) ∧ clampByte 200 b = (if 200 < b.toNat then 200 else b) := ⟨rfl, rfl⟩

/-- A setup frame that a station in SETUP hears is taken, and refused in ACTIVE and CLASH. -/
theorem State.take_receive_setup {w : Nat} {s : State} {h : FrameHeader} (hear : Hears s) (own : ToOwn s h) (t : Time)
    (kind : FrameKind) (hk : kind.responseType = .ack) (p : BitVec w) (act : State → State) :
    (s.station = .setup → (s.take t fun s => s.receive kind h p fun s => s.ifOwn h fun s => s.takeSetup act) =
      .next (act (answered s t .ack .silent))) ∧
    (s.station = .active ∨ s.station = .clash →
      (s.take t fun s => s.receive kind h p fun s => s.ifOwn h fun s => s.takeSetup act) =
        .next (answered s t .ack (.ack .notNow))) := by
  refine ⟨fun hs => ?_, fun hs => ?_⟩
  · rw [State.take_receive_ifOwn hear own (by simp [hs]) (by simp [hs]), hk]
    have hstation : (answered s t .ack .silent).station = .setup := hs
    simp only [State.takeSetup, hstation]
  · have hlisten : s.station ≠ .listen := by rcases hs with hs | hs <;> simp [hs]
    have hfault : s.station ≠ .strapFault := by rcases hs with hs | hs <;> simp [hs]
    rw [State.take_receive_ifOwn hear own hlisten hfault, hk]
    have hstation : (answered s t .ack .silent).station = .active ∨ (answered s t .ack .silent).station = .clash := hs
    rcases hstation with hs | hs <;> simp only [State.takeSetup, hs, State.answer_answered]

theorem windowScopeOf_iff (b : Byte) (sc : WindowScope) : windowScopeOf b = some sc ↔
    b = (match sc with | .liveOnly => 0#8 | .testOnly => 1#8 | .either => 2#8 | .disabled => 3#8) := by
  unfold windowScopeOf
  constructor
  · intro h
    repeat' split at h
    all_goals
      simp only [Option.some.injEq, reduceCtorEq] at h
      try (subst h; assumption)
  · rintro rfl
    cases sc <;> rfl

theorem alertModeOf_iff (b : Byte) (m : AlertMode) : alertModeOf b = some m ↔
    b = (match m with | .override => 0#8 | .observe => 1#8) := by
  unfold alertModeOf
  constructor
  · intro h
    repeat' split at h
    all_goals
      simp only [Option.some.injEq, reduceCtorEq] at h
      try (subst h; assumption)
  · rintro rfl
    cases m <;> rfl

/-- A payload names a window when both its scope and its mode have a code of R169. -/
theorem setupWindowOf_none {p : BitVec 72}
    (h : windowScopeOf (p.extractLsb' 24 8) = none ∨ alertModeOf (p.extractLsb' 16 8) = none) : setupWindowOf p = none := by
  unfold setupWindowOf
  rcases h with h | h <;> rw [h]
  cases windowScopeOf (p.extractLsb' 24 8) <;> rfl

/-- The station enters ACTIVE and raises its PRESENT (R164). -/
theorem State.enterActive_eq (s : State) : s.enterActive = { s with
    station := .active
    line := (State.offer { s with station := .active } (.present s.blockBase .active s.startLatch)).line } :=
  State.offer_eq { s with station := .active } (.present s.blockBase .active s.startLatch)

theorem State.enterActive_answered (s : State) (t : Time) (d : Decision) :
    (answered s t .ack d).enterActive = answered { s with
      station := .active
      line := (State.offer { s with station := .active } (.present s.blockBase .active s.startLatch)).line } t .ack d :=
  State.offer_answered { s with station := .active } t .ack d _

/-- Settles O45: in SETUP each frame acts, in ACTIVE and CLASH each is refused. -/
theorem setupFramesSetTheSetupValues : Obligations.SetupFramesSetTheSetupValues := by
  intro t h times p s hear own preroll lateLimit index scopes modes done
  obtain ⟨times_setup, times_refused⟩ := State.take_receive_setup hear own t .setupTimes rfl times fun s => s.doSetupTimes times
  obtain ⟨window_setup, window_refused⟩ := State.take_receive_setup hear own t .setupWindow rfl p fun s => s.doSetupWindow p
  obtain ⟨done_setup, done_refused⟩ := State.take_receive_setup hear own t .setupDone rfl (0 : BitVec 0)
    fun s => s.enterActive.answer .accepted
  refine ⟨fun hs => ⟨times_setup hs, fun sc m hsc hm => ?window, fun hbad => ?field, ?done⟩,
    fun hs => ⟨times_refused hs, window_refused hs, done_refused hs⟩⟩
  case window =>
    have hw : setupWindowOf p = some ⟨p.extractLsb' 48 16, p.extractLsb' 32 16, sc, m, p.extractLsb' 0 16⟩ := by
      simp only [setupWindowOf, (windowScopeOf_iff _ sc).mpr hsc, (alertModeOf_iff _ m).mpr hm]
    refine ⟨fun hi => (window_setup hs).trans ?_, fun hi => (window_setup hs).trans ?_⟩
    · have hi : setupWindowIndex p = 0 := hi
      simp only [State.doSetupWindow, hw, hi, if_true]
      rfl
    · have hi : setupWindowIndex p = 1 := hi
      have h10 : (1 : Byte) ≠ 0 := by decide
      simp only [State.doSetupWindow, hw, hi, if_true, if_neg h10]
      rfl
  case field =>
    refine (window_setup hs).trans (congrArg _ ?_)
    have hnone : (∀ sc, ¬ scopes sc) ∨ (∀ m, ¬ modes m) → setupWindowOf p = none := by
      rintro (hsc | hm)
      · refine setupWindowOf_none (.inl (Option.eq_none_iff_forall_ne_some.mpr fun sc e => hsc sc ?_))
        exact (windowScopeOf_iff _ sc).mp e
      · refine setupWindowOf_none (.inr (Option.eq_none_iff_forall_ne_some.mpr fun m e => hm m ?_))
        exact (alertModeOf_iff _ m).mp e
    rcases hbad with hi | hbad
    · have h0 : setupWindowIndex p ≠ 0 := fun e => by
        have e : index = 0 := e
        rw [e] at hi
        exact absurd hi (by decide)
      have h1 : setupWindowIndex p ≠ 1 := fun e => by
        have e : index = 1 := e
        rw [e] at hi
        exact absurd hi (by decide)
      cases hw : setupWindowOf p with
      | none => simp only [State.doSetupWindow, hw, State.answer_answered]
      | some w => simp only [State.doSetupWindow, hw, if_neg h0, if_neg h1, State.answer_answered]
    · simp only [State.doSetupWindow, hnone hbad, State.answer_answered]
  case done =>
    refine (done_setup hs).trans (congrArg _ ?_)
    rw [State.enterActive_answered, State.answer_answered]

/-! ## The idle line, the quiet period and the setup window (R124, R127, R163, R164) -/

theorem LineInterface.clearOfBreak_iff (l : LineInterface) (t : Time) :
    l.clearOfBreak t = true ↔ ∀ since, l.ownBreak = some since → 264 ≤ (t - since).toNat := by
  unfold LineInterface.clearOfBreak elapsed diff breakDrive idleTime
  cases l.ownBreak <;> simp

theorem LineInterface.responding_iff (l : LineInterface) :
    l.responding = true ↔ ∃ w, l.rx = .window w ∧ w.decision ≠ .silent := by
  unfold LineInterface.responding
  cases l.rx <;> simp

theorem StationState.mayDrive_iff (s : State) : s.station.mayDrive = true ↔ InService s := by
  unfold InService
  cases s.station <;> simp [StationState.mayDrive]

theorem State.sendsBits_iff (s : State) :
    s.sendsBits = true ↔ (∃ f ∈ s.line.queue, f.inFlight = true) ∨
      (InService s ∧ ∃ w, s.line.rx = .window w ∧ w.decision ≠ .silent) := by
  rw [State.sendsBits, Bool.or_eq_true, Bool.and_eq_true, LineInterface.responding_iff, StationState.mayDrive_iff,
    LineInterface.flying, List.any_eq_true, and_comm (a := InService s)]

theorem State.lineRested_eq_true (s : State) (t : Time) :
    s.lineRested t = true ↔ 64 ≤ (t - s.line.recessiveSince).toNat ∧
      (∀ since, s.line.ownBreak = some since → 264 ≤ (t - since).toNat) ∧
      ¬ ((∃ f ∈ s.line.queue, f.inFlight = true) ∨ (InService s ∧ ∃ w, s.line.rx = .window w ∧ w.decision ≠ .silent)) := by
  rw [← LineInterface.clearOfBreak_iff, ← State.sendsBits_iff, State.lineRested, Bool.and_eq_true, Bool.and_eq_true, and_assoc,
    Bool.not_eq_true', Bool.not_eq_true, decide_eq_true_iff]
  rfl

theorem RxState.onIdle_eq (r : RxState) :
    r.onIdle = match r with
      | .window _ => .quiet
      | .recover => .quiet
      | .quiet => .quiet
      | .frame => .frame := by cases r <;> rfl

/-- Settles O46: LINE_IDLE acts on a line at rest, the quiet period and the setup window end when their limits have passed, and each
does nothing but move the timer otherwise. -/
theorem quietLineAndSetupWindowJoinTheStation : Obligations.QuietLineAndSetupWindowJoinTheStation := by
  intro t s hheld rx clear sends
  have hrx : s.line.rx.onIdle = rx := RxState.onIdle_eq _
  have idle : exec (.lineIdle t) s = .next ((s.atTime t).lineIdle t) := State.take_of_not_held hheld _ _
  have quiet : exec (.quietPeriodEnd t) s = .next ((s.atTime t).endQuiet t) := State.take_of_not_held hheld _ _
  have window : exec (.setupWindowExpiry t) s = .next ((s.atTime t).judgeSetup t) := State.take_of_not_held hheld _ _
  refine ⟨fun hrest hclear hsends => ?idle, fun h => ?busy, fun hs hd ht => ?quiet, fun h => ?notQuiet, fun hs ht => ?window,
    fun h => ?notWindow⟩
  case idle =>
    have hrested : (s.atTime t).lineRested t = true := (State.lineRested_eq_true _ t).mpr ⟨hrest, hclear, hsends⟩
    refine ⟨fun hd => ?_, fun hd => ?_⟩
    · have hd : (s.atTime t).line.dominant = false := hd
      rw [idle, State.lineIdle, if_pos hrested, hd, ← hrx]
      rfl
    · have hd : (s.atTime t).line.dominant = true := hd
      rw [idle, State.lineIdle, if_pos hrested, hd, ← hrx]
      simp only [if_true, State.noteRest_eq]
      rfl
  case busy =>
    have hrested : ¬ (s.atTime t).lineRested t = true := by
      rw [State.lineRested_eq_true]
      rintro ⟨h1, h2, h3⟩
      rcases h with h | h | h
      · exact absurd h1 (Nat.not_le.mpr h)
      · exact h h2
      · exact h3 h
    rw [idle, State.lineIdle, if_neg hrested]
    rfl
  case quiet =>
    rw [quiet, State.endQuiet, if_pos ⟨hs, hd, ht⟩]
    rfl
  case notQuiet =>
    have hn : ¬ ((s.atTime t).station = .listen ∧ (s.atTime t).line.dominant = false ∧
        quietPeriod ≤ elapsed t (s.atTime t).quietStart) := by
      rintro ⟨h1, h2, h3⟩
      rcases h with h | h | h
      · exact h h1
      · exact absurd h2 (by simp [h])
      · exact absurd h3 (Nat.not_le.mpr h)
    rw [quiet, State.endQuiet, if_neg hn]
    rfl
  case window =>
    have hp : limitPassed t (s.atTime t).setupStart setupLimit = true := (limitPassed_iff _ _ _).mpr ht
    rw [window, State.judgeSetup, if_pos ⟨hs, hp⟩, State.enterActive_eq]
    have hline : (State.offer { s.atTime t with station := .active } (.present s.blockBase .active s.startLatch)).line =
        (State.offer { s with station := .active } (.present s.blockBase .active s.startLatch)).line :=
      State.offer_line_congr _ rfl rfl
    exact congrArg (fun l : LineInterface => (Host.Outcome.next { s with timer := t, station := .active, line := l } : Result)) hline
  case notWindow =>
    have hn : ¬ ((s.atTime t).station = .setup ∧ limitPassed t (s.atTime t).setupStart setupLimit = true) := by
      rintro ⟨h1, h2⟩
      rw [limitPassed_iff] at h2
      rcases h with h | h
      · exact h h1
      · exact absurd h2 (Nat.not_lt.mpr h)
    rw [window, State.judgeSetup, if_neg hn]
    rfl

/-! ## The clash (R166) and the FAULT pin (R167) -/

theorem State.enterClash_answered (s : State) (t : Time) (d : Decision) :
    (answered s t .none d).enterClash =
      answered { s with station := .clash, line := { s.line with queue := [], ownBreak := none } } t .none d := rfl

/-- The clash test, where a station's own PRESENT is told by its number (R166). -/
theorem State.judgePresent_eq (s : State) (source : Byte) :
    s.judgePresent source =
      if s.station.testsClash = true ∧ source = s.stationNumber.setWidth 8 then s.enterClash else s := by
  simp only [State.judgePresent, Bool.and_eq_true, beq_iff_eq]

theorem State.faultPin_iff (s : State) (h : s.isHeld = false) :
    s.faultPin = true ↔ s.station = .strapFault ∨ s.station = .clash ∨ s.line.transmitFault = true := by
  simp [State.faultPin, h, or_assoc]

theorem testsClash_of_inService {s : State} (hs : InService s) : s.station.testsClash = true := by
  rcases hs with hs | hs <;> rw [hs] <;> rfl

/-- Settles O47: the PRESENT is judged with its window open, and the flag is the definition. -/
theorem clashIsEnteredOnAPresentWithTheOwnNumber : Obligations.ClashIsEnteredOnAPresentWithTheOwnNumber := by
  intro t h p q s hear hfrom hd same
  have judged (hl : s.station ≠ .listen) : exec (.presentReceived t h p) s =
      .next (if s.station.testsClash = true ∧ same then (answered s t .none .silent).enterClash else answered s t .none .silent) :=
    (State.take_receive hear hd hfrom hl t .present p _).trans (congrArg _ (State.judgePresent_eq _ _))
  refine ⟨fun hs hsame => ?_, fun hs hsame => ?_, fun hs hsame => ?_, fun hs => ?_, fun hl => ?_, State.faultPin_iff s hear.1⟩
  · rw [judged (inService_ne hs).1, if_pos ⟨testsClash_of_inService hs, hsame⟩, State.enterClash_answered]
  · refine (State.take_receive_listen hear hd hfrom hs t .present p _).trans ?_
    rw [State.judgePresent_eq, if_pos ⟨by show s.station.testsClash = true; rw [hs]; rfl, hsame⟩]
    rfl
  · rw [judged (inService_ne hs).1, if_neg fun k => hsame k.2]
  · have hl : s.station ≠ .listen := by rcases hs with hs | hs <;> simp [hs]
    have htest : s.station.testsClash = false := by rcases hs with hs | hs <;> rw [hs] <;> rfl
    rw [judged hl, if_neg fun k => by simp [htest] at k]
  · exact State.take_receive hear hd hfrom hl t .alertReport q _

/-! ## LISTEN and STRAP_FAULT (R145, R163) -/

/-- A cue list without entries has none that a CUT frame could meet (R71). -/
theorem State.matchCut_of_empty {s : State} (h : ∀ i, (s.chan i).cues = []) (source : Byte) (cueId : Ident) (kind : Option CutKind)
    (cutStamp : Time) : s.matchCut source cueId kind cutStamp = s := by
  have hone (i : Slot) : s.matchCutOn source cueId kind cutStamp i = s := by
    simp [State.matchCutOn, Channel.cueIds, h i]
  unfold State.matchCut
  induction Config.slots with
  | nil => rfl
  | cons i l ih => rw [List.foldl_cons, hone, ih]

/-- A command for this station alone, refused where it is heard in LISTEN, answers only when it is this station's (R145). -/
theorem State.ifOwn_refused {s : State} (hs : s.station = .listen) (t : Time) (h : FrameHeader) {f : State → State}
    (hf : f (answered s t .ack .silent) = (answered s t .ack .silent).answer .notNow) :
    (answered s t .ack .silent).ifOwn h f =
      answered s t .ack (if h.destination = s.stationNumber.setWidth 8 then .ack .notNow else .silent) := by
  have hown : (answered s t .ack .silent).isOwnNumber h = true ↔ h.destination = s.stationNumber.setWidth 8 := by
    simp [State.isOwnNumber, answered, hs]
  unfold State.ifOwn
  by_cases e : h.destination = s.stationNumber.setWidth 8
  · rw [if_pos (hown.mpr e), if_pos e, hf, State.answer_answered]
  · rw [if_neg (mt hown.mp e), if_neg e]

/-- No frame is a station's own in STRAP_FAULT (R141). -/
theorem State.ifOwn_strapFault {s : State} (hs : s.station = .strapFault) (h : FrameHeader) (f : State → State) :
    s.ifOwn h f = s := by
  simp [State.ifOwn, State.isOwnNumber, hs]

theorem State.takeSetup_of_listen {s : State} (hs : s.station = .listen) (f : State → State) : s.takeSetup f = s.answer .notNow := by
  simp only [State.takeSetup, hs]

theorem State.takeRights_of_listen {s : State} (hs : s.station = .listen) (f : State → State) : s.takeRights f = s.answer .notNow := by
  simp only [State.takeRights, hs]

/-- A command of ack type, in a station that takes no command: refused in LISTEN, where it is this station's (R145). -/
theorem take_receive_ifOwn_untaken {w : Nat} {s : State} {h : FrameHeader} (hear : Hears s) (hd : h.destination.toNat < 64)
    (hfrom : fromStation h) (t : Time) (kind : FrameKind) (hk : kind.responseType = .ack) (p : BitVec w) {f : State → State}
    (hf : ∀ u : State, u.station = .listen → f u = u.answer .notNow) :
    (s.station = .listen → (s.take t fun s => s.receive kind h p fun s => s.ifOwn h f) =
      .next (answered { s with quietStart := frameRunEnd t (checkByte (receivedBytes kind h p)) } t kind.responseType
        (if kind.responseType = .ack ∧ h.destination = s.stationNumber.setWidth 8 then .ack .notNow else .silent))) ∧
    (s.station = .strapFault → (s.take t fun s => s.receive kind h p fun s => s.ifOwn h f) =
      .next (answered s t kind.responseType .silent)) := by
  simp only [hk, true_and]
  refine ⟨fun hs => ?_, fun hs => ?_⟩
  · rw [State.take_receive_listen hear hd hfrom hs, hk]
    have hu : ({ s with quietStart := frameRunEnd t (checkByte (receivedBytes kind h p)) } : State).station = .listen := hs
    exact congrArg _ (State.ifOwn_refused hu t h (hf _ hs))
  · rw [State.take_receive hear hd hfrom (by simp [hs]), hk]
    have hu : (answered s t .ack .silent).station = .strapFault := hs
    exact congrArg _ (State.ifOwn_strapFault hu h f)

/-- A frame of another type that no block acts on in LISTEN and STRAP_FAULT opens its window alone. -/
theorem take_receive_untaken {w : Nat} {s : State} {h : FrameHeader} (hear : Hears s) (hd : h.destination.toNat < 64)
    (hfrom : fromStation h) (t : Time) (kind : FrameKind) (hk : kind.responseType ≠ .ack) (p : BitVec w) {f : State → State}
    (hf : ∀ u : State, u.station = s.station → u.stationNumber = s.stationNumber → u.channels = s.channels → f u = u) :
    (s.station = .listen → (s.take t fun s => s.receive kind h p f) =
      .next (answered { s with quietStart := frameRunEnd t (checkByte (receivedBytes kind h p)) } t kind.responseType
        (if kind.responseType = .ack ∧ h.destination = s.stationNumber.setWidth 8 then .ack .notNow else .silent))) ∧
    (s.station = .strapFault → (s.take t fun s => s.receive kind h p f) = .next (answered s t kind.responseType .silent)) := by
  rw [if_neg fun e => hk e.1]
  refine ⟨fun hs => ?_, fun hs => ?_⟩
  · rw [State.take_receive_listen hear hd hfrom hs]
    exact congrArg _ (hf _ rfl rfl rfl)
  · rw [State.take_receive hear hd hfrom (by simp [hs])]
    exact congrArg _ (hf _ rfl rfl rfl)

/-- Settles O48, kind by kind: a command for this station alone is refused or not its own, and the blocks of the other kinds pass the
frame by. -/
theorem listenAndStrapFaultTakeNoCommand : Obligations.ListenAndStrapFaultTakeNoCommand := by
  intro c t h kind covered s hc hear hfrom hd hcues
  have ack {w : Nat} (kind : FrameKind) (hk : kind.responseType = .ack) (p : BitVec w) {f : State → State} 
      (hf : ∀ u : State, u.station = .listen → f u = u.answer .notNow) :=
    take_receive_ifOwn_untaken hear hd hfrom t kind hk p hf
  have other {w : Nat} (kind : FrameKind) (hk : kind.responseType ≠ .ack) (p : BitVec w) {f : State → State} 
      (hf : ∀ u : State, u.station = s.station → u.stationNumber = s.stationNumber → u.channels = s.channels → f u = u) :=
    take_receive_untaken hear hd hfrom t kind hk p hf
  suffices hboth : s.station = .listen ∨ s.station = .strapFault →
      (∀ p, c = .presentReceived t h p → s.station = .listen → h.source ≠ s.stationNumber.setWidth 8) →
      (s.station = .listen → exec c s = .next (answered { s with quietStart := frameRunEnd t (checkByte covered) } t
        kind.responseType (if kind.responseType = .ack ∧ h.destination = s.stationNumber.setWidth 8 then .ack .notNow
          else .silent))) ∧
      (s.station = .strapFault → exec c s = .next (answered s t kind.responseType .silent)) by
    exact ⟨fun hs hp => (hboth (.inl hs) fun p e _ => hp p e).1 hs,
      fun hs => (hboth (.inr hs) fun p e k => by simp [hs] at k).2 hs⟩
  intro hs hpresent
  have hreads (u : State) (hu : u.station = s.station) : u.station.takesReadings = false := by
    rcases hs with hs | hs <;> rw [hu, hs] <;> rfl
  have halerts (u : State) (hu : u.station = s.station) : u.station.takesAlerts = false := by
    rcases hs with hs | hs <;> rw [hu, hs] <;> rfl
  cases c <;> simp only [frameOf, Option.some.injEq, Prod.mk.injEq, reduceCtorEq] at hc <;> obtain ⟨rfl, rfl, rfl, rfl⟩ := hc
  case cue p => exact ack .cue rfl p fun u hu => by simp only [State.takeCue, hu]
  case cueCancel p => exact ack .cueCancel rfl p fun u hu => by simp only [State.takeCancel, hu]
  case rights p => exact ack .rights rfl p fun u hu => State.takeRights_of_listen hu _
  case rightsLock p => exact ack .rightsLock rfl p fun u hu => State.takeRights_of_listen hu _
  case rightsFix p => exact ack .rightsFix rfl p fun u hu => State.takeRights_of_listen hu _
  case setupTimes p => exact ack .setupTimes rfl p fun u hu => State.takeSetup_of_listen hu _
  case setupWindow p => exact ack .setupWindow rfl p fun u hu => State.takeSetup_of_listen hu _
  case setupDone => exact ack .setupDone rfl (0 : BitVec 0) fun u hu => State.takeSetup_of_listen hu _
  case alertOn p => exact other .alertOn (by decide) p fun u hu _ _ => by simp [State.considersAlerts, halerts u hu]
  case alertOff p => exact other .alertOff (by decide) p fun u hu _ _ => by simp [State.considersAlerts, halerts u hu]
  case query p => exact other .query (by decide) p fun u hu _ _ => by simp [hreads u hu]
  case latchClear p => exact other .latchClear (by decide) p fun u hu _ _ => by simp [hreads u hu]
  case stateRead p => exact other .stateRead (by decide) p fun u hu _ _ => by simp [State.ifOwn, hreads u hu]
  case cutFrameReceived p =>
    refine other .cut (by decide) p fun u _ _ hu => State.matchCut_of_empty (fun i => ?_) _ _ _ _
    rw [State.chan, hu]
    exact hcues i
  case alertReportReceived p => exact other .alertReport (by decide) p fun u _ _ _ => rfl
  case presentReceived p =>
    refine other .present (by decide) p fun u hu hn _ => ?_
    rw [State.judgePresent_eq, if_neg]
    rintro ⟨htest, hsource⟩
    rcases hs with hs | hs
    · exact hpresent p rfl hs (hn ▸ hsource)
    · rw [hu, hs] at htest
      exact absurd htest (by decide)

end Sys2Proof.Machine
end

section
/-!
Streams and channel clocks (chapters 1 to 3): what the network input, an insert port and the alert port do with a cell, and the clock
after a stamp.
-/
namespace Sys2Proof.Machine

open Sys2Proof.Safety

/-! ## Counts -/

theorem countUp_eq_bumped (c : Count) : countUp c = bumped c := by
  unfold countUp countAdd bumped
  apply BitVec.eq_of_toNat_eq
  have hlt := c.isLt
  split
  next h => rw [h]; decide
  next h =>
    have hne : c.toNat ≠ 65535 := fun e => h (BitVec.eq_of_toNat_eq e)
    have hone : (1 : Count).toNat = 1 := rfl
    rw [BitVec.toNat_ofNat, BitVec.toNat_add, hone]
    omega

theorem countAdd_one (c : Count) : countAdd c 1 = bumped c := countUp_eq_bumped c

theorem countAdd_zero (c : Count) : countAdd c 0 = c := by
  apply BitVec.eq_of_toNat_eq
  have hlt := c.isLt
  rw [countAdd, BitVec.toNat_ofNat]
  omega

/-- A command outside reset acts on a part that runs, at its time (log entry 2). -/
theorem exec_running {c : Instr} (hc : takenInReset c = false) {s : State} (hs : s.isHeld = false) :
    exec c s = .next (act c (s.atTime (Instr.time c))) := by
  rw [exec_eq_take hc, State.take_of_not_held hs]

/-! ## The channel and the output in one update -/

theorem State.setChan_modChan (s : State) (i : Slot) (c : Channel) (f : Channel → Channel) :
    (s.setChan i c).modChan i f = s.setChan i (f c) := by
  rw [State.modChan, State.setChan_chan_same, State.setChan_setChan]

/-- The cell as it is sent for channel i with the record c (R15). -/
def State.rewriteAs (s : State) (i : Slot) (c : Channel) (x : StreamCell) : StreamCell :=
  { x with mark := cellMark, tag := s.tagOf i, seq := c.outSeq, disc := x.disc || c.discDue }

theorem State.setChan_send (s : State) (i : Slot) (c : Channel) (x : StreamCell) :
    (s.setChan i c).send i x = { s with sout := s.sout ++ [s.rewriteAs i c x] }.setChan i c.afterSend := by
  rw [State.send_eq, State.rewrite, State.setChan_chan_same, State.setChan_setChan]
  rfl

/-- The channel record at a slot event at t, once its gate is open and its clock has taken the cell's stamp (R4, R20 to R24). -/
def Channel.opened (c : Channel) (t : Time) (cell : StreamCell) : Channel :=
  { c with gateOpen := true, clock := clockAfter c.clock t cell }

theorem carried_eq (s : State) (t : Time) (i : Slot) (cell : StreamCell) :
    carried s t i cell = ((s.chan i).opened t cell).afterSend := rfl

/-- The slot event of a cell that reaches its channel unit and finds neither silence, nor a jump, nor a held break: what is left of
steps 2 and 3, then the output (R42). -/
theorem exec_networkCellArrival_of_clock {s : State} {t : Time} {i : Slot} {cell : StreamCell} (h : Reaches s i cell)
    (hsil : (s.chan i).clock.silent t = false)
    (hj : cell.stamp = true → (s.chan i).clock.state = .locked → (s.chan i).clock.agrees cell.time t cell.disc = true)
    (hb : (s.chan i).heldBreak = none) :
    exec (.networkCellArrival t cell) s = .next
      ((((((s.atTime t).setChan i ((s.chan i).opened t cell)).judgeRejoinLimit i t).judgeStarvation i t).cueStep i t).output
        i cell) := by
  rw [exec_networkCellArrival_of_reaches h, State.slotEvent, State.beforeOutput, State.clockStep_of_undisturbed
    (by rw [State.modChan_chan_same]; exact hsil) (by rw [State.modChan_chan_same]; exact hj)
    (by rw [State.modChan_chan_same]; exact hb), State.modChan, State.modChan_chan_same, State.modChan, State.setChan_setChan]
  rfl

/-- Step 2 of a slot event in a channel state without a limit of its own (R42). -/
theorem State.limits_of_state {u : State} {i : Slot} (h1 : (u.chan i).state ≠ .rejoinWait) (h2 : (u.chan i).state ≠ .alertWait)
    (t : Time) : (u.judgeRejoinLimit i t).judgeStarvation i t = u := by
  have e1 : u.judgeRejoinLimit i t = u := by
    simp only [State.judgeRejoinLimit, h1, false_and, if_false]
    split <;> rfl
  rw [e1, State.judgeStarvation, if_neg fun k => h2 k.1]

/-- An undisturbed slot event in a channel state without a limit of its own is its output (R42). -/
theorem exec_networkCellArrival_of_undisturbed {s : State} {t : Time} {i : Slot} {cell : StreamCell} (h : Reaches s i cell)
    (hu : Undisturbed (s.chan i) t cell) (h1 : (s.chan i).state ≠ .rejoinWait) (h2 : (s.chan i).state ≠ .alertWait) :
    exec (.networkCellArrival t cell) s = .next (((s.atTime t).setChan i ((s.chan i).opened t cell)).output i cell) := by
  obtain ⟨hsil, hj, hb, hcues⟩ := hu
  rw [exec_networkCellArrival_of_clock h hsil hj hb,
    State.limits_of_state (by rw [State.setChan_chan_same]; exact h1) (by rw [State.setChan_chan_same]; exact h2),
    State.cueStep_of_empty (by rw [State.setChan_chan_same]; exact hcues)]

/-- Settles O12: the filters of R3 and R4 in their order, and the network cell of a channel in NETWORK. -/
theorem networkInputFiltersAndNetworkStateCarries : Obligations.NetworkInputFiltersAndNetworkStateCarries := by
  intro t cell s hheld
  have arrives : exec (.networkCellArrival t cell) s = .next ((s.atTime t).networkCell t cell) :=
    exec_running rfl hheld
  refine ⟨fun hmark => ?mark, fun hmark hout => ?discarded, fun i hreach hu hs => ?carried⟩
  case mark =>
    have hmark : cell.mark ≠ cellMark := hmark
    rw [arrives, State.networkCell, if_pos hmark, countUp_eq_bumped]
    rfl
  case discarded =>
    have hmark : cell.mark = cellMark := hmark
    rw [arrives, State.networkCell, if_neg (not_not_intro hmark)]
    refine congrArg _ ?_
    split
    · rfl
    next htag =>
      split
      · rfl
      next hfault =>
        split
        next hown =>
          rcases hout with h | h | h | ⟨i, htagi, hgate, hstart⟩
          · exact absurd h htag
          · exact absurd h hfault
          · obtain ⟨i, hi⟩ := (State.ownsTag_iff _ _).mp hown
            exact absurd hi (h i)
          · have hslot : slotOfTag cell.tag = i := by
              rw [htagi]
              exact slotOfTag_tagOf s i
            have hpass : ¬ (s.atTime t).gatePasses i cell = true := by
              have hgate : ((s.atTime t).chan i).gateOpen = false := hgate
              rw [State.gatePasses, hgate, Bool.false_or, isUnitStart, Bool.and_eq_true]
              exact hstart
            rw [hslot, State.startGate, if_neg hpass]
            rfl
        · rfl
  case carried =>
    rw [exec_networkCellArrival_of_undisturbed hreach hu (by simp [hs]) (by simp [hs]),
      State.output_network (by rw [State.setChan_chan_same]; exact hs), State.setChan_send]
    rfl

/-! ## The clock after a stamp (section 2.3) -/

theorem State.judgeSilence_of_not_silent {s : State} {i : Slot} {t : Time} (h : (s.chan i).clock.silent t = false) :
    s.judgeSilence i t = s := by
  rw [State.judgeSilence, h]
  rfl

/-- What a stamp makes of a clock that runs: it locks an ACQUIRING one that it agrees with, keeps a LOCKED one it agrees with, and
leaves it ACQUIRING otherwise (R23, R24). -/
theorem State.stampArrival_clock_of_clock {s : State} {i : Slot} (h : (s.chan i).clock.state ≠ .noClock) (x t : Time) (disc : Bool) :
    ((s.stampArrival i x t disc).chan i).clock =
      ⟨if (s.chan i).clock.agrees x t disc then .locked else .acquiring, x, t⟩ := by
  cases hk : (s.chan i).clock.state with
  | noClock => exact absurd hk h
  | acquiring => simp [State.stampArrival, hk, Channel.takeStamp]
  | locked =>
    by_cases ha : (s.chan i).clock.agrees x t disc = true <;> simp [State.stampArrival, hk, ha, Channel.takeStamp]

/-- Settles O15: the clock after a slot event is the clock after its stamp arrival, on a clock that is not silent. -/
theorem stampLocksOrJumpsTheClock : Obligations.StampLocksOrJumpsTheClock := by
  intro t cell s i hreach hlimit k agrees
  have hagrees : k.agrees cell.time t cell.disc = true ↔ agrees := Clock.agrees_iff _ _ _ _
  generalize hw : (s.atTime t).modChan i (fun c => { c with gateOpen := true }) = w
  have hclock : (w.chan i).clock = k := by rw [← hw, State.modChan_chan_same]; rfl
  have hsilent : (w.chan i).clock.silent t = false := by
    rw [hclock, ← Bool.not_eq_true, Clock.silent_iff]
    exact fun e => absurd e.2 (Nat.not_lt.mpr hlimit)
  refine ⟨_, exec_networkCellArrival_of_reaches hreach, ?_⟩
  rw [hw, State.slotEvent_clock, State.judgeSilence_of_not_silent hsilent]
  have running (hstamp : cell.stamp = true) (hrun : k.state = .acquiring ∨ k.state = .locked) :
      ((w.stampArrival i cell.time t cell.disc).chan i).clock =
        ⟨if k.agrees cell.time t cell.disc then .locked else .acquiring, cell.time, t⟩ := by
    rw [State.stampArrival_clock_of_clock (by rw [hclock]; rcases hrun with e | e <;> simp [e]), hclock]
  refine ⟨fun hstamp hrun ha => ?_, fun hstamp hrun ha => ?_, fun hstamp => ?_⟩
  · rw [if_pos hstamp, running hstamp hrun, if_pos (hagrees.mpr ha)]
  · rw [if_pos hstamp, running hstamp hrun, if_neg (mt hagrees.mp ha)]
  · rw [if_neg (by simp [hstamp]), hclock]

/-! ## The insert ports (section 1.3) -/

theorem isUnitStart_iff (c : StreamCell) : isUnitStart c = true ↔ c.unit = true ∧ c.stamp = true := by
  rw [isUnitStart, Bool.and_eq_true]

/-- What an insert port does with a cell, case by case (R5 to R7). -/
theorem InsertPort.arrive_eq (q : InsertPort) (cell : StreamCell) :
    q.arrive cell =
      if cell.mark ≠ cellMark then { q with markErrors := bumped q.markErrors }
      else if q.mode = .drain then { q with drained := bumped q.drained }
      else if 48 ≤ q.queue.length then { q with overflow := bumped q.overflow }
      else if q.seeking = true ∧ q.queue.length = 0 ∧ ¬ (cell.unit = true ∧ cell.stamp = true) then
        { q with drained := bumped q.drained, hold := false }
      else { q with
        queue := q.queue ++ [cell]
        hold := if 40 ≤ q.queue.length + 1 then true else if q.queue.length + 1 ≤ 24 then false else q.hold } := by
  have joins : q.mode ≠ .drain → cell.mark = cellMark → q.arrive cell =
      if q.queue.length < 48 then
        if q.seeking && q.queue.isEmpty then (q.setQueue [cell]).inspect else q.setQueue (q.queue ++ [cell])
      else { q with overflow := countUp q.overflow } := by
    intro hm hc
    rw [InsertPort.arrive, if_neg (not_not_intro hc)]
    cases hmode : q.mode <;> first | rfl | exact absurd hmode hm
  by_cases hmark : cell.mark = cellMark
  · rw [if_neg (not_not_intro hmark)]
    by_cases hmode : q.mode = .drain
    · rw [if_pos hmode, InsertPort.arrive, if_neg (not_not_intro hmark), hmode, countUp_eq_bumped]
    · rw [if_neg hmode, joins hmode hmark]
      by_cases hfull : 48 ≤ q.queue.length
      · rw [if_pos hfull, if_neg (Nat.not_lt.mpr hfull), countUp_eq_bumped]
      · rw [if_neg hfull, if_pos (Nat.lt_of_not_le hfull)]
        by_cases hseek : q.seeking = true ∧ q.queue = []
        · rw [if_pos (by simp [hseek])]
          by_cases hstart : cell.unit = true ∧ cell.stamp = true
          · rw [if_neg fun k => k.2.2 hstart]
            simp [InsertPort.inspect, InsertPort.setQueue, seekHead, hseek, isUnitStart, hstart, countAdd_zero, holdLevel, holdAssertDepth,
              holdReleaseDepth]
          · rw [if_pos ⟨hseek.1, by simp [hseek.2], hstart⟩]
            have hno : isUnitStart cell = false := by rw [← Bool.not_eq_true, isUnitStart_iff]; exact hstart
            simp [InsertPort.inspect, InsertPort.setQueue, seekHead, hseek, hno, countAdd_one, holdLevel, holdAssertDepth,
              holdReleaseDepth]
        · rw [if_neg (by simpa using hseek), if_neg fun k => hseek ⟨k.1, List.length_eq_zero_iff.mp k.2.1⟩]
          simp only [InsertPort.setQueue, holdLevel, holdAssertDepth, holdReleaseDepth, List.length_append, List.length_singleton]
  · rw [if_pos hmark, InsertPort.arrive, if_pos hmark, countUp_eq_bumped]

/-- Settles O18: the port takes the cell by R5, outside STRAP_FAULT. -/
theorem insertPortTakesACell : Obligations.InsertPortTakesACell := by
  intro t p cell s hheld q n
  have arrives : exec (.insertCellArrival t p cell) s =
      .next (if (s.atTime t).station = .strapFault then s.atTime t else (s.atTime t).modPort p fun q => q.arrive cell) :=
    exec_running rfl hheld
  refine ⟨fun hs => ?_, fun hs => ?_⟩
  · rw [arrives]
    exact congrArg _ (if_pos hs)
  · rw [arrives]
    refine congrArg _ ((if_neg hs).trans ?_)
    have hq := q.arrive_eq cell
    rw [show cellMark = 0xB8#8 from rfl] at hq
    rw [← hq]
    rfl

/-! ## The alert ring (section 1.4) -/

/-- Every channel's reader after a cell has been written (R12, R14). -/
theorem Channel.afterRingWrite_eq (after : AlertRing) (w : RingPos) (cell : StreamCell) (c : Channel) :
    c.afterRingWrite after w cell = match c.reader with
      | none => c
      | some .awaiting => if isUnitStart cell then { c with reader := some (.positioned w 1) } else c
      | some (.positioned p n) =>
        if n = 96 then
          { c with reader := some after.newReader, ringSkipCount := bumped c.ringSkipCount, discDue := true }
        else { c with reader := some (.positioned p (n + 1)) } := by
  unfold Channel.afterRingWrite
  cases hr : c.reader with
  | none => rfl
  | some r =>
    cases r with
    | awaiting =>
      by_cases h : isUnitStart cell = true
      · simp [Reader.lapped, Reader.afterWrite, h]
      · simp [Reader.lapped, Reader.afterWrite, h, ← hr]
    | positioned p n =>
      by_cases h : n = 96
      · simp [Reader.lapped, Reader.afterWrite, h, countUp_eq_bumped]
      · simp [Reader.lapped, Reader.afterWrite, h]

/-- A reader is placed at the newest unit start with the cells from there to the writer unread, and waits without one (R13, R14). -/
theorem AlertRing.newReader_eq (r : AlertRing) :
    r.newReader = match r.newest with
      | some q => .positioned q ((r.writer.val + 95 - q.val) % 96 + 1)
      | none => .awaiting := rfl

/-- Settles O19: the ring takes the cell by R12, and each channel's reader follows. -/
theorem alertCellIsWrittenAndReadersFollow : Obligations.AlertCellIsWrittenAndReadersFollow := by
  intro t cell s hheld w start newest
  have arrives : exec (.alertCellArrival t cell) s = .next ((s.atTime t).alertCell cell) := exec_running rfl hheld
  have station : (s.atTime t).station = s.station := rfl
  rw [← station]
  refine ⟨fun hs => ?_, fun hs hmark => ?_, fun hs hmark => ⟨(s.atTime t).writeRing cell, ?_, ?_, fun i => ?_⟩⟩
  · rw [arrives, State.alertCell, if_pos hs]
    rfl
  · have hmark : cell.mark ≠ cellMark := hmark
    rw [arrives, State.alertCell, if_neg hs, if_pos hmark, countUp_eq_bumped]
    rfl
  · have hmark : cell.mark = cellMark := hmark
    rw [arrives, State.alertCell, if_neg hs, if_neg (not_not_intro hmark)]
  · have hnewest : newest = if isUnitStart cell then some w else if s.ring.newest = some w then none else s.ring.newest := by
      simp only [newest, start, isUnitStart_iff]
    rw [hnewest]
    rfl
  · have hnewest : (s.ring.write cell).newest = newest := by
      simp only [newest, start, ← isUnitStart_iff]
      rfl
    have hchan : (s.atTime t).chan i = s.chan i := rfl
    rw [State.writeRing_chan, Channel.afterRingWrite_eq, hchan]
    cases (s.chan i).reader with
    | none => rfl
    | some r =>
      cases r with
      | awaiting =>
        by_cases h : start
        · exact (if_pos ((isUnitStart_iff cell).mpr h)).trans (if_pos h).symm
        · exact (if_neg (mt (isUnitStart_iff cell).mp h)).trans (if_neg h).symm
      | positioned p n =>
        have hring : (s.atTime t).ring.write cell = s.ring.write cell := rfl
        rw [hring, AlertRing.newReader_eq, hnewest]
        rfl

end Sys2Proof.Machine
end

section
/-!
The transmit queue and the transmitter (sections 8.1 to 8.4, 8.7): where a report goes in the queue, which frame it displaces, when the
head is driven and when arbitration is lost.
-/
namespace Sys2Proof.Machine

open Sys2Proof.Safety

/-! ## The queue (R137, R138) -/

/-- A frame stands behind the frames of its own or a lower priority number, and before the others. -/
theorem placeFrame_eq (f : TxFrame) (l : List TxFrame) :
    placeFrame f l = l.takeWhile (fun g => decide (g.report.priority ≤ f.report.priority)) ++
      f :: l.dropWhile (fun g => decide (g.report.priority ≤ f.report.priority)) := by
  induction l with
  | nil => rfl
  | cons g rest ih =>
    by_cases h : g.report.priority ≤ f.report.priority
    · rw [placeFrame, if_pos h, ih, List.takeWhile_cons_of_pos (by simpa using h), List.dropWhile_cons_of_pos (by simpa using h),
        List.cons_append]
    · rw [placeFrame, if_neg h, List.takeWhile_cons_of_neg (by simpa using h), List.dropWhile_cons_of_neg (by simpa using h),
        List.nil_append]

/-- The greater of two priority numbers, the first of them perhaps absent. -/
def maxPriority (m : Option (BitVec 3)) (g : TxFrame) : Option (BitVec 3) :=
  match m with
  | none => some g.report.priority
  | some p => some (if p < g.report.priority then g.report.priority else p)

theorem maxPriority_bounds (m : Option (BitVec 3)) (g : TxFrame) :
    ∃ p, maxPriority m g = some p ∧ g.report.priority ≤ p ∧ ∀ x, m = some x → x ≤ p := by
  cases m with
  | none => exact ⟨_, rfl, BitVec.le_refl _, fun x h => by cases h⟩
  | some y =>
    by_cases h : y < g.report.priority
    · refine ⟨g.report.priority, by rw [maxPriority, if_pos h], BitVec.le_refl _, fun x hx => ?_⟩
      cases hx
      exact BitVec.le_of_lt h
    · refine ⟨y, by rw [maxPriority, if_neg h], BitVec.not_lt.mp h, fun x hx => ?_⟩
      cases hx
      exact BitVec.le_refl _

theorem foldl_maxPriority_ge (l : List TxFrame) (m : Option (BitVec 3)) :
    (∀ x, m = some x → ∃ p, l.foldl maxPriority m = some p ∧ x ≤ p) ∧
    ∀ g ∈ l, ∃ p, l.foldl maxPriority m = some p ∧ g.report.priority ≤ p := by
  induction l generalizing m with
  | nil => exact ⟨fun x h => ⟨x, h, BitVec.le_refl _⟩, fun g h => by simp at h⟩
  | cons a l ih =>
    obtain ⟨q, hq, ha, hm⟩ := maxPriority_bounds m a
    obtain ⟨hstart, hmem⟩ := ih (maxPriority m a)
    obtain ⟨p, hp, hle⟩ := hstart q hq
    refine ⟨fun x hx => ⟨p, hp, BitVec.le_trans (hm x hx) hle⟩, fun g hg => ?_⟩
    rcases List.mem_cons.mp hg with rfl | hg
    · exact ⟨p, hp, BitVec.le_trans ha hle⟩
    · exact hmem g hg

/-- No waiting frame has a greater priority number than the one that R138 finds. -/
theorem lowestPriority_ge {q : List TxFrame} {g : TxFrame} (hg : g ∈ q) (hf : g.inFlight = false) :
    ∃ p, lowestPriority q = some p ∧ g.report.priority ≤ p :=
  (foldl_maxPriority_ge (q.filter fun g => !g.inFlight) none).2 g (by simp [hg, hf])

/-- The number that R138 finds is that of a waiting frame which no other waiting frame exceeds. -/
theorem lowestPriority_eq {q : List TxFrame} {old : TxFrame} (hmem : old ∈ q) (hf : old.inFlight = false)
    (hmax : ∀ g ∈ q, g.inFlight = false → g.report.priority ≤ old.report.priority) :
    lowestPriority q = some old.report.priority := by
  obtain ⟨p, hp, hle⟩ := lowestPriority_ge hmem hf
  obtain ⟨g, hg, hgf, rfl⟩ := lowestPriority_mem hp
  rw [hp, BitVec.le_antisymm (hmax g hg hgf) hle]

/-- The oldest waiting frame of a priority leaves the queue. -/
theorem displaceFrame_append (front back : List TxFrame) (old : TxFrame) (hf : old.inFlight = false)
    (hfront : ∀ g ∈ front, g.inFlight = true ∨ g.report.priority ≠ old.report.priority) :
    displaceFrame old.report.priority (front ++ old :: back) = front ++ back := by
  have hno : ∀ g ∈ front, ¬ (!g.inFlight && g.report.priority == old.report.priority) = true := by
    intro g hg
    rcases hfront g hg with h | h <;> simp [h]
  rw [displaceFrame, List.eraseP_append_right _ hno, List.eraseP_cons_of_pos (by simp [hf])]

theorem State.offer_inService {s : State} (hs : InService s) (r : Report) :
    s.offer r = { s with line := s.line.offer r } := by
  rw [State.offer, if_pos ((StationState.mayDrive_iff s).mpr hs)]
  rfl

/-- What the queue takes, by its length and its waiting frames (R137, R138). -/
theorem LineInterface.offer_eq (l : LineInterface) (r : Report) :
    (l.queue.length < 8 → l.offer r = { l with queue := placeFrame (.ofReport r) l.queue }) ∧
    (∀ front old back, 8 ≤ l.queue.length → l.queue = front ++ old :: back → old.inFlight = false →
      (∀ g ∈ l.queue, g.inFlight = false → g.report.priority ≤ old.report.priority) →
      (∀ g ∈ front, g.inFlight = true ∨ g.report.priority ≠ old.report.priority) → r.priority < old.report.priority →
      l.offer r = { l with queue := placeFrame (.ofReport r) (front ++ back), drops := bumped l.drops }) ∧
    (8 ≤ l.queue.length → (∀ g ∈ l.queue, g.inFlight = false → g.report.priority ≤ r.priority) →
      l.offer r = { l with drops := bumped l.drops }) := by
  refine ⟨fun hlen => ?room, fun front old back hlen hq hf hmax hfront hr => ?displaced, fun hlen hall => ?dropped⟩
  case room =>
    simp only [LineInterface.offer, txQueueLimit, hlen, if_true]
  case displaced =>
    have hlow := lowestPriority_eq (by rw [hq]; simp) hf hmax
    have hdisplaced := displaceFrame_append front back old hf hfront
    rw [← hq] at hdisplaced
    simp only [LineInterface.offer, txQueueLimit, if_neg (Nat.not_lt.mpr hlen), hlow, if_pos hr, hdisplaced, countUp_eq_bumped]
  case dropped =>
    cases hp : lowestPriority l.queue with
    | none => simp only [LineInterface.offer, txQueueLimit, if_neg (Nat.not_lt.mpr hlen), hp, countUp_eq_bumped]
    | some p =>
      obtain ⟨g, hg, hgf, rfl⟩ := lowestPriority_mem hp
      have hr := BitVec.not_lt.mpr (hall g hg hgf)
      simp only [LineInterface.offer, txQueueLimit, if_neg (Nat.not_lt.mpr hlen), hp, if_neg hr, countUp_eq_bumped]

/-! ## The head of the queue and the frame in flight (R125, R130) -/

theorem LineInterface.flying_iff (l : LineInterface) : l.flying = true ↔ ∃ g ∈ l.queue, g.inFlight = true := List.any_eq_true

theorem State.mayStart_eq_true (s : State) :
    s.mayStart = true ↔ InService s ∧ s.line.rx = .quiet ∧ s.line.dominant = false ∧ s.line.queue ≠ [] ∧
      ¬ ∃ g ∈ s.line.queue, g.inFlight = true := by
  rw [← LineInterface.flying_iff, ← StationState.mayDrive_iff, State.mayStart, LineInterface.idle]
  simp only [Bool.and_eq_true, beq_iff_eq, Bool.not_eq_true', List.isEmpty_eq_false_iff, Bool.not_eq_true, ne_eq]
  constructor
  · rintro ⟨⟨⟨h1, h2, h3⟩, h4⟩, h5⟩
    exact ⟨h1, h2, h3, h5, h4⟩
  · rintro ⟨h1, h2, h3, h5, h4⟩
    exact ⟨⟨⟨h1, h2, h3⟩, h4⟩, h5⟩

theorem State.losesArbitration_iff {s : State} {f : TxFrame} (hf : s.line.flight = some f) (n : Nat) :
    s.losesArbitration n = true ↔ n < 24 ∧ s.bitSent f n = some true := by
  simp [State.losesArbitration, hf]

/-- Settles O37: the queue by its length and its waiting frames, then the head and the frame in flight. -/
theorem transmitterQueuesReportsAndStartsTheHead : Obligations.TransmitterQueuesReportsAndStartsTheHead := by
  refine ⟨fun s r => ?queue, fun t n s hheld => ?transmitter⟩
  case queue =>
    intro f q first joined
    have hjoined (l : List TxFrame) : placeFrame (.ofReport r) l = joined l := placeFrame_eq _ l
    obtain ⟨hroom, hdisplaced, hdropped⟩ := s.line.offer_eq r
    refine ⟨fun hs hlen => ?_, fun front old back hs hlen hq hf hmax hfront hr => ?_, fun hs hlen hall => ?_, fun hs => ?_⟩
    · rw [State.offer_inService hs, hroom hlen, hjoined]
    · rw [State.offer_inService hs, hdisplaced front old back hlen hq hf hmax hfront hr, hjoined]
    · rw [State.offer_inService hs, hdropped hlen hall]
    · rw [State.offer, if_neg (mt (StationState.mayDrive_iff s).mp hs)]
  case transmitter =>
    intro quietly
    have starts : exec (.transmitStart t) s = .next (s.atTime t).startSending := exec_running rfl hheld
    have loses : exec (.arbitrationLoss t n) s = .next ((s.atTime t).loseArbitration n) := exec_running rfl hheld
    have hstart := State.mayStart_eq_true (s.atTime t)
    refine ⟨fun f rest hs hrx hd hq hnone => ?_, fun h => ?_, fun f hflight => ?_, fun hnone => ?_⟩
    · have hmay : (s.atTime t).mayStart = true := hstart.mpr ⟨hs, hrx, hd, by
        show s.line.queue ≠ []
        rw [hq]
        simp, by
        rintro ⟨g, hg, hgf⟩
        exact absurd hgf (by simp [hnone g hg])⟩
      have hq : (s.atTime t).line.queue = f :: rest := hq
      rw [starts, State.startSending, if_pos hmay, LineInterface.launch, hq]
      rfl
    · have hmay : ¬ (s.atTime t).mayStart = true := by
        rw [hstart]
        rintro ⟨h1, h2, h3, h4, h5⟩
        rcases h with h | h | h | h | h
        · exact h h1
        · exact h h2
        · exact absurd h3 (by simp [h])
        · exact h4 h
        · exact h5 h
      exact starts.trans (congrArg _ (if_neg hmay))
    · intro sent
      have hflight : (s.atTime t).line.flight = some f := hflight
      refine ⟨fun hn hsent => ?_, fun h => ?_⟩
      · rw [loses, State.loseArbitration, if_pos ((State.losesArbitration_iff hflight n).mpr ⟨hn, hsent⟩)]
        rfl
      · have hkeep : ¬ (s.atTime t).losesArbitration n = true := by
          rw [State.losesArbitration_iff hflight]
          rintro ⟨h1, h2⟩
          rcases h with h | h
          · exact absurd h1 (Nat.not_lt.mpr h)
          · exact h h2
        exact loses.trans (congrArg _ (if_neg hkeep))
    · have hflight : (s.atTime t).line.flight = none := List.find?_eq_none.mpr fun g hg => by simp [hnone g hg]
      have hkeep : ¬ (s.atTime t).losesArbitration n = true := by
        rw [State.losesArbitration, hflight]
        simp
      exact loses.trans (congrArg _ (if_neg hkeep))

end Sys2Proof.Machine
end

section
/-!
The response window (section 8.6): what is left of each decision after the bit slots of a response byte, and which bytes the window
refuses.
-/
namespace Sys2Proof.Machine

open Sys2Proof.Safety

theorem byteHead_toNat (b : Byte) (slots : Nat) : (byteHead b slots).toNat = b.toNat / 2 ^ (8 - slots) := by
  rw [byteHead, BitVec.toNat_ushiftRight, Nat.shiftRight_eq_div_pow]

theorem byteHead_eq_iff (a b : Byte) (slots : Nat) :
    byteHead a slots = byteHead b slots ↔ a.toNat / 2 ^ (8 - slots) = b.toNat / 2 ^ (8 - slots) := by
  rw [← BitVec.toNat_inj, byteHead_toNat, byteHead_toNat]

theorem byteHead_lt_iff (a b : Byte) (slots : Nat) :
    byteHead a slots < byteHead b slots ↔ a.toNat / 2 ^ (8 - slots) < b.toNat / 2 ^ (8 - slots) := by
  rw [BitVec.lt_def, byteHead_toNat, byteHead_toNat]

/-! ## What is left of a decision (R135, R136) -/

theorem Decision.drive_silent (number line : Byte) (slots seen : Nat) : Decision.drive number line slots seen .silent = (.silent, false) :=
  rfl

/-- An ack that reads as it was sent goes on until its byte is whole. -/
theorem Decision.drive_ack (number line : Byte) (slots seen : Nat) (code : OutcomeCode) :
    Decision.drive number line slots seen (.ack code) =
      if line.toNat / 2 ^ (8 - slots) = code.value.toNat / 2 ^ (8 - slots) then
        if slots < 8 then (.ack code, false) else (.silent, false)
      else (.silent, true) := by
  rw [Decision.drive, ite_not]
  simp only [byteHead_eq_iff]

/-- A data byte that reads as it was sent leaves the bytes that follow it. -/
theorem Decision.drive_data (number line : Byte) (slots seen : Nat) (bytes : List Byte) :
    Decision.drive number line slots seen (.data bytes) =
      if line.toNat / 2 ^ (8 - slots) = (bytes.getD seen 0).toNat / 2 ^ (8 - slots) then
        if slots < 8 ∨ seen + 1 < bytes.length then (.data bytes, false) else (.silent, false)
      else (.silent, true) := by
  rw [Decision.drive, ite_not]
  simp only [byteHead_eq_iff]

/-- A number stops at a greater one, and tries again after a smaller one while the window has room. -/
theorem Decision.drive_number (number line : Byte) (slots seen : Nat) :
    Decision.drive number line slots seen .number =
      if number.toNat / 2 ^ (8 - slots) < line.toNat / 2 ^ (8 - slots) then (.silent, false)
      else if slots < 8 then (.number, false)
      else if line < number ∧ seen + 1 < 8 then (.number, false) else (.silent, false) := by
  rw [Decision.drive]
  simp only [byteHead_lt_iff, ResponseType.limit] <;> rfl

/-! ## The byte in the window (R134) -/

theorem Window.refuses_iff (w : Window) (gap : Nat) :
    w.refuses gap = true ↔ gap < 24 ∨ 32 < gap ∨ w.type.limit ≤ w.seen := by
  rw [Window.refuses, Window.closedAt, Bool.or_eq_true, Bool.or_eq_true, decide_eq_true_iff, decide_eq_true_iff, decide_eq_true_iff]
  rfl

theorem Window.next_eq (w : Window) {slots : Nat} (h : slots ≤ 8) (d : Decision) :
    w.next slots d = { w with seen := if slots = 8 then w.seen + 1 else w.seen, decision := d } := by
  unfold Window.next
  by_cases e : slots = 8
  · rw [if_neg (by omega), if_pos e]
  · rw [if_pos (by omega), if_neg e]

theorem ResponseType.limit_eq (type : ResponseType) :
    type.limit = match type with | .none => 0 | .ack => 1 | .data => 8 | .groupList => 8 := by cases type <;> rfl

/-- A byte in a window with room: this station's part, where it may drive the line (R147). -/
theorem State.windowByte_eq (s : State) (w : Window) (slots : Nat) (line : Byte) :
    (InService s → ∀ d mismatch, w.decision.drive (s.stationNumber.setWidth 8) line slots w.seen = (d, mismatch) →
      s.windowByte w slots line = if mismatch then (s.setRx (.window (w.next slots d))).countMismatch
        else s.setRx (.window (w.next slots d))) ∧
    (¬ InService s → s.windowByte w slots line = s.setRx (.window (w.next slots w.decision))) := by
  rw [← StationState.mayDrive_iff, State.windowByte]
  refine ⟨fun hs d mismatch hd => ?_, fun hs => ?_⟩
  · rw [if_pos hs]
    simp only [hd]
  · rw [if_neg hs]

/-- Settles O40: the recessive period moves in every receive state; what follows is the window's refusal, or the decision after the
bits that passed. -/
theorem responseByteMovesTheWindowOn : Obligations.ResponseByteMovesTheWindowOn := by
  intro t gap slots line s hheld hlow hhigh number head runEnd passed becomes failed
  have arrives : exec (.responseByte t ⟨gap, slots, line⟩) s = .next ((s.atTime t).responseByte t gap slots line) :=
    exec_running rfl hheld
  have noted : (s.atTime t).noteRest (if slots < 8 then byteRunEnd t (line.getMsbD (slots - 1)) else t)
      (byteRunEnd t (line.getMsbD (slots - 1))) = passed s.line := by
    have hsince : (if slots < 8 then byteRunEnd t (line.getMsbD (slots - 1)) else t) = if slots = 8 then t else runEnd := by
      by_cases e : slots = 8
      · rw [if_neg (by omega), if_pos e]
      · rw [if_pos (by omega), if_neg e]
        rfl
    rw [State.noteRest_eq, hsince]
    rfl
  have hfailed : (passed s.line).countReceiveError = passed failed := by
    rw [State.countReceiveError, countUp_eq_bumped]
    rfl
  have responds : (s.atTime t).responseByte t gap slots line = match s.line.rx with
      | .window w => if w.refuses gap then passed failed else (passed s.line).windowByte w slots line
      | .quiet => passed failed
      | .frame | .recover => passed s.line := by
    rw [State.responseByte, noted, hfailed]
    rfl
  have hservice : InService (passed s.line) ↔ InService s := Iff.rfl
  refine ⟨fun w hw => ?_, fun hq => ?_, fun hr => ?_⟩
  case refine_2 =>
    refine arrives.trans (congrArg _ ?_)
    rw [responds, hq]
  case refine_3 =>
    refine arrives.trans (congrArg _ ?_)
    rw [responds]
    rcases hr with hr | hr <;> rw [hr]
  case refine_1 =>
    intro limit next sees differs
    have hlimit : limit = w.type.limit := (ResponseType.limit_eq _).symm
    have hmove (d : Decision) : (passed s.line).setRx (.window (w.next slots d)) = passed (next d) := by
      rw [Window.next_eq w hhigh]
      rfl
    have hmiss (l : LineInterface) : (passed l).countMismatch = passed { l with receiveErrors := bumped l.receiveErrors } := by
      rw [State.countMismatch, countUp_eq_bumped]
      rfl
    have room (hg : 24 ≤ gap) (hg' : gap ≤ 32) (hseen : w.seen < limit) :
        exec (.responseByte t ⟨gap, slots, line⟩) s = .next ((passed s.line).windowByte w slots line) := by
      refine arrives.trans (congrArg _ ?_)
      rw [responds, hw]
      refine if_neg ?_
      rw [Window.refuses_iff]
      omega
    obtain ⟨drives, keeps⟩ := State.windowByte_eq (passed s.line) w slots line
    refine ⟨fun hs hg hg' hseen => ?_, fun hs hg hg' hseen => ?_, fun h => ?_⟩
    · have goes {d : Decision} (hd : w.decision.drive number line slots w.seen = (d, false)) : sees d :=
        (room hg hg' hseen).trans (congrArg _ ((drives (hservice.mpr hs) d false hd).trans (hmove d)))
      have fails (hd : w.decision.drive number line slots w.seen = (.silent, true)) : differs := by
        refine (room hg hg' hseen).trans (congrArg _ ((drives (hservice.mpr hs) .silent true hd).trans ?_))
        rw [if_pos rfl, hmove, hmiss]
      refine ⟨fun hd => goes (by rw [hd, Decision.drive_silent]), fun code hd => ?_, fun bytes hd => ?_, fun hd => ?_⟩
      · rw [hd, Decision.drive_ack] at goes fails
        refine ⟨fun h hslots => goes ?_, fun h hslots => goes ?_, fun h => fails (if_neg h)⟩
        · rw [if_pos h, if_pos hslots]
        · rw [if_pos h, if_neg (by omega)]
      · rw [hd, Decision.drive_data] at goes fails
        refine ⟨fun h hmore => goes ?_, fun h hslots hlast => goes ?_, fun h => fails (if_neg h)⟩
        · rw [if_pos h, if_pos hmore]
        · rw [if_pos h, if_neg (by omega)]
      · rw [hd, Decision.drive_number] at goes
        have whole (b : Byte) (h8 : slots = 8) : b.toNat / 2 ^ (8 - slots) = b.toNat := by simp [h8]
        refine ⟨fun h => goes (if_pos h), fun h hslots => goes ?_, fun h h8 hseen => goes ?_, fun h8 h => goes ?_⟩
        · rw [if_neg (Nat.not_lt.mpr h), if_pos hslots]
        · have hlt : line.toNat < number.toNat := h
          rw [whole _ h8, whole _ h8, if_neg (by omega), if_neg (by omega), if_pos ⟨h, by omega⟩]
        · rw [whole _ h8, whole _ h8]
          have hle : line.toNat ≤ number.toNat := by
            rcases h with h | h
            · rw [h]
            · exact Nat.le_of_lt h.1
          rw [if_neg (by omega), if_neg (by omega), if_neg]
          rintro ⟨hlt, hroom⟩
          rcases h with h | h
          · rw [h] at hlt
            exact absurd hlt (BitVec.lt_irrefl _)
          · omega
    · exact (room hg hg' hseen).trans (congrArg _ ((keeps (mt hservice.mp hs)).trans (hmove _)))
    · refine arrives.trans (congrArg _ ?_)
      rw [responds, hw]
      refine if_pos ?_
      rw [Window.refuses_iff, ← hlimit]
      exact h

end Sys2Proof.Machine
end

section
/-!
The record law and the cue law of one channel (chapter 3, sections 5.1, 5.4), said by the state of the channel; and the changes of a
channel record that keep them.
-/
namespace Sys2Proof.Machine

open Sys2Proof.Safety

/-! ## The record law by the state of the channel (R33 to R37) -/

/-- The law of a hold stack: at most 3 records, of which only the bottom one is a break, and references of level 1 to 7 without D. -/
def HeldLaw (hold : List Record) : Prop :=
  hold.length ≤ 3 ∧ (∀ r ∈ hold.tail, r.break? = none) ∧
    ∀ a, Record.alert a ∈ hold → 1 ≤ a.level ∧ a.level ≤ 7 ∧ a.offset = none

/-- The fields of RETURN_WAIT are absent. -/
def Channel.NoReturn (c : Channel) : Prop := c.returnCondition = none ∧ c.returnReport = none

/-- The fields of the alert states are absent. -/
def Channel.NoReader (c : Channel) : Prop := c.reader = none ∧ c.starved = false

theorem heldLaw_nil : HeldLaw [] := ⟨by simp, by simp, by simp⟩

theorem channelLaw_idle {c : Channel} (h : c.state = .network ∨ c.state = .cutWait) :
    ChannelLaw c ↔ c.active = none ∧ c.hold = [] ∧ c.NoReturn ∧ c.NoReader := by
  unfold ChannelLaw recordsFit records Channel.NoReturn Channel.NoReader
  rcases h with h | h <;> simp only [h] <;>
    exact ⟨fun ⟨⟨ha, hh⟩, _, _, _, _, hc, _, hr, hd, hs⟩ => by simp_all, fun ⟨ha, hh, hc, hd⟩ => by simp [ha, hh, hc, hd]⟩

theorem channelLaw_onBreak {c : Channel} (h : c.state = .onBreak ∨ c.state = .rejoinWait) :
    ChannelLaw c ↔ (∃ b, c.active = some (.brk b)) ∧ c.hold = [] ∧ c.NoReturn ∧ c.NoReader := by
  unfold ChannelLaw recordsFit records Channel.NoReturn Channel.NoReader
  rcases h with h | h <;> simp only [h] <;>
    exact ⟨fun ⟨⟨⟨b, ha⟩, hh⟩, _, _, _, _, hc, _, hr, hd, hs⟩ => by simp_all, fun ⟨⟨b, ha⟩, hh, hc, hd⟩ => by simp [ha, hh, hc, hd]⟩

theorem channelLaw_returnWait {c : Channel} (h : c.state = .returnWait) :
    ChannelLaw c ↔ (c.active = none ∨ ∃ b, c.active = some (.brk b)) ∧ c.hold = [] ∧ c.returnCondition.isSome = true ∧
      (c.returnCondition = some .afterBreak → c.activeBreak.isSome = true) ∧
      (c.returnReport.isSome = true → c.activeBreak.isSome = true) ∧ c.NoReader := by
  unfold ChannelLaw recordsFit records Channel.NoReader
  have hactive : (∀ a, c.active ≠ some (.alert a)) ↔ (c.active = none ∨ ∃ b, c.active = some (.brk b)) := by
    rcases c.active with _ | _ | _ <;> simp
  simp only [h, hactive]
  exact ⟨fun ⟨⟨ha, hh⟩, _, _, _, _, hc, hb, hr, hd, hs⟩ => by simp_all,
    fun ⟨ha, hh, hc, hb, hr, hd⟩ => by rcases ha with ha | ⟨b, ha⟩ <;> simp_all⟩

theorem channelLaw_alerted {c : Channel} (h : c.state = .alertWait ∨ c.state = .alert) :
    ChannelLaw c ↔ (∃ a, c.active = some (.alert a) ∧ 1 ≤ a.level ∧ a.level ≤ 7 ∧ (a.offset = none ↔ c.state = .alertWait)) ∧
      HeldLaw c.hold ∧ c.NoReturn ∧ c.reader.isSome = true ∧ (c.starved = true → c.state = .alertWait) := by
  have hfit : recordsFit c ↔ ∃ a, c.active = some (.alert a) ∧ (a.offset = none ↔ c.state = .alertWait) := by
    unfold recordsFit
    rcases h with h | h <;> simp [h, Option.ne_none_iff_isSome]
  have hret : c.state ≠ .returnWait := by rcases h with h | h <;> simp [h]
  unfold ChannelLaw records Channel.NoReturn HeldLaw
  rw [hfit]
  constructor
  · rintro ⟨⟨a, ha, ho⟩, hl, ht, hlev, hoff, hc, _, hr, hd, hs⟩
    have hlev' (x) (hx : Record.alert x ∈ c.active.toList ∨ Record.alert x ∈ c.hold) := hlev x (List.mem_append.mpr hx)
    exact ⟨⟨a, ha, (hlev' a (by simp [ha])).1, (hlev' a (by simp [ha])).2, ho⟩,
      ⟨hl, ht, fun x hx => ⟨(hlev' x (.inr hx)).1, (hlev' x (.inr hx)).2, hoff x hx⟩⟩, by simp_all, hd.mpr h, hs⟩
  · rintro ⟨⟨a, ha, h1, h2, ho⟩, ⟨hl, ht, hx⟩, hc, hd, hs⟩
    refine ⟨⟨a, ha, ho⟩, hl, ht, ?_, fun x hm => (hx x hm).2.2, by simp [hc, hret], by simp [hc], by simp [hc], by simp [hd, h], hs⟩
    intro x hm
    rcases List.mem_append.mp hm with hm | hm
    · simp only [ha, Option.toList_some, List.mem_singleton, Record.alert.injEq] at hm
      exact hm ▸ ⟨h1, h2⟩
    · exact ⟨(hx x hm).1, (hx x hm).2.1⟩

/-! ## The cue law, entry by entry (R33, R67, R73) -/

/-- What the cue law says of a channel, entry by entry. -/
structure CueFacts (c : Channel) : Prop where
  few         : c.cues.length ≤ 8
  nodup       : (c.cues.map (·.cueId)).Nodup
  pending_iff : c.pendingEntry.isSome = true ↔ c.state = .cutWait
  pending_mem : ∀ id, c.pendingEntry = some id → ∃ e ∈ c.cues, e.cueId = id
  cutWait_iff : ∀ e ∈ c.cues, e.state = .cutWait ↔ c.pendingEntry = some e.cueId
  one_waits   : ∀ e ∈ c.cues, ∀ x ∈ c.cues, e.state = .portWait → x.state = .portWait → e = x
  none_waits  : c.state = .cutWait → ∀ e ∈ c.cues, e.state ≠ .portWait
  timed_iff   : ∀ e ∈ c.cues, e.splice.isSome = e.isTimed
  clamped     : ∀ e ∈ c.cues, 1000 ≤ e.duration ∧ e.duration ≤ 14400000

theorem filter_length_le_one_iff {α : Type} {l : List α} (h : l.Nodup) (p : α → Bool) :
    (l.filter p).length ≤ 1 ↔ ∀ x ∈ l, ∀ y ∈ l, p x = true → p y = true → x = y := by
  have hn := h.filter p
  have hm (x : α) : x ∈ l.filter p ↔ x ∈ l ∧ p x = true := List.mem_filter
  generalize l.filter p = k at hn hm
  constructor
  · intro hl x hx y hy px py
    have hxk := (hm x).mpr ⟨hx, px⟩
    have hyk := (hm y).mpr ⟨hy, py⟩
    match k, hl with
    | [a], _ => rw [List.mem_singleton.mp hxk, List.mem_singleton.mp hyk]
  · intro hu
    match k with
    | [] => simp
    | [a] => simp
    | a :: b :: rest =>
      obtain ⟨ha, pa⟩ := (hm a).mp (by simp)
      obtain ⟨hb, pb⟩ := (hm b).mp (by simp)
      exact absurd (hu a ha b hb pa pb) (by simp at hn; tauto)

theorem entry_isSome {c : Channel} {id : Ident} : (c.entry id).isSome = true ↔ ∃ e ∈ c.cues, e.cueId = id := by
  simp [Channel.entry]

theorem entry_eq_some {c : Channel} {id : Ident} {e : CueEntry} (h : c.entry id = some e) : e ∈ c.cues ∧ e.cueId = id :=
  ⟨List.mem_of_find?_eq_some h, by simpa using List.find?_some h⟩

theorem hasPortWait_eq_false {c : Channel} : c.hasPortWait = false ↔ ∀ e ∈ c.cues, e.state ≠ .portWait := by
  simp [Channel.hasPortWait]

theorem cueLaw_iff {c : Channel} : CueLaw c ↔ CueFacts c := by
  unfold CueLaw
  constructor
  · rintro ⟨h1, h2, h3, h4, h5, h6, h7, h8, h9⟩
    have h6 := (filter_length_le_one_iff (h2.of_map _) _).mp h6
    exact ⟨h1, h2, h3, fun id h => entry_isSome.mp (h4 id h), h5, by simpa using h6, fun h => hasPortWait_eq_false.mp (h7 h), h8, h9⟩
  · rintro ⟨h1, h2, h3, h4, h5, h6, h7, h8, h9⟩
    exact ⟨h1, h2, h3, fun id h => entry_isSome.mpr (h4 id h), h5, (filter_length_le_one_iff (h2.of_map _) _).mpr (by simpa using h6),
      fun h => hasPortWait_eq_false.mpr (h7 h), h8, h9⟩

theorem mem_dropEntry {c : Channel} {id : Ident} {e : CueEntry} : e ∈ (c.dropEntry id).cues ↔ e ∈ c.cues ∧ e.cueId ≠ id := by
  simp [Channel.dropEntry]

theorem dropEntry_sublist (c : Channel) (id : Ident) : List.Sublist (c.dropEntry id).cues c.cues := List.filter_sublist

namespace CueFacts

variable {c c' : Channel}

theorem unique (h : CueFacts c) {e x : CueEntry} (he : e ∈ c.cues) (hx : x ∈ c.cues) (hid : e.cueId = x.cueId) : e = x :=
  List.inj_on_of_nodup_map h.nodup he hx hid

theorem pending_of_ne (h : CueFacts c) (hs : c.state ≠ .cutWait) : c.pendingEntry = none := by
  rw [← Option.not_isSome_iff_eq_none, h.pending_iff]
  exact hs

/-- The cue law speaks of the entries, the pending entry and whether the channel is in CUT_WAIT. -/
theorem of_same (h : CueFacts c) (hcues : c'.cues = c.cues) (hp : c'.pendingEntry = c.pendingEntry)
    (hs : c'.state = .cutWait ↔ c.state = .cutWait) : CueFacts c' := by
  obtain ⟨h1, h2, h3, h4, h5, h6, h7, h8, h9⟩ := h
  constructor <;> simp only [hcues, hp, hs] <;> assumption

/-- The CUT_WAIT entry leaves the list, and the channel leaves CUT_WAIT (R76, R78). -/
theorem drop_pending (h : CueFacts c) {id : Ident} (hp : c.pendingEntry = some id) (hcues : c'.cues = (c.dropEntry id).cues)
    (hp' : c'.pendingEntry = none) (hs' : c'.state ≠ .cutWait) : CueFacts c' := by
  have hsub : List.Sublist c'.cues c.cues := hcues ▸ dropEntry_sublist c id
  refine ⟨hsub.length_le.trans h.few, h.nodup.sublist (hsub.map _), by simp [hp', hs'], by simp [hp'], fun e he => ?_,
    fun e he x hx => h.one_waits e (hsub.subset he) x (hsub.subset hx), fun k => absurd k hs',
    fun e he => h.timed_iff e (hsub.subset he), fun e he => h.clamped e (hsub.subset he)⟩
  rw [hcues, mem_dropEntry] at he
  rw [h.cutWait_iff e he.1, hp, hp']
  simpa using fun k => he.2 k.symm

/-- An entry that is not in CUT_WAIT leaves the list (R76). -/
theorem dropEntry (h : CueFacts c) {e : CueEntry} (he : e ∈ c.cues) (hs : e.state ≠ .cutWait) : CueFacts (c.dropEntry e.cueId) := by
  have hne : c.pendingEntry ≠ some e.cueId := mt (h.cutWait_iff e he).mpr hs
  have hsub := dropEntry_sublist c e.cueId
  refine ⟨hsub.length_le.trans h.few, h.nodup.sublist (hsub.map _), h.pending_iff, fun id hid => ?_,
    fun x hx => h.cutWait_iff x (hsub.subset hx), fun e he x hx => h.one_waits e (hsub.subset he) x (hsub.subset hx),
    fun k x hx => h.none_waits k x (hsub.subset hx),
    fun x hx => h.timed_iff x (hsub.subset hx), fun x hx => h.clamped x (hsub.subset hx)⟩
  obtain ⟨x, hx, rfl⟩ := h.pending_mem id hid
  exact ⟨x, mem_dropEntry.mpr ⟨hx, fun k => hne (k ▸ hid)⟩, rfl⟩

end CueFacts

/-- The entries of a channel after the state of one has been written. -/
def Channel.restate (c : Channel) (id : Ident) (st : EntryState) : Channel := c.modEntry id fun e => { e with state := st }

theorem restate_ids (c : Channel) (id : Ident) (st : EntryState) : (c.restate id st).cues.map (·.cueId) = c.cues.map (·.cueId) := by
  simp only [Channel.restate, Channel.modEntry, List.map_map]
  refine List.map_congr_left fun e _ => ?_
  simp only [Function.comp_apply]
  split <;> rfl

theorem mem_restate {c : Channel} (h : CueFacts c) {e : CueEntry} (he : e ∈ c.cues) {st : EntryState} {x : CueEntry} :
    x ∈ (c.restate e.cueId st).cues ↔ x = { e with state := st } ∨ (x ∈ c.cues ∧ x.cueId ≠ e.cueId) := by
  simp only [Channel.restate, Channel.modEntry, List.mem_map]
  constructor
  · rintro ⟨y, hy, rfl⟩
    split
    next k => exact .inl (by rw [h.unique hy he k])
    next k => exact .inr ⟨hy, k⟩
  · rintro (rfl | ⟨hx, k⟩)
    · exact ⟨e, he, if_pos rfl⟩
    · exact ⟨x, hx, if_neg k⟩

/-- The state of one entry that is not in CUT_WAIT becomes another (R73). -/
theorem CueFacts.restate {c c' : Channel} (h : CueFacts c) {e : CueEntry} (he : e ∈ c.cues) {st : EntryState}
    (hcues : c'.cues = (c.restate e.cueId st).cues) (htimed : ({ e with state := st } : CueEntry).isTimed = e.isTimed)
    (hp : ∀ id, c'.pendingEntry = some id ↔ (id = e.cueId ∧ st = .cutWait) ∨ (id ≠ e.cueId ∧ c.pendingEntry = some id))
    (hs : c'.pendingEntry.isSome = true ↔ c'.state = .cutWait)
    (hw : st = .portWait ∨ c'.state = .cutWait → ∀ x ∈ c.cues, x.cueId ≠ e.cueId → x.state ≠ .portWait)
    (hw' : c'.state = .cutWait → st ≠ .portWait) : CueFacts c' := by
  have hm (x : CueEntry) : x ∈ c'.cues ↔ x = { e with state := st } ∨ (x ∈ c.cues ∧ x.cueId ≠ e.cueId) := by
    rw [hcues, mem_restate h he]
  have hids : c'.cues.map (·.cueId) = c.cues.map (·.cueId) := by rw [hcues, restate_ids]
  have hlen : c'.cues.length = c.cues.length := by simpa using congrArg List.length hids
  refine ⟨hlen ▸ h.few, hids ▸ h.nodup, hs, fun id hid => ?_, fun x hx => ?_, fun x hx y hy px py => ?_, fun k x hx => ?_,
    fun x hx => ?_, fun x hx => ?_⟩
  · rcases (hp id).mp hid with ⟨rfl, _⟩ | ⟨hne, hid⟩
    · exact ⟨_, (hm _).mpr (.inl rfl), rfl⟩
    · obtain ⟨x, hx, rfl⟩ := h.pending_mem id hid
      exact ⟨x, (hm x).mpr (.inr ⟨hx, hne⟩), rfl⟩
  · rw [hp]
    rcases (hm x).mp hx with rfl | ⟨hx, hne⟩
    · simp
    · rw [h.cutWait_iff x hx]
      simp [hne]
  · rcases (hm x).mp hx with rfl | ⟨hx, hxe⟩ <;> rcases (hm y).mp hy with rfl | ⟨hy, hye⟩
    · rfl
    · exact absurd py (hw (.inl px) y hy hye)
    · exact absurd px (hw (.inl py) x hx hxe)
    · exact h.one_waits x hx y hy px py
  · rcases (hm x).mp hx with rfl | ⟨hx, hne⟩
    · exact hw' k
    · exact hw (.inr k) x hx hne
  · rcases (hm x).mp hx with rfl | ⟨hx, _⟩
    · exact (h.timed_iff e he).trans htimed.symm
    · exact h.timed_iff x hx
  · rcases (hm x).mp hx with rfl | ⟨hx, _⟩
    · exact h.clamped e he
    · exact h.clamped x hx

/-! ## An entry is placed in the list (R56, R70) -/

theorem insertTimed_perm (e : CueEntry) (sp : Time) (l : List CueEntry) : (insertTimed e sp l).Perm (e :: l) := by
  induction l with
  | nil => exact .refl _
  | cons x rest ih =>
    unfold insertTimed
    split
    · exact (ih.cons x).trans (.swap ..)
    · exact .refl _

theorem placeEntry_perm (e : CueEntry) (l : List CueEntry) : (placeEntry e l).Perm (e :: l) := by
  unfold placeEntry
  split
  · exact insertTimed_perm e _ l
  · exact (List.perm_append_comm).trans (.refl _)

theorem mem_putEntry {c : Channel} {e x : CueEntry} : x ∈ (c.putEntry e).cues ↔ x = e ∨ (x ∈ c.cues ∧ x.cueId ≠ e.cueId) := by
  simp only [Channel.putEntry, (placeEntry_perm e _).mem_iff, List.mem_cons, mem_dropEntry]

theorem putEntry_length (c : Channel) (e : CueEntry) : (c.putEntry e).cues.length = (c.dropEntry e.cueId).cues.length + 1 :=
  (placeEntry_perm e _).length_eq

theorem dropEntry_length_lt {c : Channel} {e : CueEntry} (he : e ∈ c.cues) : (c.dropEntry e.cueId).cues.length < c.cues.length :=
  List.length_filter_lt_length_iff_exists.mpr ⟨e, he, by simp⟩

/-- An entry that is PENDING or WAIT_PEER is placed in the list, where the entry with its id, if any, is not the pending one (R70). -/
theorem CueFacts.put {c : Channel} (h : CueFacts c) {e : CueEntry} (hlen : (c.dropEntry e.cueId).cues.length < 8)
    (hp : c.pendingEntry ≠ some e.cueId) (hcut : e.state ≠ .cutWait) (hw : e.state ≠ .portWait)
    (htimed : e.splice.isSome = e.isTimed) (hdur : 1000 ≤ e.duration ∧ e.duration ≤ 14400000) : CueFacts (c.putEntry e) := by
  have hperm := placeEntry_perm e (c.dropEntry e.cueId).cues
  refine ⟨by rw [putEntry_length]; exact hlen, (hperm.map _).nodup_iff.mpr ?_, h.pending_iff, fun id hid => ?_, fun x hx => ?_,
    fun x hx y hy px py => ?_, fun k x hx => ?_, fun x hx => ?_, fun x hx => ?_⟩
  · refine List.nodup_cons.mpr ⟨fun k => ?_, h.nodup.sublist ((dropEntry_sublist c _).map _)⟩
    obtain ⟨x, hx, hid⟩ := List.mem_map.mp k
    exact (mem_dropEntry.mp hx).2 hid
  · obtain ⟨x, hx, rfl⟩ := h.pending_mem id hid
    exact ⟨x, mem_putEntry.mpr (.inr ⟨hx, fun k => hp (k ▸ hid)⟩), rfl⟩
  · rcases mem_putEntry.mp hx with rfl | ⟨hx, _⟩
    · exact iff_of_false hcut hp
    · exact h.cutWait_iff x hx
  · rcases mem_putEntry.mp hx with rfl | ⟨hx, _⟩
    · exact absurd px hw
    rcases mem_putEntry.mp hy with rfl | ⟨hy, _⟩
    · exact absurd py hw
    · exact h.one_waits x hx y hy px py
  · rcases mem_putEntry.mp hx with rfl | ⟨hx, _⟩
    · exact hw
    · exact h.none_waits k x hx
  · rcases mem_putEntry.mp hx with rfl | ⟨hx, _⟩
    · exact htimed
    · exact h.timed_iff x hx
  · rcases mem_putEntry.mp hx with rfl | ⟨hx, _⟩
    · exact hdur
    · exact h.clamped x hx

end Sys2Proof.Machine
end

section
/-!
The changes of one channel record, each as one edit that leaves the channel lawful (chapters 3, 5, 6): the edits of the slot events and
of the cue commands, and those of the alerts. What each law of a channel makes of an edit is said once, edit by edit.
-/
namespace Sys2Proof.Machine

open Sys2Proof.Safety

/-! ## The laws of one channel -/

/-- The channel holds no break record, active or held. -/
def Channel.Breakless (c : Channel) : Prop := ∀ r ∈ records c, r.break? = none

/-- What the guard law asks of a GUARDED channel (R113). -/
def Channel.Clean (c : Channel) : Prop := c.Breakless ∧ c.cues = []

/-- The loss law of one channel (R28, R29). -/
def Channel.LossOk (c : Channel) : Prop := c.clock.state = .noClock → c.Breakless ∧ ∀ e ∈ c.cues, e.isTimed = false

/-- The entries e and f of a channel, e before f, as the timed law has them (R57, R67). -/
def InOrder (e f : CueEntry) : Prop :=
  (e.splice = none → f.splice = none) ∧
    (e.splice.any fun a => f.splice.any fun b => intervalsOverlap a (1000 * e.duration) b (1000 * f.duration)) = false

/-- The reader of a channel as the ring law has it (R12 to R14, R103). -/
def Channel.ReadsOk (ring : AlertRing) (c : Channel) : Prop :=
  ∀ p n, c.reader = some (.positioned p n) → n ≤ 96 ∧ (p.val + n) % 96 = ring.writer.val ∧
    (c.state = .alertWait → 1 ≤ n ∧ ring.cells[p].any isUnitStart = true)

/-- The record law and the cue law of one channel. -/
structure Channel.Lawful (c : Channel) : Prop where
  records : ChannelLaw c
  cues    : CueFacts c

theorem timedLaw_iff (s : State) : TimedLaw s ↔ ∀ i, (s.chan i).cues.Pairwise InOrder := Iff.rfl

theorem lossLaw_iff (s : State) : LossLaw s ↔ ∀ i, (s.chan i).LossOk := Iff.rfl

theorem guardLaw_iff (s : State) : GuardLaw s ↔ ∀ i, (s.chan i).rights = .guarded → (s.chan i).Clean := Iff.rfl

theorem ringLaw_iff (s : State) : RingLaw s ↔
    (∀ p ∈ s.ring.newest, s.ring.cells[p].any isUnitStart = true) ∧ ∀ i, (s.chan i).ReadsOk s.ring := Iff.rfl

/-! ## The edits -/

/-- The fields of a channel record that its laws speak of stand, and its clock is not lost. -/
structure Channel.SameCore (c c' : Channel) : Prop where
  state           : c'.state = c.state
  returnCondition : c'.returnCondition = c.returnCondition
  returnReport    : c'.returnReport = c.returnReport
  active          : c'.active = c.active
  hold            : c'.hold = c.hold
  pendingEntry    : c'.pendingEntry = c.pendingEntry
  rights          : c'.rights = c.rights
  reader          : c'.reader = c.reader
  starved         : c'.starved = c.starved
  cues            : c'.cues = c.cues
  clock           : c'.clock.state = .noClock → c.clock.state = .noClock

/-- The channel is in NETWORK or CUT_WAIT, where it has no record. -/
def ChannelState.Idle (st : ChannelState) : Prop := st = .network ∨ st = .cutWait

/-- A break of the channel is on air or waits to rejoin. -/
def ChannelState.OnAir (st : ChannelState) : Prop := st = .onBreak ∨ st = .rejoinWait

/-- An alert of the channel is on air or awaited. -/
def ChannelState.Alerted (st : ChannelState) : Prop := st = .alertWait ∨ st = .alert

/-- What every change of a channel record keeps of a channel that does not keep its record law: nothing but its rights, and what the
guard law and the ring law say of it. -/
structure Channel.Loosely (ring : AlertRing) (c c' : Channel) : Prop where
  rights : c'.rights = c.rights
  clean  : c.Clean → c'.Clean
  reader : c'.reader = none ∨ c'.reader = some ring.newReader ∨
    (c'.reader = c.reader ∧ (c'.state = .alertWait → c.state = .alertWait))

/-- An edit of a channel record outside the alert commands. Where a rule changes several fields between two lawful records, the edit is
the whole change; the loose edits stand for the changes of records that are not lawful. -/
inductive Edit (ring : AlertRing) (c : Channel) : Channel → Prop
  | same {c' : Channel} (h : c.SameCore c') : Edit ring c c'
  | mature {e : CueEntry} (he : e ∈ c.cues) (hs : e.state = .pending false) : Edit ring c (c.restate e.cueId (.pending true))
  | waitPort {e : CueEntry} (he : e ∈ c.cues) (hs : e.state = .pending true) (hc : c.state = .network)
      (hw : c.hasPortWait = false) : Edit ring c (c.restate e.cueId .portWait)
  | reserve {e : CueEntry} (he : e ∈ c.cues) (hs : e.state = .portWait ∨ (e.state = .pending true ∧ c.hasPortWait = false))
      (hc : c.state = .network) : Edit ring c (c.enterCutWait e.cueId)
  | drop {e : CueEntry} (he : e ∈ c.cues) (hs : e.state ≠ .cutWait) : Edit ring c (c.dropEntry e.cueId)
  | leave {e : CueEntry} (he : e ∈ c.cues) (hp : c.pendingEntry = some e.cueId) (hc : c.state = .cutWait) :
      Edit ring c (c.leaveCutWait.dropEntry e.cueId)
  | put {e old : CueEntry} {sp : Time} (ho : old ∈ c.cues) (hid : old.cueId = e.cueId) (hold : old.state ≠ .cutWait)
      (hs : e.state = .pending false) (hsp : e.splice = some sp) (hdur : e.duration = old.duration) (hk : c.clock.state = .locked)
      (hov : c.overlapsInterval e.cueId sp (breakLength e.duration) = false) : Edit ring c (c.putEntry e)
  | cutIn {e : CueEntry} (b : BreakRecord) (he : e ∈ c.cues) (hp : c.pendingEntry = some e.cueId) (hc : c.state = .cutWait)
      (hb : b.cueId = e.cueId) :
      Edit ring c { c.dropEntry e.cueId with pendingEntry := none, active := some (.brk b), state := .onBreak }
  | returnCut (hc : c.state.OnAir) : Edit ring c { c.enterNetwork with active := none }
  | wait (cond : ReturnCondition) (report : Option ReturnReport) (hc : c.state.OnAir ∨
      (c.state = .returnWait ∧ cond = .any ∧ (report.isSome = true → c.returnReport.isSome = true))) :
      Edit ring c (c.enterReturnWait cond report)
  | lose (hc : c.state.OnAir ∨ c.state = .returnWait) : Edit ring c (Channel.enterReturnWait { c with active := none } .any none)
  | dropHeld : Edit ring c c.dropHeldBreak
  | network (active : Option Record) (hc : c.state = .returnWait)
      (ha : active = none ∨ (active = c.active ∧ c.activeBreak = none)) : Edit ring c { c.enterNetwork with active := active }
  | rejoinCut (hc : c.state = .rejoinWait) : Edit ring c { c with state := .onBreak }
  | shift (j : Time) : Edit ring c (c.shiftReturnPoints j)
  | starve (hc : c.state = .alertWait) : Edit ring c { c with starved := true }
  | alertCut {a : AlertRef} {reader : Reader} {cell : StreamCell} (d : Time) (hc : c.state = .alertWait)
      (ha : c.active = some (.alert a)) (hr : c.reader = some reader) (hcell : ring.cellAt reader = some cell) :
      Edit ring c { c with
        active  := some (.alert { a with offset := some d })
        reader  := some reader.advance
        state   := .alert
        starved := false }
  | advance {reader : Reader} {cell : StreamCell} (hc : c.state = .alert) (hr : c.reader = some reader)
      (hcell : ring.cellAt reader = some cell) : Edit ring c { c with reader := some reader.advance }
  | takeRights (r : Rights) (h : r = .guarded → c.Clean) : Edit ring c { c with rights := r }
  | looseCues (h : ¬ CueFacts c) {c' : Channel} (cues : List CueEntry) (pending : Option Ident) (st : ChannelState)
      (hlen : cues.length ≤ c.cues.length) (hs : st = c.state ∨ (c.state.Idle ∧ st.Idle))
      (k : c' = { c with cues := cues, pendingEntry := pending, state := st }) : Edit ring c c'
  | looseRecords (h : ¬ ChannelLaw c) {c' : Channel} (k : c.Loosely ring c') : Edit ring c c'

/-- A record is inserted in a hold stack, not beneath a break. -/
def Inserted (r : Record) (l l' : List Record) : Prop :=
  ∃ before behind, l = before ++ behind ∧ l' = before ++ r :: behind ∧ ∀ x ∈ behind.head?, x.break? = none

/-- A reference is placed on a hold stack, inserted where there is room or in place of the bottom record; or the stack stands (R37,
R38). -/
def Placed (a : AlertRef) (l l' : List Record) : Prop :=
  l' = l ∨ (l.length < 3 ∧ Inserted (.alert a) l l') ∨ ∃ bottom rest, l = bottom :: rest ∧ Inserted (.alert a) rest l'

/-- The level of an alert that the alert unit takes (R90). -/
def AlertRef.Ranked (a : AlertRef) : Prop := 1 ≤ a.level ∧ a.level ≤ 7

/-- An edit of a channel record by an alert command: a pre-emption (R100, R101), a reference held beneath (R98), a release (R40, R41)
or a held reference given up (R106). -/
inductive AlertEdit (ring : AlertRing) (c : Channel) : Channel → Prop
  | await (a : AlertRef) (t : Time) (ha : a.Ranked) (hc : c.state = .network ∨ c.state = .returnWait) :
      AlertEdit ring c (c.enterAlertWait a ring.newReader t)
  | holdBreak (a : AlertRef) (t : Time) (ha : a.Ranked) {b : BreakRecord} (hc : c.state.OnAir) (hb : c.active = some (.brk b)) :
      AlertEdit ring c (Channel.enterAlertWait { c with hold := [.brk b] } a ring.newReader t)
  | push (a : AlertRef) (t : Time) (ha : a.Ranked) {x : AlertRef} {hold : List Record} (hc : c.state.Alerted)
      (hx : c.active = some (.alert x)) (hp : Placed { x with offset := none } c.hold hold) :
      AlertEdit ring c (Channel.enterAlertWait { c with hold := hold } a ring.newReader t)
  | beneath (a : AlertRef) (ha : a.Ranked) (ho : a.offset = none) {x : AlertRef} {hold : List Record}
      (hx : c.active = some (.alert x)) (hp : Placed a c.hold hold) : AlertEdit ring c { c with hold := hold }
  | release {x : AlertRef} (hx : c.active = some (.alert x)) (hh : c.hold = []) :
      AlertEdit ring c (c.dropActiveAlert.enterReturnWait .any none)
  | releaseTo {x a : AlertRef} (t : Time) (hx : c.active = some (.alert x)) (hh : c.hold.getLast? = some (.alert a)) :
      AlertEdit ring c (c.dropActiveAlert.enterAlertWait a ring.newReader t)
  | rejoin {x : AlertRef} {b : BreakRecord} (t : Time) (hx : c.active = some (.alert x)) (hh : c.hold.getLast? = some (.brk b)) :
      AlertEdit ring c { c.dropActiveAlert with active := some (.brk b), state := .rejoinWait, rejoinWaitTime := t }
  | expire {x : AlertRef} {b : BreakRecord} (hx : c.active = some (.alert x)) (hh : c.hold.getLast? = some (.brk b)) :
      AlertEdit ring c { c.dropActiveAlert.enterReturnWait (.afterPoint b.returnPoint) none with active := none }
  | giveUp (id : Ident) : AlertEdit ring c (c.dropHeldAlert id)
  | loose (h : ¬ c.Lawful) {c' : Channel} (hl : ChannelLaw c → ChannelLaw c') (k : c.Loosely ring c') : AlertEdit ring c c'

/-! ## The record law -/

theorem Channel.SameCore.channelLaw {c c' : Channel} (h : c.SameCore c') (k : ChannelLaw c) : ChannelLaw c' := by
  obtain ⟨h1, h2, h3, h4, h5, h6, h7, h8, h9, h10, h11⟩ := h
  unfold ChannelLaw recordsFit records Channel.activeBreak at *
  rw [h1, h2, h3, h4, h5, h8, h9]
  exact k

/-- Between NETWORK and CUT_WAIT the record law speaks of the same fields. -/
theorem channelLaw_of_idle {c c' : Channel} (k : ChannelLaw c) (hc : c.state.Idle) (hc' : c'.state.Idle) (h1 : c'.active = c.active)
    (h2 : c'.hold = c.hold) (h3 : c'.returnCondition = c.returnCondition) (h4 : c'.returnReport = c.returnReport)
    (h5 : c'.reader = c.reader) (h6 : c'.starved = c.starved) : ChannelLaw c' := by
  rw [channelLaw_idle hc] at k
  rw [channelLaw_idle hc', Channel.NoReturn, Channel.NoReader, h1, h2, h3, h4, h5, h6]
  exact k

theorem HeldLaw.sublist {l l' : List Record} (h : HeldLaw l) (k : l'.Sublist l) (ht : l'.tail.Sublist l.tail) : HeldLaw l' :=
  ⟨k.length_le.trans h.1, fun r hr => h.2.1 r (ht.subset hr), fun a ha => h.2.2 a (k.subset ha)⟩

theorem filter_tail_sublist (p : Record → Bool) (l : List Record) : (l.filter p).tail.Sublist l.tail := by
  cases l with
  | nil => simp
  | cons x rest =>
    rw [List.filter_cons]
    split
    · exact List.filter_sublist
    · exact (List.tail_sublist _).trans List.filter_sublist

theorem HeldLaw.filter {l : List Record} (h : HeldLaw l) (p : Record → Bool) : HeldLaw (l.filter p) :=
  h.sublist List.filter_sublist (filter_tail_sublist p l)

theorem HeldLaw.dropLast {l : List Record} (h : HeldLaw l) : HeldLaw l.dropLast := by
  refine h.sublist (List.dropLast_sublist l) ?_
  rw [List.tail_dropLast]
  exact List.dropLast_sublist _

/-- A stack with a break on top holds it alone. -/
theorem HeldLaw.eq_singleton {l : List Record} (h : HeldLaw l) {b : BreakRecord} (k : l.getLast? = some (.brk b)) : l = [.brk b] := by
  match l with
  | [] => simp at k
  | [x] => simpa using k
  | x :: y :: rest =>
    have hm : Record.brk b ∈ (x :: y :: rest).tail := List.mem_of_getLast? (by simpa using k)
    exact absurd (h.2.1 _ hm) (by simp [Record.break?])

theorem HeldLaw.insert {l l' : List Record} (h : HeldLaw l) (hlen : l.length < 3) {a : AlertRef} (ha : a.Ranked) (ho : a.offset = none)
    (k : Inserted (.alert a) l l') : HeldLaw l' := by
  obtain ⟨before, behind, rfl, rfl, hhead⟩ := k
  obtain ⟨_, ht, hx⟩ := h
  refine ⟨by simp at hlen ⊢; omega, fun r hr => ?_, fun x hm => ?_⟩
  · match before with
    | [] =>
      match behind with
      | [] => simp at hr
      | y :: rest =>
        rcases List.mem_cons.mp hr with rfl | hr
        · exact hhead _ rfl
        · exact ht r hr
    | y :: rest =>
      simp only [List.cons_append, List.tail_cons, List.mem_append, List.mem_cons] at hr ht
      rcases hr with hr | rfl | hr
      · exact ht r (.inl hr)
      · rfl
      · exact ht r (.inr hr)
  · simp only [List.mem_append, List.mem_cons] at hm hx
    rcases hm with hm | hm | hm
    · exact hx x (.inl hm)
    · obtain rfl := Record.alert.inj hm
      exact ⟨ha.1, ha.2, ho⟩
    · exact hx x (.inr hm)

theorem HeldLaw.place {l l' : List Record} (h : HeldLaw l) {a : AlertRef} (ha : a.Ranked) (ho : a.offset = none)
    (k : Placed a l l') : HeldLaw l' := by
  rcases k with rfl | ⟨hlen, k⟩ | ⟨bottom, rest, rfl, k⟩
  · exact h
  · exact h.insert hlen ha ho k
  · have hrest : HeldLaw rest := h.sublist (List.sublist_cons_self ..) (List.tail_sublist rest)
    exact hrest.insert (Nat.lt_of_succ_le (by simpa using h.1)) ha ho k

end Sys2Proof.Machine
end

section
/-!
Every edit of a channel record keeps the record law (chapter 3), the cue law (sections 5.1, 5.4) and what follows from them.
-/
namespace Sys2Proof.Machine

open Sys2Proof.Safety

/-! ## The record law -/

theorem map_shift_eq_alert {r : Option Record} {j : Time} {a : AlertRef} :
    r.map (Record.shift j) = some (.alert a) ↔ r = some (.alert a) := by
  rcases r with _ | _ | _ <;> simp [Record.shift]

theorem break?_shift (r : Record) (j : Time) :
    (r.shift j).break? = r.break?.map fun b => { b with returnPoint := b.returnPoint + j } := by
  cases r <;> rfl

theorem alert_mem_map_shift {l : List Record} {j : Time} {a : AlertRef} : .alert a ∈ l.map (Record.shift j) ↔ .alert a ∈ l := by
  constructor
  · intro h
    obtain ⟨x, hx, k⟩ := List.mem_map.mp h
    cases x with
    | brk b => simp [Record.shift] at k
    | alert b => exact (Record.alert.inj k) ▸ hx
  · exact fun h => List.mem_map.mpr ⟨_, h, rfl⟩

theorem HeldLaw.shift {l : List Record} (h : HeldLaw l) (j : Time) : HeldLaw (l.map (Record.shift j)) := by
  refine ⟨by simpa using h.1, fun r hr => ?_, fun a ha => h.2.2 a (alert_mem_map_shift.mp ha)⟩
  rw [← List.map_tail] at hr
  obtain ⟨x, hx, rfl⟩ := List.mem_map.mp hr
  rw [break?_shift, h.2.1 x hx]
  rfl

theorem ReturnCondition.shift_eq_afterBreak {k : Option ReturnCondition} {j : Time} :
    k.map (ReturnCondition.shift j) = some .afterBreak ↔ k = some .afterBreak := by
  rcases k with _ | _ | _ | _ <;> simp [ReturnCondition.shift]

theorem ChannelState.cases (st : ChannelState) : st.Idle ∨ st.OnAir ∨ st = .returnWait ∨ st.Alerted := by
  cases st <;> simp [ChannelState.Idle, ChannelState.OnAir, ChannelState.Alerted]

theorem Channel.shiftReturnPoints_law {c : Channel} (h : ChannelLaw c) (j : Time) : ChannelLaw (c.shiftReturnPoints j) := by
  rcases c.state.cases with hs | hs | hs | hs
  · obtain ⟨ha, hh, ⟨hc, hr⟩, hd⟩ := (channelLaw_idle hs).mp h
    exact (channelLaw_idle (c := c.shiftReturnPoints j) hs).mpr ⟨by simp [Channel.shiftReturnPoints, ha],
      by simp [Channel.shiftReturnPoints, hh], ⟨by simp [Channel.shiftReturnPoints, hc], hr⟩, hd⟩
  · obtain ⟨⟨b, ha⟩, hh, ⟨hc, hr⟩, hd⟩ := (channelLaw_onBreak hs).mp h
    exact (channelLaw_onBreak (c := c.shiftReturnPoints j) hs).mpr ⟨by simp [Channel.shiftReturnPoints, ha, Record.shift],
      by simp [Channel.shiftReturnPoints, hh], ⟨by simp [Channel.shiftReturnPoints, hc], hr⟩, hd⟩
  · obtain ⟨ha, hh, hc, hb, hr, hd⟩ := (channelLaw_returnWait hs).mp h
    have hactive : (c.shiftReturnPoints j).activeBreak.isSome = c.activeBreak.isSome := by
      unfold Channel.activeBreak Channel.shiftReturnPoints
      rcases c.active with _ | _ | _ <;> rfl
    refine (channelLaw_returnWait (c := c.shiftReturnPoints j) hs).mpr ⟨?_, by simp [Channel.shiftReturnPoints, hh],
      by simpa [Channel.shiftReturnPoints] using hc, fun k => hactive ▸ hb (ReturnCondition.shift_eq_afterBreak.mp k),
      fun k => hactive ▸ hr k, hd⟩
    rcases ha with ha | ⟨b, ha⟩ <;> simp [Channel.shiftReturnPoints, ha, Record.shift]
  · obtain ⟨⟨a, ha, hrest⟩, hh, ⟨hc, hr⟩, hd⟩ := (channelLaw_alerted hs).mp h
    exact (channelLaw_alerted (c := c.shiftReturnPoints j) hs).mpr ⟨⟨a, map_shift_eq_alert.mpr ha, hrest⟩, hh.shift j,
      ⟨by simp [Channel.shiftReturnPoints, hc], hr⟩, hd⟩

/-- A channel with another hold stack, empty where it was and lawful where it was. -/
theorem channelLaw_of_hold {c : Channel} {hold : List Record} (h : ChannelLaw c) (hn : c.hold = [] → hold = [])
    (hl : HeldLaw c.hold → HeldLaw hold) : ChannelLaw { c with hold := hold } := by
  rcases c.state.cases with hs | hs | hs | hs
  · obtain ⟨ha, hh, hrest⟩ := (channelLaw_idle hs).mp h
    exact (channelLaw_idle (c := { c with hold := hold }) hs).mpr ⟨ha, hn hh, hrest⟩
  · obtain ⟨ha, hh, hrest⟩ := (channelLaw_onBreak hs).mp h
    exact (channelLaw_onBreak (c := { c with hold := hold }) hs).mpr ⟨ha, hn hh, hrest⟩
  · obtain ⟨ha, hh, hrest⟩ := (channelLaw_returnWait hs).mp h
    exact (channelLaw_returnWait (c := { c with hold := hold }) hs).mpr ⟨ha, hn hh, hrest⟩
  · obtain ⟨ha, hh, hrest⟩ := (channelLaw_alerted hs).mp h
    exact (channelLaw_alerted (c := { c with hold := hold }) hs).mpr ⟨ha, hl hh, hrest⟩

theorem Edit.channelLaw {ring : AlertRing} {c c' : Channel} (e : Edit ring c c') (h : ChannelLaw c) : ChannelLaw c' := by
  cases e with
  | same k => exact k.channelLaw h
  | mature | waitPort | drop | put | takeRights => exact h
  | reserve _ _ hc => exact channelLaw_of_idle h (.inl hc) (.inr rfl) rfl rfl rfl rfl rfl rfl
  | leave _ _ hc =>
    exact channelLaw_of_idle h (.inr hc) (.inl (if_pos hc)) rfl rfl rfl rfl rfl rfl
  | cutIn b _ _ hc =>
    obtain ⟨_, hh, hret, hread⟩ := (channelLaw_idle (.inr hc)).mp h
    exact (channelLaw_onBreak (.inl rfl)).mpr ⟨⟨b, rfl⟩, hh, hret, hread⟩
  | returnCut hc =>
    obtain ⟨_, hh, _, hread⟩ := (channelLaw_onBreak hc).mp h
    exact (channelLaw_idle (.inl rfl)).mpr ⟨rfl, hh, ⟨rfl, rfl⟩, hread⟩
  | wait cond report hc =>
    rcases hc with hc | ⟨hc, rfl, hrep⟩
    · obtain ⟨⟨b, ha⟩, hh, _, hread⟩ := (channelLaw_onBreak hc).mp h
      have hb : c.activeBreak.isSome = true := by simp [Channel.activeBreak, ha, Record.break?]
      exact (channelLaw_returnWait rfl).mpr ⟨.inr ⟨b, ha⟩, hh, rfl, fun _ => hb, fun _ => hb, hread⟩
    · obtain ⟨ha, hh, _, _, hr, hread⟩ := (channelLaw_returnWait hc).mp h
      exact (channelLaw_returnWait rfl).mpr ⟨ha, hh, rfl, fun k => by simp [Channel.enterReturnWait] at k, fun k => hr (hrep k), hread⟩
  | lose hc =>
    have ⟨hh, hread⟩ : c.hold = [] ∧ c.NoReader := by
      rcases hc with hc | hc
      · exact ⟨((channelLaw_onBreak hc).mp h).2.1, ((channelLaw_onBreak hc).mp h).2.2.2⟩
      · exact ⟨((channelLaw_returnWait hc).mp h).2.1, ((channelLaw_returnWait hc).mp h).2.2.2.2.2⟩
    exact (channelLaw_returnWait rfl).mpr ⟨.inl rfl, hh, rfl, fun k => by simp [Channel.enterReturnWait] at k,
      fun k => by simp [Channel.enterReturnWait] at k, hread⟩
  | dropHeld => exact channelLaw_of_hold h (fun k => by simp [k]) fun k => k.filter _
  | network active hc ha =>
    obtain ⟨hact, hh, _, _, _, hread⟩ := (channelLaw_returnWait hc).mp h
    refine (channelLaw_idle (.inl rfl)).mpr ⟨?_, hh, ⟨rfl, rfl⟩, hread⟩
    rcases ha with rfl | ⟨rfl, hb⟩
    · rfl
    · rcases hact with hact | ⟨b, hact⟩
      · exact hact
      · exact absurd hb (by simp [Channel.activeBreak, hact, Record.break?])
  | rejoinCut hc => exact (channelLaw_onBreak (.inl rfl)).mpr ((channelLaw_onBreak (.inr hc)).mp h)
  | shift j => exact c.shiftReturnPoints_law h j
  | starve hc =>
    obtain ⟨ha, hh, hret, hread, _⟩ := (channelLaw_alerted (.inl hc)).mp h
    exact (channelLaw_alerted (c := { c with starved := true }) (.inl hc)).mpr ⟨ha, hh, hret, hread, fun _ => hc⟩
  | alertCut d hc ha hr hcell =>
    obtain ⟨⟨x, hx, h1, h2, _⟩, hh, hret, _⟩ := (channelLaw_alerted (.inl hc)).mp h
    obtain rfl := Record.alert.inj (Option.some.inj (ha.symm.trans hx))
    exact (channelLaw_alerted (.inr rfl)).mpr ⟨⟨_, rfl, h1, h2, by simp⟩, hh, hret, rfl, fun k => by simp at k⟩
  | @advance reader cell hc hr hcell =>
    obtain ⟨ha, hh, hret, _, hs⟩ := (channelLaw_alerted (.inr hc)).mp h
    exact (channelLaw_alerted (c := { c with reader := some reader.advance }) (.inr hc)).mpr ⟨ha, hh, hret, rfl, hs⟩
  | looseCues hn cues pending st hlen hs k =>
    subst k
    rcases hs with rfl | ⟨hc, hc'⟩
    · exact h
    · exact channelLaw_of_idle h hc hc' rfl rfl rfl rfl rfl rfl
  | looseRecords hn k => exact absurd h hn

theorem enterAlertWait_law {c : Channel} {a : AlertRef} (ha : a.Ranked) (hh : HeldLaw c.hold) (reader : Reader) (t : Time) :
    ChannelLaw (c.enterAlertWait a reader t) :=
  (channelLaw_alerted (.inl rfl)).mpr ⟨⟨_, rfl, ha.1, ha.2, by simp [Channel.enterAlertWait]⟩, hh, ⟨rfl, rfl⟩, rfl, fun _ => rfl⟩

/-- A channel whose active record is an alert is in ALERT_WAIT or ALERT. -/
theorem alerted_of_active {c : Channel} (h : ChannelLaw c) {x : AlertRef} (hx : c.active = some (.alert x)) : c.state.Alerted := by
  rcases c.state.cases with hs | hs | hs | hs
  · exact absurd ((channelLaw_idle hs).mp h).1 (by simp [hx])
  · obtain ⟨⟨b, hb⟩, _⟩ := (channelLaw_onBreak hs).mp h
    exact absurd hb (by simp [hx])
  · rcases ((channelLaw_returnWait hs).mp h).1 with hb | ⟨b, hb⟩ <;> exact absurd hb (by simp [hx])
  · exact hs

theorem AlertEdit.channelLaw {ring : AlertRing} {c c' : Channel} (e : AlertEdit ring c c') (h : ChannelLaw c) : ChannelLaw c' := by
  cases e with
  | await a t ha hc =>
    refine enterAlertWait_law ha ?_ _ _
    rcases hc with hc | hc
    · exact ((channelLaw_idle (.inl hc)).mp h).2.1 ▸ heldLaw_nil
    · exact ((channelLaw_returnWait hc).mp h).2.1 ▸ heldLaw_nil
  | @holdBreak a t ha b hc hb => exact enterAlertWait_law ha ⟨by simp, by simp, by simp⟩ _ _
  | @push a t ha x hold hc hx hp =>
    obtain ⟨⟨y, hy, h1, h2, _⟩, hh, _⟩ := (channelLaw_alerted hc).mp h
    obtain rfl := Record.alert.inj (Option.some.inj (hx.symm.trans hy))
    exact enterAlertWait_law ha (hh.place (a := { x with offset := none }) ⟨h1, h2⟩ rfl hp) _ _
  | @beneath a ha ho x hold hx hp =>
    have hc := alerted_of_active h hx
    obtain ⟨hact, hh, hrest⟩ := (channelLaw_alerted hc).mp h
    exact (channelLaw_alerted (c := { c with hold := hold }) hc).mpr ⟨hact, hh.place ha ho hp, hrest⟩
  | release hx hh =>
    exact (channelLaw_returnWait rfl).mpr ⟨.inl rfl, by simp [Channel.enterReturnWait, Channel.dropActiveAlert, hh], rfl,
      fun k => by simp [Channel.enterReturnWait] at k, fun k => by simp [Channel.enterReturnWait] at k, rfl, rfl⟩
  | @releaseTo x a t hx hh =>
    obtain ⟨_, hheld, _⟩ := (channelLaw_alerted (alerted_of_active h hx)).mp h
    obtain ⟨h1, h2, _⟩ := hheld.2.2 a (List.mem_of_getLast? hh)
    exact enterAlertWait_law ⟨h1, h2⟩ hheld.dropLast _ _
  | @rejoin x b t hx hh =>
    obtain ⟨_, hheld, hret, _⟩ := (channelLaw_alerted (alerted_of_active h hx)).mp h
    exact (channelLaw_onBreak (.inr rfl)).mpr ⟨⟨b, rfl⟩, by simp [Channel.dropActiveAlert, hheld.eq_singleton hh], hret, rfl, rfl⟩
  | @expire x b hx hh =>
    obtain ⟨_, hheld, _⟩ := (channelLaw_alerted (alerted_of_active h hx)).mp h
    exact (channelLaw_returnWait rfl).mpr ⟨.inl rfl,
      by simp [Channel.enterReturnWait, Channel.dropActiveAlert, hheld.eq_singleton hh], rfl,
      fun k => by simp [Channel.enterReturnWait] at k, fun k => by simp [Channel.enterReturnWait] at k, rfl, rfl⟩
  | giveUp id => exact channelLaw_of_hold h (fun k => by simp [k]) fun k => k.filter _
  | loose _ hl => exact hl h

/-! ## The cue law -/

theorem Channel.SameCore.cueFacts {c c' : Channel} (h : c.SameCore c') (k : CueFacts c) : CueFacts c' :=
  k.of_same h.cues h.pendingEntry (by rw [h.state])

theorem ChannelState.OnAir.ne_cutWait {st : ChannelState} (h : st.OnAir) : st ≠ .cutWait := by
  rcases h with h | h <;> simp [h]

theorem ChannelState.Alerted.ne_cutWait {st : ChannelState} (h : st.Alerted) : st ≠ .cutWait := by
  rcases h with h | h <;> simp [h]

/-- Outside CUT_WAIT the cue law speaks of the entries and the pending entry alone. -/
theorem CueFacts.of_cues {c c' : Channel} (h : CueFacts c) (hs : c.state ≠ .cutWait) (hcues : c'.cues = c.cues)
    (hp : c'.pendingEntry = c.pendingEntry) (hs' : c'.state ≠ .cutWait) : CueFacts c' :=
  h.of_same hcues hp (iff_of_false hs' hs)

/-- The entry that enters CUT_WAIT is the only one that waited for its port (R10, R73). -/
theorem CueFacts.enterCutWait {c : Channel} (h : CueFacts c) {e : CueEntry} (he : e ∈ c.cues)
    (hs : e.state = .portWait ∨ (e.state = .pending true ∧ c.hasPortWait = false)) (hc : c.state = .network) :
    CueFacts (c.enterCutWait e.cueId) := by
  have hp : c.pendingEntry = none := h.pending_of_ne (by simp [hc])
  refine h.restate he (st := .cutWait) rfl ?_ (fun id => ?_) (by simp [Channel.enterCutWait]) (fun _ x hx hne k => ?_) (by simp)
  · rcases hs with hs | ⟨hs, _⟩ <;> simp [CueEntry.isTimed, hs]
  · simp [Channel.enterCutWait, hp, eq_comm]
  · rcases hs with hs | ⟨_, hnone⟩
    · exact hne (congrArg CueEntry.cueId (h.one_waits x hx e he k hs))
    · exact hasPortWait_eq_false.mp hnone x hx k

theorem Edit.cueFacts {ring : AlertRing} {c c' : Channel} (e : Edit ring c c') (hl : ChannelLaw c) (h : CueFacts c) : CueFacts c' := by
  have keep (c' : Channel) (hs : c.state ≠ .cutWait) (hcues : c'.cues = c.cues) (hp : c'.pendingEntry = c.pendingEntry)
      (hs' : c'.state ≠ .cutWait) : CueFacts c' := h.of_cues hs hcues hp hs'
  cases e with
  | same k => exact k.cueFacts h
  | @mature e he hs =>
    have hne : c.pendingEntry ≠ some e.cueId := mt (h.cutWait_iff e he).mpr (by simp [hs])
    refine h.restate he (st := .pending true) rfl (by simp [CueEntry.isTimed, hs]) (fun id => ?_) h.pending_iff
      (fun k x hx hxe => ?_) (by simp)
    · simp only [reduceCtorEq, and_false, false_or]
      exact ⟨fun k => ⟨fun k' => hne (k' ▸ k), k⟩, fun k => k.2⟩
    · rcases k with k | k
      · simp at k
      · exact h.none_waits k x hx
  | @waitPort e he hs hc hw =>
    have hp : c.pendingEntry = none := h.pending_of_ne (by simp [hc])
    exact h.restate he (st := .portWait) rfl (by simp [CueEntry.isTimed, hs]) (fun id => by simp [Channel.restate, Channel.modEntry, hp])
      h.pending_iff (fun _ x hx _ => hasPortWait_eq_false.mp hw x hx) fun k => absurd (hc.symm.trans k) (by simp)
  | reserve he hs hc => exact h.enterCutWait he hs hc
  | drop he hs => exact h.dropEntry he hs
  | leave he hp hc => exact h.drop_pending hp rfl rfl (by simp [Channel.dropEntry, Channel.leaveCutWait, hc])
  | @put e old sp ho hid hold hs hsp hdur hk hov =>
    have hne : c.pendingEntry ≠ some e.cueId := fun k => hold ((h.cutWait_iff old ho).mpr (hid ▸ k))
    refine h.put ?_ hne (by simp [hs]) (by simp [hs]) (by simp [hsp, CueEntry.isTimed, hs]) (hdur ▸ h.clamped old ho)
    rw [← hid]
    exact Nat.lt_of_lt_of_le (dropEntry_length_lt ho) h.few
  | cutIn b he hp hc hb => exact h.drop_pending hp rfl rfl (by simp)
  | returnCut hc => exact keep _ hc.ne_cutWait rfl rfl (by simp [Channel.enterNetwork])
  | wait cond report hc =>
    refine keep _ ?_ rfl rfl (by simp [Channel.enterReturnWait])
    rcases hc with hc | ⟨hc, _⟩
    · exact hc.ne_cutWait
    · simp [hc]
  | lose hc =>
    refine keep _ ?_ rfl rfl (by simp [Channel.enterReturnWait])
    rcases hc with hc | hc
    · exact hc.ne_cutWait
    · simp [hc]
  | dropHeld => exact h.of_same rfl rfl Iff.rfl
  | network active hc ha => exact keep _ (by simp [hc]) rfl rfl (by simp [Channel.enterNetwork])
  | rejoinCut hc => exact keep _ (by simp [hc]) rfl rfl (by simp)
  | shift j => exact h.of_same rfl rfl Iff.rfl
  | starve hc => exact h.of_same rfl rfl Iff.rfl
  | alertCut d hc => exact keep _ (by simp [hc]) rfl rfl (by simp)
  | advance hc => exact h.of_same rfl rfl Iff.rfl
  | takeRights r hr => exact h.of_same rfl rfl Iff.rfl
  | looseCues hn => exact absurd h hn
  | looseRecords hn => exact absurd hl hn

theorem AlertEdit.cueFacts {ring : AlertRing} {c c' : Channel} (e : AlertEdit ring c c') (hl : ChannelLaw c) (h : CueFacts c) :
    CueFacts c' := by
  have keep (c' : Channel) (hs : c.state ≠ .cutWait) (hcues : c'.cues = c.cues) (hp : c'.pendingEntry = c.pendingEntry)
      (hs' : c'.state ≠ .cutWait) : CueFacts c' := h.of_cues hs hcues hp hs'
  cases e with
  | await a t ha hc =>
    rcases hc with hc | hc <;> exact keep _ (by simp [hc]) rfl rfl (by simp [Channel.enterAlertWait])
  | holdBreak a t ha hc hb => exact keep _ hc.ne_cutWait rfl rfl (by simp [Channel.enterAlertWait])
  | push a t ha hc hx hp => exact keep _ hc.ne_cutWait rfl rfl (by simp [Channel.enterAlertWait])
  | beneath a ha ho hx hp => exact h.of_same rfl rfl Iff.rfl
  | release hx hh => exact keep _ (alerted_of_active hl hx).ne_cutWait rfl rfl (by simp [Channel.enterReturnWait])
  | releaseTo t hx hh => exact keep _ (alerted_of_active hl hx).ne_cutWait rfl rfl (by simp [Channel.enterAlertWait])
  | rejoin t hx hh => exact keep _ (alerted_of_active hl hx).ne_cutWait rfl rfl (by simp)
  | expire hx hh => exact keep _ (alerted_of_active hl hx).ne_cutWait rfl rfl (by simp [Channel.enterReturnWait])
  | giveUp id => exact h.of_same rfl rfl Iff.rfl
  | loose hn => exact absurd ⟨hl, h⟩ hn

theorem Edit.lawful {ring : AlertRing} {c c' : Channel} (e : Edit ring c c') (h : c.Lawful) : c'.Lawful :=
  ⟨e.channelLaw h.records, e.cueFacts h.records h.cues⟩

theorem AlertEdit.lawful {ring : AlertRing} {c c' : Channel} (e : AlertEdit ring c c') (h : c.Lawful) : c'.Lawful :=
  ⟨e.channelLaw h.records, e.cueFacts h.records h.cues⟩

end Sys2Proof.Machine
end

section
/-!
What an edit of a channel record does to the timed entries, the cue ids, the break records, the clock's loss and the ring reader of the
channel (sections 1.4, 2.4, 4.3, 5.1, 7.1).
-/
namespace Sys2Proof.Machine

open Sys2Proof.Safety

/-! ## The timed entries in order and disjoint (R57, R67) -/

theorem intervalsOverlap_comm (a b : Time) (la lb : Nat) : intervalsOverlap a la b lb = intervalsOverlap b lb a la := by
  unfold intervalsOverlap
  exact Bool.and_comm _ _

theorem overlaps_eq_false_iff {x : CueEntry} {sp : Time} {len : Nat} :
    x.overlaps sp len = false ↔ ∀ se, x.splice = some se → intervalsOverlap sp len se (1000 * x.duration) = false := by
  unfold CueEntry.overlaps breakLength
  rw [Nat.mul_comm 1000]
  cases x.splice <;> simp

/-- Two entries whose intervals do not meet are in order, the timed one first. -/
theorem inOrder_of_not_overlaps {e x : CueEntry} {sp : Time} (he : e.splice = some sp)
    (h : x.overlaps sp (breakLength e.duration) = false) : InOrder e x ∧ (x.splice ≠ none → InOrder x e) := by
  have h := overlaps_eq_false_iff.mp h
  rw [breakLength, Nat.mul_comm] at h
  constructor
  · refine ⟨by simp [he], ?_⟩
    rw [he, Option.any_some, Option.any_eq_false]
    exact fun se hse => h se hse
  · refine fun hx => ⟨fun k => absurd k hx, ?_⟩
    rw [Option.any_eq_false]
    intro se hse
    rw [he, Option.any_some, intervalsOverlap_comm]
    exact h se hse

theorem insertTimed_inOrder {e : CueEntry} {sp : Time} (he : e.splice = some sp) {l : List CueEntry} (h : l.Pairwise InOrder)
    (hno : ∀ x ∈ l, x.overlaps sp (breakLength e.duration) = false) : (insertTimed e sp l).Pairwise InOrder := by
  induction l with
  | nil => exact List.pairwise_singleton ..
  | cons x rest ih =>
    obtain ⟨hx, hrest⟩ := List.pairwise_cons.mp h
    unfold insertTimed
    split
    next k =>
      refine List.pairwise_cons.mpr ⟨fun y hy => ?_, ih hrest fun y hy => hno y (by simp [hy])⟩
      rcases List.mem_cons.mp ((insertTimed_perm e sp rest).mem_iff.mp hy) with rfl | hy
      · exact (inOrder_of_not_overlaps he (hno x (by simp))).2 fun hn => by simp [hn] at k
      · exact hx y hy
    next => exact List.pairwise_cons.mpr ⟨fun y hy => (inOrder_of_not_overlaps he (hno y hy)).1, h⟩

/-- An entry placed in a list in order, whose interval meets none, leaves it in order (R56, R70). -/
theorem placeEntry_inOrder {e : CueEntry} {l : List CueEntry} (h : l.Pairwise InOrder)
    (hno : ∀ sp, e.splice = some sp → ∀ x ∈ l, x.overlaps sp (breakLength e.duration) = false) :
    (placeEntry e l).Pairwise InOrder := by
  unfold placeEntry
  split
  next sp hsp => exact insertTimed_inOrder hsp h (hno sp hsp)
  next hn =>
    refine List.pairwise_append.mpr ⟨h, List.pairwise_singleton .., fun x _ y hy => ?_⟩
    rw [List.mem_singleton.mp hy]
    exact ⟨fun _ => hn, by simp [hn]⟩

theorem overlapsInterval_eq_false {c : Channel} {id : Ident} {sp : Time} {len : Nat} (h : c.overlapsInterval id sp len = false) :
    ∀ x ∈ (c.dropEntry id).cues, x.overlaps sp len = false := by
  intro x hx
  obtain ⟨hx, hne⟩ := mem_dropEntry.mp hx
  have h := (Bool.or_eq_false_iff.mp h).1
  simpa [hne] using List.any_eq_false.mp h x hx

theorem restate_inOrder {c : Channel} (h : c.cues.Pairwise InOrder) (id : Ident) (st : EntryState) :
    (c.restate id st).cues.Pairwise InOrder := by
  refine List.pairwise_map.mpr (h.imp fun {e f} k => ?_)
  unfold InOrder at *
  split <;> split <;> exact k

/-- An edit of a lawful channel keeps its entries in order. -/
theorem Edit.inOrder {ring : AlertRing} {c c' : Channel} (e : Edit ring c c') (hl : c.Lawful) (h : c.cues.Pairwise InOrder) :
    c'.cues.Pairwise InOrder := by
  cases e with
  | same k => exact k.cues ▸ h
  | mature => exact restate_inOrder h _ _
  | waitPort => exact restate_inOrder h _ _
  | reserve => exact restate_inOrder h _ .cutWait
  | drop | leave | cutIn => exact h.sublist (dropEntry_sublist c _)
  | @put e old sp ho hid hold hs hsp hdur hk hov =>
    refine placeEntry_inOrder (h.sublist (dropEntry_sublist c _)) fun sp' hsp' => ?_
    obtain rfl := Option.some.inj (hsp.symm.trans hsp')
    exact overlapsInterval_eq_false hov
  | looseCues hn => exact absurd hl.cues hn
  | looseRecords hn => exact absurd hl.records hn
  | _ => exact h

theorem AlertEdit.cues_eq {ring : AlertRing} {c c' : Channel} (e : AlertEdit ring c c') (hl : c.Lawful) : c'.cues = c.cues := by
  cases e with
  | loose hn => exact absurd hl hn
  | _ => rfl

/-! ## The number of entries -/

theorem Edit.cues_length {ring : AlertRing} {c c' : Channel} (e : Edit ring c c') (hl : ChannelLaw c) :
    c'.cues.length ≤ c.cues.length := by
  cases e with
  | same k => exact k.cues ▸ Nat.le_refl _
  | mature | waitPort | reserve => exact (List.length_map _).le
  | drop | leave | cutIn => exact (dropEntry_sublist c _).length_le
  | @put e old sp ho hid =>
    rw [putEntry_length, ← hid]
    exact dropEntry_length_lt ho
  | looseCues hn cues pending st hlen hs k => exact k ▸ hlen
  | looseRecords hn => exact absurd hl hn
  | _ => exact Nat.le_refl _

/-! ## The break records -/

theorem breakless_iff {c : Channel} : c.Breakless ↔ (∀ b, c.active ≠ some (.brk b)) ∧ ∀ b, .brk b ∉ c.hold := by
  unfold Channel.Breakless records
  constructor
  · intro h
    refine ⟨fun b hb => ?_, fun b hb => ?_⟩
    · exact absurd (h (.brk b) (by simp [hb])) (by simp [Record.break?])
    · exact absurd (h (.brk b) (by simp [hb])) (by simp [Record.break?])
  · rintro ⟨ha, hh⟩ r hr
    cases r with
    | alert a => rfl
    | brk b =>
      rcases List.mem_append.mp hr with hr | hr
      · exact absurd (by simpa using hr) (ha b)
      · exact absurd hr (hh b)

/-- An edit makes no break of a channel that holds none and no CUT_WAIT entry. -/
theorem Edit.breakless {ring : AlertRing} {c c' : Channel} (e : Edit ring c c') (h : c.Breakless)
    (hp : ∀ x ∈ c.cues, c.pendingEntry ≠ some x.cueId) (hl : ChannelLaw c ∨ c.cues = []) : c'.Breakless := by
  have ⟨ha, hh⟩ := breakless_iff.mp h
  cases e with
  | same k => exact breakless_iff.mpr ⟨k.active ▸ ha, k.hold ▸ hh⟩
  | cutIn b he hp' => exact absurd hp' (hp _ he)
  | returnCut | lose => exact breakless_iff.mpr ⟨by simp [Channel.enterReturnWait], hh⟩
  | dropHeld => exact breakless_iff.mpr ⟨ha, fun b hb => hh b (List.mem_of_mem_filter hb)⟩
  | network active hc k =>
    refine breakless_iff.mpr ⟨?_, hh⟩
    rcases k with rfl | ⟨rfl, _⟩
    · simp
    · exact ha
  | shift j =>
    refine breakless_iff.mpr ⟨fun b hb => ?_, fun b hb => ?_⟩
    · obtain ⟨r, hr, k⟩ := Option.map_eq_some_iff.mp hb
      cases r with
      | brk x => exact ha x hr
      | alert x => simp [Record.shift] at k
    · obtain ⟨r, hr, k⟩ := List.mem_map.mp hb
      cases r with
      | brk x => exact hh x hr
      | alert x => simp [Record.shift] at k
  | alertCut d hc k => exact breakless_iff.mpr ⟨by simp, hh⟩
  | looseCues hn cues pending st hlen hs k =>
    subst k
    exact h
  | looseRecords hn k =>
    rcases hl with hl | hl
    · exact absurd hl hn
    · exact (k.clean ⟨h, hl⟩).1
  | _ => exact h

theorem Inserted.mem {r x : Record} {l l' : List Record} (h : Inserted r l l') : x ∈ l' ↔ x = r ∨ x ∈ l := by
  obtain ⟨before, behind, rfl, rfl, _⟩ := h
  simp only [List.mem_append, List.mem_cons]
  tauto

theorem Placed.mem {a : AlertRef} {x : Record} {l l' : List Record} (h : Placed a l l') (hx : x ∈ l') : x = .alert a ∨ x ∈ l := by
  rcases h with rfl | ⟨_, h⟩ | ⟨bottom, rest, rfl, h⟩
  · exact .inr hx
  · exact h.mem.mp hx
  · exact (h.mem.mp hx).imp_right (List.mem_cons_of_mem _)

theorem AlertEdit.breakless {ring : AlertRing} {c c' : Channel} (e : AlertEdit ring c c') (h : c.Breakless)
    (hl : c.Lawful ∨ c.cues = []) : c'.Breakless := by
  have ⟨ha, hh⟩ := breakless_iff.mp h
  have held {a : AlertRef} {hold : List Record} (hp : Placed a c.hold hold) : ∀ b, .brk b ∉ hold := by
    intro b hb
    rcases hp.mem hb with hb | hb
    · simp at hb
    · exact hh b hb
  cases e with
  | await => exact breakless_iff.mpr ⟨by simp [Channel.enterAlertWait], hh⟩
  | holdBreak a t _ hc hb => exact absurd hb (ha _)
  | push a t _ hc hx hp => exact breakless_iff.mpr ⟨by simp [Channel.enterAlertWait], held hp⟩
  | beneath a _ ho hx hp => exact breakless_iff.mpr ⟨ha, held hp⟩
  | release hx hk =>
    exact breakless_iff.mpr ⟨by simp [Channel.enterReturnWait, Channel.dropActiveAlert], fun b hb => hh b (List.mem_of_mem_dropLast hb)⟩
  | releaseTo t hx hk => exact breakless_iff.mpr ⟨by simp [Channel.enterAlertWait], fun b hb => hh b (List.mem_of_mem_dropLast hb)⟩
  | rejoin t hx hk => exact absurd (List.mem_of_getLast? hk) (hh _)
  | expire hx hk => exact absurd (List.mem_of_getLast? hk) (hh _)
  | giveUp id => exact breakless_iff.mpr ⟨ha, fun b hb => hh b (List.mem_of_mem_filter hb)⟩
  | loose hn _ k =>
    rcases hl with hl | hl
    · exact absurd hl hn
    · exact (k.clean ⟨h, hl⟩).1

/-! ## The guard law (R113) -/

theorem AlertEdit.rights {ring : AlertRing} {c c' : Channel} (e : AlertEdit ring c c') : c'.rights = c.rights := by
  cases e with
  | loose _ _ k => exact k.rights
  | _ => rfl

theorem Edit.clean {ring : AlertRing} {c c' : Channel} (e : Edit ring c c') (h : c.Clean) : c'.Clean := by
  refine ⟨e.breakless h.1 (by simp [h.2]) (.inr h.2), ?_⟩
  by_cases hl : ChannelLaw c
  · exact List.length_eq_zero_iff.mp (Nat.le_zero.mp (by simpa [h.2] using e.cues_length hl))
  · cases e with
    | same k => exact k.cues.trans h.2
    | looseRecords hn k => exact (k.clean h).2
    | looseCues hn cues pending st hlen hs k =>
      subst k
      exact List.length_eq_zero_iff.mp (Nat.le_zero.mp (by simpa [h.2] using hlen))
    | mature he | waitPort he | reserve he | drop he | leave he | put he | cutIn b he => exact absurd he (by simp [h.2])
    | _ => exact h.2

theorem AlertEdit.clean {ring : AlertRing} {c c' : Channel} (e : AlertEdit ring c c') (h : c.Clean) : c'.Clean := by
  refine ⟨e.breakless h.1 (.inr h.2), ?_⟩
  cases e with
  | loose _ _ k => exact (k.clean h).2
  | _ => exact h.2

/-- The guard law of one channel (R113). -/
def Channel.GuardOk (c : Channel) : Prop := c.rights = .guarded → c.Clean

theorem Edit.guardOk {ring : AlertRing} {c c' : Channel} (e : Edit ring c c') (h : c.GuardOk) : c'.GuardOk := by
  by_cases hr : c'.rights = c.rights
  · exact fun k => e.clean (h (hr ▸ k))
  · cases e with
    | takeRights r hc => exact fun k => hc k
    | same k => exact absurd k.rights hr
    | looseCues hn cues pending st hlen hs k => subst k; exact absurd rfl hr
    | looseRecords hn k => exact absurd k.rights hr
    | _ => exact absurd rfl hr

theorem AlertEdit.guardOk {ring : AlertRing} {c c' : Channel} (e : AlertEdit ring c c') (h : c.GuardOk) : c'.GuardOk :=
  fun k => e.clean (h (e.rights ▸ k))

/-! ## The loss law (R28, R29) -/

theorem Edit.clock {ring : AlertRing} {c c' : Channel} (e : Edit ring c c') (hl : ChannelLaw c) (h : c'.clock.state = .noClock) :
    c.clock.state = .noClock := by
  cases e with
  | same k => exact k.clock h
  | looseCues hn cues pending st hlen hs k => subst k; exact h
  | looseRecords hn => exact absurd hl hn
  | _ => exact h

theorem Edit.lossOk {ring : AlertRing} {c c' : Channel} (e : Edit ring c c') (hl : c.Lawful) (h : c.LossOk) : c'.LossOk := by
  intro hk
  have hk := e.clock hl.records hk
  obtain ⟨hb, hu⟩ := h hk
  have timed {x : CueEntry} (hx : x ∈ c.cues) (ht : x.isTimed = true) : False := by simp [hu x hx] at ht
  refine ⟨e.breakless hb (fun x hx hp => timed hx ?_) (.inl hl.records), ?_⟩
  · simp [CueEntry.isTimed, (hl.cues.cutWait_iff x hx).mpr hp]
  · cases e with
    | same k => exact k.cues ▸ hu
    | mature he hs | waitPort he hs => exact (timed he (by simp [CueEntry.isTimed, hs])).elim
    | reserve he hs => exact (timed he (by rcases hs with hs | ⟨hs, _⟩ <;> simp [CueEntry.isTimed, hs])).elim
    | drop | leave | cutIn => exact fun x hx => hu x ((dropEntry_sublist c _).subset hx)
    | put ho hid hold hs hsp hdur hlock => exact absurd (hlock.symm.trans hk) (by simp)
    | looseCues hn => exact absurd hl.cues hn
    | looseRecords hn => exact absurd hl.records hn
    | _ => exact hu

theorem AlertEdit.lossOk {ring : AlertRing} {c c' : Channel} (e : AlertEdit ring c c') (hl : c.Lawful) (h : c.LossOk) :
    c'.LossOk := by
  have hclock : c'.clock = c.clock := by
    cases e with
    | loose hn => exact absurd hl hn
    | _ => rfl
  intro hk
  obtain ⟨hb, hu⟩ := h (hclock ▸ hk)
  exact ⟨e.breakless hb (.inl hl), e.cues_eq hl ▸ hu⟩

/-! ## The reader (R12 to R14, R103) -/

/-- A reader at the newest unit start reaches the writer index with its unread cells, and stands at a unit start (R13). -/
theorem AlertRing.newReader_ok {ring : AlertRing} (h : ∀ p ∈ ring.newest, ring.cells[p].any isUnitStart = true) {c : Channel}
    (hr : c.reader = some ring.newReader) : c.ReadsOk ring := by
  intro p n hp
  rw [hr, AlertRing.newReader_eq] at hp
  cases hn : ring.newest with
  | none => simp [hn] at hp
  | some q =>
    rw [hn] at hp
    obtain ⟨rfl, rfl⟩ := Reader.positioned.inj (Option.some.inj hp)
    have hq := q.isLt
    have hw := ring.writer.isLt
    refine ⟨by omega, by omega, fun _ => ⟨by omega, h q hn⟩⟩

/-- A reader that has read a cell reaches the writer index with one fewer unread. -/
theorem Reader.advance_ok {ring : AlertRing} {c c' : Channel} {reader : Reader} {cell : StreamCell} (h : c.ReadsOk ring)
    (hr : c.reader = some reader) (hcell : ring.cellAt reader = some cell) (hr' : c'.reader = some reader.advance)
    (hs : c'.state ≠ .alertWait) : c'.ReadsOk ring := by
  intro p n hp
  rw [hr'] at hp
  cases reader with
  | awaiting => simp [Reader.advance] at hp
  | positioned q m =>
    obtain ⟨rfl, rfl⟩ := Reader.positioned.inj (Option.some.inj hp)
    have hm : m ≠ 0 := fun k => by simp [AlertRing.cellAt, k] at hcell
    obtain ⟨h1, h2, _⟩ := h q m hr
    refine ⟨by omega, ?_, fun k => absurd k hs⟩
    have hnext : (nextPos q).val = (q.val + 1) % 96 := rfl
    rw [hnext]
    omega

theorem Channel.ReadsOk.of_same {ring : AlertRing} {c c' : Channel} (h : c.ReadsOk ring) (hr : c'.reader = c.reader)
    (hs : c'.state = .alertWait → c.state = .alertWait) : c'.ReadsOk ring := by
  intro p n hp
  obtain ⟨h1, h2, h3⟩ := h p n (hr ▸ hp)
  exact ⟨h1, h2, fun k => h3 (hs k)⟩

theorem Channel.ReadsOk.of_none {ring : AlertRing} {c : Channel} (h : c.reader = none) : c.ReadsOk ring := by
  intro p n hp
  simp [h] at hp

theorem Edit.readsOk {ring : AlertRing} {c c' : Channel} (e : Edit ring c c')
    (hring : ∀ p ∈ ring.newest, ring.cells[p].any isUnitStart = true) (h : c.ReadsOk ring) : c'.ReadsOk ring := by
  cases e with
  | same k => exact h.of_same k.reader fun hs => k.state ▸ hs
  | leave he hp hc => exact h.of_same rfl fun hs => by simp [Channel.dropEntry, Channel.leaveCutWait, hc] at hs
  | reserve | cutIn | returnCut | wait | lose | network | rejoinCut =>
    exact h.of_same rfl fun hs => by simp [Channel.enterCutWait, Channel.enterNetwork, Channel.enterReturnWait] at hs
  | mature | waitPort | drop | put | dropHeld | shift | starve | takeRights => exact h.of_same rfl id
  | alertCut d hc ha hr hcell => exact Reader.advance_ok h hr hcell rfl (by simp)
  | advance hc hr hcell => exact Reader.advance_ok h hr hcell rfl (by simp [hc])
  | looseCues hn cues pending st hlen hs k =>
    subst k
    refine h.of_same rfl fun hk => ?_
    rcases hs with rfl | ⟨_, hs⟩
    · exact hk
    · rcases hs with rfl | rfl <;> simp at hk
  | looseRecords hn k =>
    rcases k.reader with hr | hr | ⟨hr, hs⟩
    · exact .of_none hr
    · exact AlertRing.newReader_ok hring hr
    · exact h.of_same hr hs

theorem AlertEdit.readsOk {ring : AlertRing} {c c' : Channel} (e : AlertEdit ring c c')
    (hring : ∀ p ∈ ring.newest, ring.cells[p].any isUnitStart = true) (h : c.ReadsOk ring) : c'.ReadsOk ring := by
  cases e with
  | await | holdBreak | push | releaseTo => exact AlertRing.newReader_ok hring rfl
  | beneath | giveUp => exact h.of_same rfl id
  | release | rejoin | expire => exact .of_none rfl
  | loose _ _ k =>
    rcases k.reader with hr | hr | ⟨hr, hs⟩
    · exact .of_none hr
    · exact AlertRing.newReader_ok hring hr
    · exact h.of_same hr hs

end Sys2Proof.Machine
end

section
/-!
What an edit of a channel record does to the cue ids the channel uses (section 5.1) and to its alert references (sections 3.3, 6.8).
-/
namespace Sys2Proof.Machine

open Sys2Proof.Safety

/-! ## The cue ids (R67) -/

/-- The cue id of a break record. -/
def Record.cueId? (r : Record) : Option Ident := r.break?.map (·.cueId)

@[simp] theorem cueIds_alert (a : AlertRef) (l : List Record) :
    (Record.alert a :: l).filterMap Record.cueId? = l.filterMap Record.cueId? := rfl

@[simp] theorem cueIds_brk (b : BreakRecord) (l : List Record) :
    (Record.brk b :: l).filterMap Record.cueId? = b.cueId :: l.filterMap Record.cueId? := rfl

theorem count_usedIds (c : Channel) (x : Ident) :
    (usedIds c).count x = (c.cues.map (·.cueId)).count x + (c.active.toList.filterMap Record.cueId?).count x +
      (c.hold.filterMap Record.cueId?).count x := by
  have h : usedIds c = c.cues.map (·.cueId) ++ (c.active.toList ++ c.hold).filterMap Record.cueId? := rfl
  rw [h, List.filterMap_append, List.count_append, List.count_append, Nat.add_assoc]

/-- No id is used more often. -/
def Channel.IdsWithin (c' c : Channel) : Prop := ∀ x, (usedIds c').count x ≤ (usedIds c).count x

theorem Channel.IdsWithin.of_parts {c c' : Channel}
    (h1 : ∀ x, (c'.cues.map (·.cueId)).count x ≤ (c.cues.map (·.cueId)).count x)
    (h2 : ∀ x, (c'.active.toList.filterMap Record.cueId?).count x + (c'.hold.filterMap Record.cueId?).count x ≤
      (c.active.toList.filterMap Record.cueId?).count x + (c.hold.filterMap Record.cueId?).count x) : c'.IdsWithin c := by
  intro x
  rw [count_usedIds, count_usedIds]
  have := h1 x
  have := h2 x
  omega

theorem count_dropEntry {c : Channel} (id x : Ident) :
    ((c.dropEntry id).cues.map (·.cueId)).count x ≤ (c.cues.map (·.cueId)).count x :=
  ((dropEntry_sublist c id).map _).count_le x

/-- Where an entry with this id stands, dropping it makes room for one. -/
theorem count_dropEntry_succ {c : Channel} {e : CueEntry} (he : e ∈ c.cues) (x : Ident) :
    ((c.dropEntry e.cueId).cues.map (·.cueId)).count x + [e.cueId].count x ≤ (c.cues.map (·.cueId)).count x := by
  by_cases hx : x = e.cueId
  · subst hx
    have hnone : e.cueId ∉ (c.dropEntry e.cueId).cues.map (·.cueId) := fun k => by
      obtain ⟨y, hy, hid⟩ := List.mem_map.mp k
      exact (mem_dropEntry.mp hy).2 hid
    rw [List.count_eq_zero.mpr hnone, Nat.zero_add]
    simpa using List.count_pos_iff.mpr (List.mem_map_of_mem (f := (·.cueId)) he)
  · have hzero : [e.cueId].count x = 0 := List.count_eq_zero.mpr (by simpa using hx)
    rw [hzero, Nat.add_zero]
    exact count_dropEntry _ _

theorem count_putEntry (c : Channel) (e : CueEntry) (x : Ident) :
    ((c.putEntry e).cues.map (·.cueId)).count x = ((c.dropEntry e.cueId).cues.map (·.cueId)).count x + [e.cueId].count x := by
  have h := ((placeEntry_perm e (c.dropEntry e.cueId).cues).map (·.cueId)).count_eq x
  rw [List.map_cons, List.count_cons] at h
  rw [List.count_singleton]
  exact h

theorem cueId?_shift (j : Time) (l : List Record) :
    (l.map (Record.shift j)).filterMap Record.cueId? = l.filterMap Record.cueId? := by
  rw [List.filterMap_map]
  refine List.filterMap_congr fun r _ => ?_
  cases r <;> rfl

theorem Inserted.cueIds {a : AlertRef} {l l' : List Record} (h : Inserted (.alert a) l l') :
    l'.filterMap Record.cueId? = l.filterMap Record.cueId? := by
  obtain ⟨before, behind, rfl, rfl, _⟩ := h
  rw [List.filterMap_append, List.filterMap_append, cueIds_alert]

theorem Placed.cueIds {a : AlertRef} {l l' : List Record} (h : Placed a l l') (x : Ident) :
    (l'.filterMap Record.cueId?).count x ≤ (l.filterMap Record.cueId?).count x := by
  rcases h with rfl | ⟨_, h⟩ | ⟨bottom, rest, rfl, h⟩
  · exact Nat.le_refl _
  · rw [h.cueIds]
  · rw [h.cueIds]
    exact ((List.sublist_cons_self bottom rest).filterMap _).count_le x

theorem Edit.idsWithin {ring : AlertRing} {c c' : Channel} (e : Edit ring c c') (hl : c.Lawful) : c'.IdsWithin c := by
  cases e with
  | same k =>
    refine .of_parts (fun x => ?_) fun x => ?_
    · rw [k.cues]
    · rw [k.active, k.hold]
  | @mature e he => exact .of_parts (fun x => (restate_ids c e.cueId (.pending true)) ▸ Nat.le_refl _) fun x => Nat.le_refl _
  | @waitPort e he => exact .of_parts (fun x => (restate_ids c e.cueId .portWait) ▸ Nat.le_refl _) fun x => Nat.le_refl _
  | @reserve e he =>
    refine .of_parts (fun x => ?_) fun x => Nat.le_refl _
    have h : (c.enterCutWait e.cueId).cues = (c.restate e.cueId .cutWait).cues := rfl
    rw [h, restate_ids]
  | drop | leave => exact .of_parts (count_dropEntry _) fun x => Nat.le_refl _
  | @put e old sp ho hid =>
    refine .of_parts (fun x => ?_) fun x => Nat.le_refl _
    rw [count_putEntry, ← hid]
    exact count_dropEntry_succ ho x
  | @cutIn e b he hp hc hb =>
    intro x
    have h := count_dropEntry_succ he x
    have hactive : ([Record.brk b].filterMap Record.cueId?) = [e.cueId] := by simp [hb]
    have ha : c.active = none := ((channelLaw_idle (.inr hc)).mp hl.records).1
    rw [count_usedIds, count_usedIds, ha]
    simp only [Option.toList_some, hactive, Option.toList_none, List.filterMap_nil, List.count_nil]
    exact Nat.add_le_add_right h _
  | returnCut | lose => exact .of_parts (fun x => Nat.le_refl _) fun x => by simp [Channel.enterNetwork, Channel.enterReturnWait]
  | network active hc ha =>
    refine .of_parts (fun x => Nat.le_refl _) fun x => ?_
    rcases ha with rfl | ⟨rfl, _⟩
    · simp [Channel.enterNetwork]
    · exact Nat.le_refl _
  | dropHeld =>
    exact .of_parts (fun x => Nat.le_refl _) fun x => Nat.add_le_add_left ((List.filter_sublist.filterMap _).count_le x) _
  | shift j =>
    refine .of_parts (fun x => Nat.le_refl _) fun x => ?_
    have h : (c.shiftReturnPoints j).active.toList = c.active.toList.map (Record.shift j) := by
      cases hc : c.active <;> simp [Channel.shiftReturnPoints, hc]
    rw [h, cueId?_shift]
    exact Nat.add_le_add_left (Nat.le_of_eq (congrArg _ (cueId?_shift j c.hold))) _
  | alertCut d hc ha =>
    refine .of_parts (fun x => Nat.le_refl _) fun x => ?_
    simp
  | looseCues hn => exact absurd hl.cues hn
  | looseRecords hn => exact absurd hl.records hn
  | wait | rejoinCut | starve | advance | takeRights => exact fun x => Nat.le_refl _

theorem dropLast_cueIds (l : List Record) (x : Ident) :
    (l.dropLast.filterMap Record.cueId?).count x ≤ (l.filterMap Record.cueId?).count x :=
  ((List.dropLast_sublist l).filterMap _).count_le x

theorem AlertEdit.idsWithin {ring : AlertRing} {c c' : Channel} (e : AlertEdit ring c c') (hl : c.Lawful) : c'.IdsWithin c := by
  have noActive (a : AlertRef) : ((some (Record.alert a)).toList.filterMap Record.cueId?) = [] := rfl
  cases e with
  | await a t ha hc =>
    exact .of_parts (fun x => Nat.le_refl _) fun x => by simp [Channel.enterAlertWait]
  | holdBreak a t ha hc hb =>
    refine .of_parts (fun x => Nat.le_refl _) fun x => ?_
    simp [Channel.enterAlertWait, hb]
  | push a t ha hc hx hp =>
    refine .of_parts (fun x => Nat.le_refl _) fun x => ?_
    rw [hx, noActive]
    exact Nat.add_le_add_left (hp.cueIds x) _
  | beneath a ha ho hx hp => exact .of_parts (fun x => Nat.le_refl _) fun x => Nat.add_le_add_left (hp.cueIds x) _
  | release hx hh =>
    refine .of_parts (fun x => Nat.le_refl _) fun x => ?_
    simp [Channel.enterReturnWait, Channel.dropActiveAlert, hh]
  | releaseTo t hx hh =>
    refine .of_parts (fun x => Nat.le_refl _) fun x => ?_
    rw [hx, noActive]
    exact Nat.add_le_add_left (dropLast_cueIds _ x) _
  | rejoin t hx hh =>
    obtain ⟨_, hheld, _⟩ := (channelLaw_alerted (alerted_of_active hl.records hx)).mp hl.records
    refine .of_parts (fun x => Nat.le_refl _) fun x => ?_
    simp [Channel.dropActiveAlert, hx, hheld.eq_singleton hh]
  | expire hx hh =>
    refine .of_parts (fun x => Nat.le_refl _) fun x => ?_
    rw [hx, noActive]
    exact Nat.add_le_add_left (dropLast_cueIds _ x) _
  | giveUp id =>
    exact .of_parts (fun x => Nat.le_refl _) fun x => Nat.add_le_add_left ((List.filter_sublist.filterMap _).count_le x) _
  | loose hn => exact absurd hl hn

end Sys2Proof.Machine
end

section
/-!
Every operation of a slot event and of a cue command is a chain of edits of each channel record (chapters 2, 5, 6, 8): said once per
operation, for the channel it works on and for those that the port arbiter touches (R10).
-/
namespace Sys2Proof.Machine

open Sys2Proof.Safety

/-! ## Chains of edits -/

/-- A channel record comes to another by edits. -/
def Edits (ring : AlertRing) : Channel → Channel → Prop := Relation.ReflTransGen (Edit ring)

/-- The ring and the alert table stand, and every channel record comes to its next by edits. -/
structure State.Edited (s u : State) : Prop where
  ring : u.ring = s.ring
  alerts : u.alerts = s.alerts
  chan : ∀ j, Edits s.ring (s.chan j) (u.chan j)

namespace State.Edited

variable {s u v : State}

theorem refl (s : State) : s.Edited s := ⟨rfl, rfl, fun _ => .refl⟩

theorem trans (h : s.Edited u) (k : u.Edited v) : s.Edited v :=
  ⟨k.ring.trans h.ring, k.alerts.trans h.alerts, fun j => (h.chan j).trans (h.ring ▸ k.chan j)⟩

theorem of_chan (hr : u.ring = s.ring) (ha : u.alerts = s.alerts) (h : ∀ j, u.chan j = s.chan j) : s.Edited u :=
  ⟨hr, ha, fun j => h j ▸ .refl⟩

/-- One channel takes another record, by edits. -/
theorem of_one (hr : u.ring = s.ring) (ha : u.alerts = s.alerts) (i : Slot) (h : Edits s.ring (s.chan i) (u.chan i))
    (hne : ∀ j, j ≠ i → Edits s.ring (s.chan j) (u.chan j)) : s.Edited u := by
  refine ⟨hr, ha, fun j => ?_⟩
  by_cases hj : j = i
  · exact hj ▸ h
  · exact hne j hj

theorem modChan {i : Slot} {f : Channel → Channel} (h : Edits s.ring (s.chan i) (f (s.chan i))) : s.Edited (s.modChan i f) :=
  of_one rfl rfl i (by rw [State.modChan_chan_same]; exact h) fun j hj => by rw [State.modChan_chan_ne _ _ hj]; exact .refl

theorem modChan_edit {i : Slot} {f : Channel → Channel} (h : Edit s.ring (s.chan i) (f (s.chan i))) : s.Edited (s.modChan i f) :=
  modChan (.single h)

theorem modPort (s : State) (p : PortId) (f : InsertPort → InsertPort) : s.Edited (s.modPort p f) := of_chan rfl rfl fun _ => rfl

theorem offer (s : State) (r : Report) : s.Edited (s.offer r) :=
  have hb := (s.offer_lineOnly r).sameBlocks
  of_chan hb.ring hb.alerts hb.chan

theorem raiseCut (s : State) (i : Slot) (k : CutKind) (r : CutReason) (id : Ident) (x : Time) (l : Byte) :
    s.Edited (s.raiseCut i k r id x l) := offer s _

theorem raiseBreak (s : State) (i : Slot) (k : CutKind) (r : CutReason) (b : BreakRecord) : s.Edited (s.raiseBreak i k r b) :=
  offer s _

theorem send (s : State) (i : Slot) (c : StreamCell) : s.Edited (s.send i c) :=
  have h : s.Edited (s.modChan i Channel.afterSend) := modChan_edit (.same ⟨rfl, rfl, rfl, rfl, rfl, rfl, rfl, rfl, rfl, rfl, id⟩)
  ⟨rfl, rfl, h.chan⟩

theorem sendFill (s : State) (i : Slot) : s.Edited (s.sendFill i) :=
  (modChan_edit (s := s) (i := i) (f := fun c => { c with fillCount := countUp c.fillCount })
    (.same ⟨rfl, rfl, rfl, rfl, rfl, rfl, rfl, rfl, rfl, rfl, id⟩)).trans (send _ _ _)

/-- A fold of operations that are chains of edits is one. -/
theorem foldl {α : Type} {f : State → α → State} (hf : ∀ (s : State) a, s.Edited (f s a)) (l : List α) (s : State) :
    s.Edited (l.foldl f s) := by
  induction l generalizing s with
  | nil => exact refl s
  | cons a l ih => exact (hf s a).trans (ih _)

end State.Edited

/-! ## The port arbiter (R10) -/

theorem candidate_spec {c : Channel} {p : PortId} {e : CueEntry} (h : c.candidate p = some e) :
    c.state = .network ∧ e ∈ c.cues ∧ e.state = .portWait ∧ e.port = p := by
  unfold Channel.candidate at h
  split at h
  next hs =>
    have hw := List.find?_some h
    simp only [CueEntry.waitsFor, Bool.and_eq_true, beq_iff_eq] at hw
    exact ⟨hs, List.mem_of_find?_eq_some h, hw.1, hw.2⟩
  next => simp at h

theorem arbiterWinner_spec {s : State} {p : PortId} {i : Slot} {e : CueEntry} (h : s.arbiterWinner p = some (i, e)) :
    (s.chan i).candidate p = some e := by
  obtain ⟨j, _, hj⟩ := List.exists_of_findSome?_eq_some h
  obtain ⟨x, hx, hk⟩ := Option.map_eq_some_iff.mp hj
  obtain ⟨rfl, rfl⟩ := Prod.mk.inj hk
  exact hx

/-- What a release leaves of a channel record: it stands, or its waiting entry has won the port (R10). -/
theorem State.releasePort_chan (s : State) (i : Slot) (p : PortId) (j : Slot) :
    (s.releasePort i p).chan j = s.chan j ∨
      ∃ e, (s.chan j).candidate p = some e ∧ (s.releasePort i p).chan j = (s.chan j).enterCutWait e.cueId := by
  unfold State.releasePort
  split
  · unfold State.arbitrate
    split
    next k e hw =>
      have hw := arbiterWinner_spec hw
      by_cases hj : j = k
      · subst hj
        exact .inr ⟨e, hw, State.modChan_chan_same ..⟩
      · exact .inl (State.modChan_chan_ne _ _ hj)
    · exact .inl rfl
  · exact .inl rfl

theorem State.releasePort_ring (s : State) (i : Slot) (p : PortId) : (s.releasePort i p).ring = s.ring := by
  rw [(s.releasePort_moves i p).frame]

theorem State.releasePort_alerts (s : State) (i : Slot) (p : PortId) : (s.releasePort i p).alerts = s.alerts := by
  unfold State.releasePort State.arbitrate
  split
  · split <;> rfl
  · rfl

/-- A release leaves a channel that is not in NETWORK. -/
theorem State.releasePort_chan_of_ne {s : State} {j : Slot} (h : (s.chan j).state ≠ .network) (i : Slot) (p : PortId) :
    (s.releasePort i p).chan j = s.chan j := by
  rcases s.releasePort_chan i p j with k | ⟨e, he, _⟩
  · exact k
  · exact absurd (candidate_spec he).1 h

/-- A release leaves a channel without an entry in PORT_WAIT. -/
theorem State.releasePort_chan_of_none {s : State} {j : Slot} (h : ∀ e ∈ (s.chan j).cues, e.state ≠ .portWait) (i : Slot)
    (p : PortId) : (s.releasePort i p).chan j = s.chan j := by
  rcases s.releasePort_chan i p j with k | ⟨e, he, _⟩
  · exact k
  · obtain ⟨_, hm, hs, _⟩ := candidate_spec he
    exact absurd hs (h e hm)

theorem State.releasePort_edits (s : State) (i : Slot) (p : PortId) (j : Slot) :
    Edits s.ring (s.chan j) ((s.releasePort i p).chan j) := by
  rcases s.releasePort_chan i p j with k | ⟨e, he, k⟩
  · exact k ▸ .refl
  · obtain ⟨hs, hm, hw, _⟩ := candidate_spec he
    exact k ▸ .single (.reserve hm (.inl hw) hs)

theorem State.releasePort_edited (s : State) (i : Slot) (p : PortId) : s.Edited (s.releasePort i p) :=
  ⟨s.releasePort_ring i p, s.releasePort_alerts i p, s.releasePort_edits i p⟩

theorem State.drainTruncating_edited (s : State) (i : Slot) (p : PortId) : s.Edited (s.drainTruncating i p) :=
  (State.Edited.modPort s p _).trans
    (.modChan_edit (.same ⟨rfl, rfl, rfl, rfl, rfl, rfl, rfl, rfl, rfl, rfl, id⟩))

/-! ## Entries that leave the list (R76) -/

/-- A change of one channel around a release by it: what the channel becomes is judged as one edit where the release cannot grant the
port to it. -/
theorem State.edited_around_release {s : State} {i : Slot} {p : PortId} {f g : Channel → Channel}
    (hf : (f (s.chan i)).state ≠ .network ∨ ∀ e ∈ (f (s.chan i)).cues, e.state ≠ .portWait)
    (h : Edits s.ring (s.chan i) (g (f (s.chan i)))) : s.Edited (((s.modChan i f).releasePort i p).modChan i g) := by
  have hchan : ((s.modChan i f).releasePort i p).chan i = f (s.chan i) := by
    rcases hf with hf | hf
    · rw [State.releasePort_chan_of_ne (by rw [State.modChan_chan_same]; exact hf), State.modChan_chan_same]
    · rw [State.releasePort_chan_of_none (by rw [State.modChan_chan_same]; exact hf), State.modChan_chan_same]
  refine .of_one (State.releasePort_ring ..) (State.releasePort_alerts ..) i ?_ fun j hj => ?_
  · rw [State.modChan_chan_same, hchan]
    exact h
  · rw [State.modChan_chan_ne _ _ hj]
    have := (s.modChan i f).releasePort_edits i p j
    rwa [State.modChan_chan_ne _ _ hj] at this

theorem modEntry_length (c : Channel) (id : Ident) (f : CueEntry → CueEntry) : (c.modEntry id f).cues.length = c.cues.length :=
  List.length_map _

theorem State.leaveEntry_edited (s : State) (i : Slot) {e : CueEntry} (he : e ∈ (s.chan i).cues) (k : CutKind) (r : CutReason) :
    s.Edited (s.leaveEntry i e k r) := by
  unfold State.leaveEntry
  refine State.Edited.trans ?_ (.raiseCut _ _ _ _ _ _ _)
  by_cases hs : e.state = .cutWait
  · rw [if_pos hs]
    by_cases hl : CueFacts (s.chan i)
    · have hp := (hl.cutWait_iff e he).mp hs
      have hc := hl.pending_iff.mp (by simp [hp])
      exact State.edited_around_release (.inr (hl.none_waits hc)) (.single (.leave he hp hc))
    · refine .of_one (State.releasePort_ring ..) (State.releasePort_alerts ..) i (.single ?_) fun j hj => ?_
      · rw [State.modChan_chan_same]
        have hst : (s.chan i).leaveCutWait.state = (s.chan i).state ∨
            ((s.chan i).state.Idle ∧ (s.chan i).leaveCutWait.state.Idle) := by
          unfold Channel.leaveCutWait
          split
          next hc => exact .inr ⟨.inr hc, .inl rfl⟩
          next => exact .inl rfl
        rcases (s.modChan i Channel.leaveCutWait).releasePort_chan i e.port i with k | ⟨x, hx, k⟩ <;>
          rw [k, State.modChan_chan_same]
        · exact .looseCues hl _ none _ (dropEntry_sublist _ _).length_le hst rfl
        · rw [State.modChan_chan_same] at hx
          have hnet := (candidate_spec hx).1
          have hidle : (s.chan i).state.Idle := by
            rcases hst with hst | ⟨hst, _⟩
            · exact .inl (hst ▸ hnet)
            · exact hst
          exact .looseCues hl _ (some x.cueId) .cutWait
            ((dropEntry_sublist _ _).length_le.trans (modEntry_length _ _ _).le) (.inr ⟨hidle, .inr rfl⟩) rfl
      · rw [State.modChan_chan_ne _ _ hj]
        have := (s.modChan i Channel.leaveCutWait).releasePort_edits i e.port j
        rwa [State.modChan_chan_ne _ _ hj] at this
  · rw [if_neg hs]
    exact .modChan_edit (.drop he hs)

theorem State.withdrawEntry_edited (s : State) (i : Slot) {e : CueEntry} (he : e ∈ (s.chan i).cues) (r : CutReason) :
    s.Edited (s.withdrawEntry i r e) := s.leaveEntry_edited i he _ r

theorem State.missEntry_edited (s : State) (i : Slot) {e : CueEntry} (he : e ∈ (s.chan i).cues) (r : CutReason) :
    s.Edited (s.missEntry i r e) :=
  (s.leaveEntry_edited i he _ r).trans
    (.modChan_edit (.same ⟨rfl, rfl, rfl, rfl, rfl, rfl, rfl, rfl, rfl, rfl, id⟩))

theorem State.withdrawById_edited (s : State) (i : Slot) (r : CutReason) (id : Ident) : s.Edited (s.withdrawById i r id) := by
  unfold State.withdrawById
  split
  next e he => exact s.withdrawEntry_edited i (entry_eq_some he).1 r
  next => exact .refl s

theorem State.withdrawEntries_edited (s : State) (i : Slot) (which : CueEntry → Bool) (r : CutReason) :
    s.Edited (s.withdrawEntries i which r) := .foldl (fun s id => s.withdrawById_edited i r id) _ s

end Sys2Proof.Machine
end

section
/-!
The operations of the clocks, the breaks and the cue commands as chains of edits (chapters 2, 5, 8).
-/
namespace Sys2Proof.Machine

open Sys2Proof.Safety

/-! ## Changes of a record that is not lawful -/

namespace Channel.Loosely

variable {ring : AlertRing} {c d e : Channel}

theorem trans (h : c.Loosely ring d) (k : d.Loosely ring e) : c.Loosely ring e := by
  refine ⟨k.rights.trans h.rights, fun hc => k.clean (h.clean hc), ?_⟩
  rcases k.reader with hk | hk | ⟨hk, hs⟩
  · exact .inl hk
  · exact .inr (.inl hk)
  · rcases h.reader with hh | hh | ⟨hh, ht⟩
    · exact .inl (hk.trans hh)
    · exact .inr (.inl (hk.trans hh))
    · exact .inr (.inr ⟨hk.trans hh, fun x => ht (hs x)⟩)

theorem refl (ring : AlertRing) (c : Channel) : c.Loosely ring c := ⟨rfl, id, .inr (.inr ⟨rfl, id⟩)⟩

theorem enterCutWait (ring : AlertRing) (c : Channel) (id : Ident) : c.Loosely ring (c.enterCutWait id) :=
  ⟨rfl, fun h => ⟨h.1, by simp [Channel.enterCutWait, Channel.modEntry, h.2]⟩, .inr (.inr ⟨rfl, fun k => by simp [Channel.enterCutWait] at k⟩)⟩

theorem enterReturnWait (ring : AlertRing) (c : Channel) (k : ReturnCondition) (r : Option ReturnReport) :
    c.Loosely ring (c.enterReturnWait k r) :=
  ⟨rfl, id, .inr (.inr ⟨rfl, fun k => by simp [Channel.enterReturnWait] at k⟩)⟩

theorem dropBreak (ring : AlertRing) (c : Channel) : c.Loosely ring c.dropBreak := by
  have hsub : ∀ r ∈ Safety.records c.dropBreak, r ∈ Safety.records c := by
    unfold Channel.dropBreak Safety.records
    split
    · exact fun r hr => by simp at hr ⊢; exact .inr hr
    · intro r hr
      rcases List.mem_append.mp hr with hr | hr
      · exact List.mem_append.mpr (.inl hr)
      · exact List.mem_append.mpr (.inr (List.mem_of_mem_filter hr))
  have hother : c.dropBreak.rights = c.rights ∧ c.dropBreak.cues = c.cues ∧ c.dropBreak.reader = c.reader ∧ c.dropBreak.state = c.state := by
    unfold Channel.dropBreak
    split <;> exact ⟨rfl, rfl, rfl, rfl⟩
  obtain ⟨h1, h2, h3, h4⟩ := hother
  exact ⟨h1, fun h => ⟨fun r hr => h.1 r (hsub r hr), h2.trans h.2⟩, .inr (.inr ⟨h3, fun k => h4 ▸ k⟩)⟩

theorem afterLoss (ring : AlertRing) (c : Channel) : c.Loosely ring c.afterLoss := by
  unfold Channel.afterLoss
  split <;> first | exact enterReturnWait ring c _ _ | exact refl ring c

theorem releasePort (ring : AlertRing) (s : State) (i j : Slot) (p : PortId) :
    (s.chan j).Loosely ring ((s.releasePort i p).chan j) := by
  rcases s.releasePort_chan i p j with k | ⟨e, _, k⟩ <;> rw [k]
  · exact refl ring _
  · exact enterCutWait ring _ _

end Channel.Loosely

/-! ## The break record of a channel -/

theorem activeBreak_eq_some {c : Channel} {b : BreakRecord} : c.activeBreak = some b ↔ c.active = some (.brk b) := by
  unfold Channel.activeBreak
  rcases c.active with _ | _ | _ <;> simp [Record.break?]

theorem activeBreak_of_not_brk {c : Channel} (h : ∀ b, c.active ≠ some (.brk b)) : c.activeBreak = none := by
  cases k : c.activeBreak with
  | none => rfl
  | some b => exact absurd (activeBreak_eq_some.mp k) (h b)

theorem breakRecord_of_active {c : Channel} {b : BreakRecord} (h : c.activeBreak = some b) : c.breakRecord = some b := by
  unfold Channel.breakRecord
  rw [show c.active.bind Record.break? = some b from h]

theorem breakRecord_of_held {c : Channel} (h : c.activeBreak = none) : c.breakRecord = c.heldBreak := by
  unfold Channel.breakRecord
  rw [show c.active.bind Record.break? = none from h]
  rfl

theorem heldBreak_nil {c : Channel} (h : c.hold = []) : c.heldBreak = none := by
  unfold Channel.heldBreak
  rw [h]
  rfl

theorem dropBreak_of_active {c : Channel} {b : BreakRecord} (h : c.activeBreak = some b) : c.dropBreak = { c with active := none } := by
  unfold Channel.dropBreak
  rw [h]

theorem dropBreak_of_held {c : Channel} (h : c.activeBreak = none) : c.dropBreak = c.dropHeldBreak := by
  unfold Channel.dropBreak
  rw [h]

@[simp] theorem Channel.dropBreak_state (c : Channel) : c.dropBreak.state = c.state := by
  unfold Channel.dropBreak
  split <;> rfl

theorem afterLoss_of_return {c : Channel} (h : c.state.OnAir ∨ c.state = .returnWait) :
    c.afterLoss = c.enterReturnWait .any none := by
  unfold Channel.afterLoss
  rcases h with (h | h) | h <;> rw [h]

theorem afterLoss_of_stay {c : Channel} (h : c.state.Idle ∨ c.state.Alerted) : c.afterLoss = c := by
  unfold Channel.afterLoss
  rcases h with (h | h) | (h | h) <;> rw [h]

theorem breakless_of_breakRecord {c : Channel} (h : c.breakRecord = none) : c.Breakless := by
  have ha : c.activeBreak = none := by
    cases hb : c.activeBreak with
    | none => rfl
    | some b => simp [breakRecord_of_active hb] at h
  refine breakless_iff.mpr ⟨fun b hb => by simp [activeBreak_eq_some.mpr hb] at ha, fun b hb => ?_⟩
  rw [breakRecord_of_held ha, Channel.heldBreak, List.head?_eq_none_iff, List.filterMap_eq_nil_iff] at h
  exact absurd (h _ hb) (by simp [Record.break?])

theorem breakRecord_of_breakless {c : Channel} (h : c.Breakless) : c.breakRecord = none := by
  obtain ⟨ha, hh⟩ := breakless_iff.mp h
  rw [breakRecord_of_held (activeBreak_of_not_brk ha), Channel.heldBreak, List.head?_eq_none_iff, List.filterMap_eq_nil_iff]
  intro r hr
  cases r with
  | alert a => rfl
  | brk b => exact absurd hr (hh b)

theorem dropHeldBreak_of_none {c : Channel} (h : ∀ b, .brk b ∉ c.hold) : c.dropHeldBreak = c := by
  have hf : (c.hold.filter fun r => r.break?.isNone) = c.hold := by
    refine List.filter_eq_self.mpr fun r hr => ?_
    cases r with
    | alert a => rfl
    | brk b => exact absurd hr (h b)
  rw [Channel.dropHeldBreak, hf]

theorem dropBreak_of_breakless {c : Channel} (h : c.Breakless) : c.dropBreak = c := by
  obtain ⟨ha, hh⟩ := breakless_iff.mp h
  rw [dropBreak_of_held (activeBreak_of_not_brk ha), dropHeldBreak_of_none hh]

theorem breakless_of_idle {c : Channel} (h : ChannelLaw c) (hs : c.state.Idle) : c.Breakless := by
  obtain ⟨ha, hh, _⟩ := (channelLaw_idle hs).mp h
  exact breakless_iff.mpr ⟨by simp [ha], by simp [hh]⟩

/-! ## Loss of the clock (R27 to R30) -/

theorem State.loseBreak_of_some {s : State} {i : Slot} {b : BreakRecord} (hb : (s.chan i).breakRecord = some b) :
    s.loseBreak i = (((s.raiseBreak i .cutOut .clockLost b).modChan i Channel.dropBreak).releasePort i b.port).modChan i
      Channel.afterLoss := by
  unfold State.loseBreak
  rw [hb]
  rfl

theorem State.loseBreak_of_none {s : State} {i : Slot} (hb : (s.chan i).breakRecord = none) :
    s.loseBreak i = s.modChan i Channel.afterLoss := by
  unfold State.loseBreak
  rw [hb]

/-- The end of the break of a lawful channel by the loss of its clock is one edit, or none (R29). -/
theorem Edits.loseBreak (ring : AlertRing) {c : Channel} (hl : ChannelLaw c) : Edits ring c c.dropBreak.afterLoss := by
  rcases c.state.cases with hs | hs | hs | hs
  · rw [dropBreak_of_breakless (breakless_of_idle hl hs), afterLoss_of_stay (.inl hs)]
    exact .refl
  · obtain ⟨⟨b, hb⟩, _⟩ := (channelLaw_onBreak hs).mp hl
    rw [afterLoss_of_return (.inl (by rw [Channel.dropBreak_state]; exact hs)), dropBreak_of_active (activeBreak_eq_some.mpr hb)]
    exact .single (.lose (.inl hs))
  · rw [afterLoss_of_return (.inr (by rw [Channel.dropBreak_state]; exact hs))]
    obtain ⟨ha, hh, _⟩ := (channelLaw_returnWait hs).mp hl
    rcases ha with ha | ⟨b, hb⟩
    · rw [dropBreak_of_breakless (breakless_iff.mpr ⟨by simp [ha], by simp [hh]⟩)]
      exact .single (.wait _ _ (.inr ⟨hs, rfl, by simp⟩))
    · rw [dropBreak_of_active (activeBreak_eq_some.mpr hb)]
      exact .single (.lose (.inr hs))
  · obtain ⟨⟨a, ha, _⟩, _⟩ := (channelLaw_alerted hs).mp hl
    rw [afterLoss_of_stay (.inr (by rw [Channel.dropBreak_state]; exact hs)), dropBreak_of_held (activeBreak_of_not_brk (by simp [ha]))]
    exact .single .dropHeld

/-- What the loss of its clock leaves of a lawful channel without timed entries (R29). -/
theorem State.loseBreak_chan {s : State} {i : Slot} (hl : ChannelLaw (s.chan i)) :
    (s.loseBreak i).chan i = (s.chan i).dropBreak.afterLoss := by
  cases hb : (s.chan i).breakRecord with
  | none =>
    rw [State.loseBreak_of_none hb, State.modChan_chan_same, dropBreak_of_breakless (breakless_of_breakRecord hb)]
  | some b =>
    have hne : (s.chan i).state ≠ .network := fun k => by
      simp [breakRecord_of_breakless (breakless_of_idle hl (.inl k))] at hb
    rw [State.loseBreak_of_some hb, State.modChan_chan_same, State.releasePort_chan_of_ne, State.modChan_chan_same,
      State.raiseBreak_chan]
    rw [State.modChan_chan_same, State.raiseBreak_chan, Channel.dropBreak_state]
    exact hne

theorem State.loseBreak_loosely (ring : AlertRing) (s : State) (i : Slot) : (s.chan i).Loosely ring ((s.loseBreak i).chan i) := by
  cases hb : (s.chan i).breakRecord with
  | none =>
    rw [State.loseBreak_of_none hb, State.modChan_chan_same]
    exact .afterLoss ring _
  | some b =>
    rw [State.loseBreak_of_some hb, State.modChan_chan_same]
    refine Channel.Loosely.trans ?_ (.afterLoss ring _)
    refine Channel.Loosely.trans ?_ (.releasePort ring _ i i b.port)
    rw [State.modChan_chan_same, State.raiseBreak_chan]
    exact .dropBreak ring _

theorem State.loseBreak_edited (s : State) (i : Slot) : s.Edited (s.loseBreak i) := by
  refine .of_one ?_ ?_ i ?_ fun j hj => ?_
  · rw [(s.loseBreak_moves i).frame]
  · cases hb : (s.chan i).breakRecord with
    | none => rw [State.loseBreak_of_none hb]; rfl
    | some b => rw [State.loseBreak_of_some hb]; exact (State.releasePort_alerts ..).trans (State.Edited.raiseBreak s i _ _ b).alerts
  · by_cases hl : ChannelLaw (s.chan i)
    · rw [State.loseBreak_chan hl]
      exact .loseBreak _ hl
    · exact .single (.looseRecords hl (s.loseBreak_loosely s.ring i))
  · cases hb : (s.chan i).breakRecord with
    | none =>
      rw [State.loseBreak_of_none hb, State.modChan_chan_ne _ _ hj]
      exact .refl
    | some b =>
      rw [State.loseBreak_of_some hb, State.modChan_chan_ne _ _ hj]
      have h := ((s.raiseBreak i .cutOut .clockLost b).modChan i Channel.dropBreak).releasePort_edits i b.port j
      rw [State.modChan_chan_ne _ _ hj, State.raiseBreak_chan] at h
      exact (State.Edited.raiseBreak s i .cutOut .clockLost b).ring ▸ h

/-- The clock of channel i is lost (R27). -/
def State.dropClock (s : State) (i : Slot) : State :=
  s.modChan i fun c => { c with clock := { c.clock with state := .noClock } }

theorem State.loseClock_edited (s : State) (i : Slot) : (s.dropClock i).Edited (s.loseClock i) :=
  (State.withdrawEntries_edited _ i _ _).trans (State.loseBreak_edited _ i)

/-! ## Stamp arrival and the stale held break (R22 to R26, R63) -/

theorem State.jump_edited (s : State) (i : Slot) (x t : Time) : s.Edited (s.jump i x t) :=
  (s.withdrawEntries_edited i _ _).trans (.modChan_edit (.shift _))

theorem State.Edited.takeStamp (s : State) (i : Slot) {k : ClockState} (hk : k ≠ .noClock) (x t : Time) :
    s.Edited (s.modChan i fun c => c.takeStamp k x t) :=
  .modChan_edit (.same ⟨rfl, rfl, rfl, rfl, rfl, rfl, rfl, rfl, rfl, rfl, fun h => absurd h hk⟩)

theorem State.stampArrival_edited (s : State) (i : Slot) (x t : Time) (disc : Bool) : s.Edited (s.stampArrival i x t disc) := by
  simp only [State.stampArrival]
  split
  · exact .takeStamp s i (by simp) x t
  · exact .takeStamp s i (by split <;> simp) x t
  · split
    · exact .takeStamp s i (by simp) x t
    · exact (s.jump_edited i x t).trans (.takeStamp _ i (by simp) x t)

theorem State.removeHeldBreak_edited (s : State) (i : Slot) (b : BreakRecord) : s.Edited (s.removeHeldBreak i b) :=
  (State.Edited.modChan_edit .dropHeld).trans (State.releasePort_edited _ i _)

theorem State.judgeStale_edited (s : State) (i : Slot) (t : Time) : s.Edited (s.judgeStale i t) := by
  simp only [State.judgeStale]
  split
  · split
    · exact (State.Edited.raiseBreak s i _ _ _).trans (State.removeHeldBreak_edited _ i _)
    · exact .refl s
  · exact .refl s

/-- What of the clock's step follows the judgement of silence. -/
theorem State.clockStep_edited (s : State) (i : Slot) (t : Time) (cell : StreamCell) :
    (s.judgeSilence i t).Edited (s.clockStep i t cell) := by
  simp only [State.clockStep]
  refine State.Edited.trans ?_ (State.judgeStale_edited _ i t)
  split
  · exact State.stampArrival_edited _ i _ t _
  · exact .refl _

/-! ## The channel's limits and its cue entries (R73 to R75, R89, R102) -/

theorem State.rejoinLimitEnd_edited (s : State) (i : Slot) (b : BreakRecord) (hs : (s.chan i).state = .rejoinWait) :
    s.Edited (s.rejoinLimitEnd i b) := by
  refine ((State.Edited.raiseBreak s i _ _ b).trans (.modPort _ _ _)).trans (.modChan_edit (.wait _ _ (.inl (.inr ?_))))
  exact (congrArg Channel.state (State.raiseBreak_chan ..)).trans hs

theorem State.judgeRejoinLimit_edited (s : State) (i : Slot) (t : Time) : s.Edited (s.judgeRejoinLimit i t) := by
  simp only [State.judgeRejoinLimit]
  split
  · split
    next h => exact s.rejoinLimitEnd_edited i _ h.1
    next => exact .refl s
  · exact .refl s

theorem State.judgeStarvation_edited (s : State) (i : Slot) (t : Time) : s.Edited (s.judgeStarvation i t) := by
  unfold State.judgeStarvation
  split
  next h => exact .modChan_edit (.starve h.1)
  next => exact .refl s

theorem State.matureFirst_edited (s : State) (i : Slot) (x : Time) : s.Edited (s.matureFirst i x) := by
  unfold State.matureFirst
  split
  next e he =>
    split
    · have hs := List.find?_some he
      exact .modChan_edit (.mature (List.mem_of_find?_eq_some he) (by simpa [CueEntry.isPending] using hs))
    · exact .refl s
  next => exact .refl s

theorem State.judgeMiss_edited (s : State) (i : Slot) (x : Time) (id : Ident) : s.Edited (s.judgeMiss i x id) := by
  unfold State.judgeMiss
  split
  next e he =>
    split
    · exact s.missEntry_edited i (entry_eq_some he).1 _
    · exact .refl s
  next => exact .refl s

theorem State.proceed_edited (s : State) (i : Slot) : s.Edited (s.proceed i) := by
  unfold State.proceed
  split
  next h =>
    split
    next e he =>
      have hm := List.mem_of_find?_eq_some he
      have hs : e.state = .pending true := by simpa [CueEntry.isPending] using List.find?_some he
      unfold State.reserve
      split
      · exact (State.Edited.modPort s _ _).trans (.modChan_edit (.reserve (c := s.chan i) hm (.inr ⟨hs, h.2⟩) h.1))
      · exact .modChan_edit (.waitPort hm hs h.1 h.2)
    next => exact .refl s
  next => exact .refl s

theorem State.cueStep_edited (s : State) (i : Slot) (t : Time) : s.Edited (s.cueStep i t) := by
  simp only [State.cueStep]
  split
  · exact .refl s
  · exact ((s.matureFirst_edited i _).trans (.foldl (fun s id => s.judgeMiss_edited i _ id) _ _)).trans (State.proceed_edited _ i)

end Sys2Proof.Machine
end

section
/-!
The output of a slot event and the cue commands as chains of edits (chapter 5, sections 6.6, 8.4).
-/
namespace Sys2Proof.Machine

open Sys2Proof.Safety

theorem cutWaitEntry_spec {c : Channel} {e : CueEntry} (h : c.cutWaitEntry = some e) :
    e ∈ c.cues ∧ c.pendingEntry = some e.cueId := by
  obtain ⟨id, hp, he⟩ := Option.bind_eq_some_iff.mp h
  obtain ⟨hm, rfl⟩ := entry_eq_some he
  exact ⟨hm, hp⟩

@[simp] theorem State.sendFill_chan_state (s : State) (i : Slot) : ((s.sendFill i).chan i).state = (s.chan i).state := by
  simp [State.sendFill, Channel.afterSend]

@[simp] theorem State.drainTruncating_chan_state (s : State) (i : Slot) (p : PortId) :
    ((s.drainTruncating i p).chan i).state = (s.chan i).state := by
  rw [State.drainTruncating, State.modChan_chan_same]
  rfl

theorem ChannelState.OnAir.ne_network {st : ChannelState} (h : st.OnAir) : st ≠ .network := by
  rcases h with h | h <;> simp [h]

theorem State.Edited.count {s : State} {i : Slot} {f : Channel → Channel} (h : ∀ c : Channel, c.SameCore (f c)) :
    s.Edited (s.modChan i f) := .modChan_edit (.same (h _))

theorem Edits.markCut (ring : AlertRing) (c : Channel) : Edits ring c c.markCut :=
  .single (.same ⟨rfl, rfl, rfl, rfl, rfl, rfl, rfl, rfl, rfl, rfl, id⟩)

theorem State.Edited.markCut (s : State) (i : Slot) : s.Edited (s.modChan i Channel.markCut) :=
  .count fun _ => ⟨rfl, rfl, rfl, rfl, rfl, rfl, rfl, rfl, rfl, rfl, id⟩

/-! ## Cut-in, the break on air, the returns (R77 to R83, R88) -/

theorem State.cutIn_edited (s : State) (i : Slot) {e : CueEntry} (sp u : Time) (head : StreamCell) (he : e ∈ (s.chan i).cues)
    (hp : (s.chan i).pendingEntry = some e.cueId) (hs : (s.chan i).state = .cutWait) : s.Edited (s.cutIn i e sp u head) := by
  refine (((State.Edited.modPort s e.port _).trans (.modChan ?_)).trans (.send _ i _)).trans (.raiseCut _ i _ _ _ _ _)
  exact (Edits.markCut s.ring (s.chan i)).tail (.cutIn (c := (s.chan i).markCut) (e.toBreak u head.time) he hp hs rfl)

theorem State.outputCutWait_edited (s : State) (i : Slot) (cell : StreamCell) (hs : (s.chan i).state = .cutWait) :
    s.Edited (s.outputCutWait i cell) := by
  unfold State.outputCutWait
  split
  · exact .send s i cell
  next e he =>
    obtain ⟨hm, hp⟩ := cutWaitEntry_spec he
    split
    · exact .send s i cell
    split
    · exact .send s i cell
    split
    · exact (s.missEntry_edited i hm _).trans (.send _ i cell)
    split
    · exact .send s i cell
    split
    · exact s.cutIn_edited i _ _ _ hm hp hs
    · exact .send s i cell

theorem State.returnCut_edited (s : State) (i : Slot) (b : BreakRecord) (cell : StreamCell) (hs : (s.chan i).state.OnAir) :
    s.Edited (s.returnCut i b cell) := by
  refine State.Edited.trans ?_ (.raiseBreak _ i _ _ b)
  have hstate : (((s.modChan i Channel.markCut).send i cell).chan i).state = (s.chan i).state := by
    rw [State.send_chan_same, State.modChan_chan_same]
    rfl
  refine (((State.Edited.markCut s i).trans (.send _ i cell)).trans (State.releasePort_edited _ i b.port)).trans
    (.modChan_edit (.returnCut ?_))
  rw [State.releasePort_chan_of_ne (by rw [hstate]; exact hs.ne_network), hstate]
  exact hs

theorem State.truncate_edited (s : State) (i : Slot) (b : BreakRecord) (hs : (s.chan i).state.OnAir) : s.Edited (s.truncate i b) :=
  ((State.Edited.sendFill s i).trans (State.drainTruncating_edited _ i _)).trans (.modChan_edit (.wait _ _ (.inl (by simpa using hs))))

theorem State.endMark_edited (s : State) (i : Slot) (b : BreakRecord) (hs : (s.chan i).state.OnAir) : s.Edited (s.endMark i b) := by
  simp only [State.endMark]
  refine (((State.Edited.modPort s b.port _).trans (.sendFill _ i)).trans (State.drainTruncating_edited _ i _)).trans
    (.modChan_edit (.wait _ _ (.inl ?_)))
  simpa using hs

theorem State.outputBreak_edited (s : State) (i : Slot) (cell : StreamCell) (hs : (s.chan i).state.OnAir) :
    s.Edited (s.outputBreak i cell) := by
  unfold State.outputBreak
  split
  · exact .sendFill s i
  split
  · exact s.returnCut_edited i _ cell hs
  split
  · exact (State.Edited.count (f := fun c => { c with underrunCount := countUp c.underrunCount })
      fun _ => ⟨rfl, rfl, rfl, rfl, rfl, rfl, rfl, rfl, rfl, rfl, id⟩).trans (.sendFill _ i)
  split
  · exact s.endMark_edited i _ hs
  split
  · exact s.truncate_edited i _ hs
  · exact (State.Edited.modPort s _ _).trans (.send _ i _)

theorem State.raiseDue_chan_eq (s : State) (i j : Slot) (b : BreakRecord) (due : Option ReturnReport) :
    (s.raiseDue i b due).chan j = s.chan j := by
  unfold State.raiseDue
  split
  · exact State.raiseBreak_chan ..
  · rfl

theorem State.raiseDue_alerts (s : State) (i : Slot) (b : BreakRecord) (due : Option ReturnReport) :
    (s.raiseDue i b due).alerts = s.alerts := by
  unfold State.raiseDue
  split
  · exact (State.Edited.raiseBreak s i _ _ b).alerts
  · rfl

theorem State.returnFromWait_edited (s : State) (i : Slot) (cell : StreamCell) (hs : (s.chan i).state = .returnWait) :
    s.Edited (s.returnFromWait i cell) := by
  have hstate : (((s.modChan i Channel.markCut).send i cell).chan i).state = .returnWait := by
    rw [State.send_chan_same, State.modChan_chan_same]
    exact hs
  have hsent : s.Edited ((s.modChan i Channel.markCut).send i cell) := (State.Edited.markCut s i).trans (.send _ i cell)
  have hactive : (((s.modChan i Channel.markCut).send i cell).chan i).activeBreak = (s.chan i).activeBreak := by
    rw [State.send_chan_same, State.modChan_chan_same]
    rfl
  simp only [State.returnFromWait]
  generalize (s.modChan i Channel.markCut).send i cell = u at hstate hsent hactive
  refine hsent.trans ?_
  split
  next b hb =>
    have hrel : (u.releasePort i b.port).chan i = u.chan i := State.releasePort_chan_of_ne (by simp [hstate]) i b.port
    refine .of_one ?_ ?_ i ?_ fun j hj => ?_
    · rw [State.modChan_ring, (State.raiseDue_moves _ i b _).frame, State.modChan_ring]
      exact State.releasePort_ring u i b.port
    · exact (State.raiseDue_alerts ..).trans (State.releasePort_alerts u i b.port)
    · rw [State.modChan_chan_same, State.raiseDue_chan_eq, State.modChan_chan_same, hrel]
      exact .single (.network none hstate (.inl rfl))
    · rw [State.modChan_chan_ne _ _ hj, State.raiseDue_chan_eq, State.modChan_chan_ne _ _ hj]
      exact u.releasePort_edits i b.port j
  next hb => exact .modChan_edit (.network (u.chan i).active hstate (.inr ⟨rfl, hactive.trans hb⟩))

theorem State.outputReturnWait_edited (s : State) (i : Slot) (cell : StreamCell) (hs : (s.chan i).state = .returnWait) :
    s.Edited (s.outputReturnWait i cell) := by
  unfold State.outputReturnWait
  split
  · exact s.returnFromWait_edited i cell hs
  · exact .sendFill s i

theorem State.rejoinCut_edited (s : State) (i : Slot) (b : BreakRecord) (head : StreamCell) (hs : (s.chan i).state = .rejoinWait) :
    s.Edited (s.rejoinCut i b head) := by
  refine (((State.Edited.modPort s b.port _).trans (.modChan ?_)).trans (.send _ i _)).trans (.raiseBreak _ i _ _ _)
  exact (Edits.markCut s.ring (s.chan i)).tail (.rejoinCut (c := (s.chan i).markCut) hs)

theorem State.outputRejoinWait_edited (s : State) (i : Slot) (cell : StreamCell) (hs : (s.chan i).state = .rejoinWait) :
    s.Edited (s.outputRejoinWait i cell) := by
  unfold State.outputRejoinWait
  split
  · exact .sendFill s i
  split
  · exact s.returnCut_edited i _ cell (.inr hs)
  split
  · exact .sendFill s i
  split
  · split
    · exact s.truncate_edited i _ (.inr hs)
    · exact s.rejoinCut_edited i _ _ hs
  · exact .sendFill s i

/-! ## The alert on air (R102 to R104) -/

theorem State.outputWaiting_edited (s : State) (i : Slot) (cell : StreamCell) : s.Edited (s.outputWaiting i cell) := by
  unfold State.outputWaiting
  split
  · exact .send s i cell
  · exact .sendFill s i

theorem State.outputAlertWait_edited (s : State) (i : Slot) (cell : StreamCell) (hs : (s.chan i).state = .alertWait) :
    s.Edited (s.outputAlertWait i cell) := by
  simp only [State.outputAlertWait]
  split
  next a reader ha hr =>
    split
    next x hx =>
      refine (State.Edited.modChan ?_).trans (.send _ i _)
      exact (Edits.markCut s.ring (s.chan i)).tail (.alertCut (c := (s.chan i).markCut) _ hs ha hr hx)
    next => exact s.outputWaiting_edited i cell
  next => exact s.outputWaiting_edited i cell

theorem State.outputAlert_edited (s : State) (i : Slot) (hs : (s.chan i).state = .alert) : s.Edited (s.outputAlert i) := by
  simp only [State.outputAlert]
  split
  next a reader ha hr =>
    split
    next x hx => exact (State.Edited.modChan_edit (.advance hs hr hx)).trans (.send _ i _)
    next => exact .sendFill s i
  next => exact .sendFill s i

theorem State.output_edited (s : State) (i : Slot) (cell : StreamCell) : s.Edited (s.output i cell) := by
  unfold State.output
  split
  · exact .send s i cell
  next hs => exact s.outputCutWait_edited i cell hs
  next hs => exact s.outputBreak_edited i cell (.inl hs)
  next hs => exact s.outputReturnWait_edited i cell hs
  next hs => exact s.outputRejoinWait_edited i cell hs
  next hs => exact s.outputAlertWait_edited i cell hs
  next hs => exact s.outputAlert_edited i hs

/-- All of a slot event that follows the judgement of silence (R42). -/
theorem State.slotEvent_edited (s : State) (i : Slot) (t : Time) (cell : StreamCell) :
    (s.judgeSilence i t).Edited (s.slotEvent i t cell) :=
  ((((s.clockStep_edited i t cell).trans (State.judgeRejoinLimit_edited _ i t)).trans (State.judgeStarvation_edited _ i t)).trans
    (State.cueStep_edited _ i t)).trans (State.output_edited _ i cell)

/-! ## The cue commands (R71, R84 to R86) -/

theorem State.cancelBreak_edited (s : State) (i : Slot) (b : BreakRecord) : s.Edited (s.cancelBreak i b) := by
  unfold State.cancelBreak
  split
  · simp only [State.cancelActive]
    split
    next hs =>
      exact (s.drainTruncating_edited i b.port).trans (.modChan_edit (.wait _ _ (.inl (.inl (by simpa using hs)))))
    next hs => exact (State.Edited.modPort s b.port _).trans (.modChan_edit (.wait (c := s.chan i) _ _ (.inl (.inr hs))))
    next hs => exact .modChan_edit (.wait _ _ (.inr ⟨hs, rfl, by simp⟩))
    all_goals exact .refl s
  · exact (s.removeHeldBreak_edited i b).trans (.raiseBreak _ i _ _ b)

theorem judgeSplice_eq_none {s : State} {i : Slot} {id : Ident} {sp : Time} {len : Nat} (h : s.judgeSplice i id sp len = none) :
    (s.chan i).clock.state = .locked ∧ (s.chan i).overlapsInterval id sp len = false := by
  simp only [State.judgeSplice, ne_eq, ite_not] at h
  split at h
  next hk =>
    split at h
    · simp at h
    split at h
    · simp at h
    split at h
    · simp at h
    next ho => exact ⟨hk, by simpa using ho⟩
  next => simp at h

theorem awaits_spec {e : CueEntry} {src : Byte} {id : Ident} (h : e.awaits src id = true) :
    ∃ since wait, e.state = .waitPeer since wait := by
  unfold CueEntry.awaits at h
  split at h
  next hs _ => exact ⟨_, _, hs⟩
  next => simp at h

theorem State.reactToCut_edited (s : State) (i : Slot) (kind : Option CutKind) (x : Time) {e : CueEntry}
    (he : e ∈ (s.chan i).cues) (hw : ∃ since wait, e.state = .waitPeer since wait) : s.Edited (s.reactToCut i kind x e) := by
  obtain ⟨since, wait, hw⟩ := hw
  unfold State.reactToCut
  split
  · simp only [State.peerCutIn]
    split
    next hj =>
      obtain ⟨hk, ho⟩ := judgeSplice_eq_none hj
      exact .modChan_edit (.put he rfl (by simp [hw]) rfl rfl rfl hk ho)
    next => exact s.withdrawEntry_edited i he _
  all_goals first | exact s.withdrawEntry_edited i he _ | exact .refl s

theorem State.matchCut_edited (s : State) (src : Byte) (id : Ident) (kind : Option CutKind) (x : Time) :
    s.Edited (s.matchCut src id kind x) := by
  refine .foldl (fun s i => .foldl (fun s own => ?_) _ s) _ s
  unfold State.reactById
  split
  next e he =>
    obtain ⟨he, ha⟩ := Option.filter_eq_some_iff.mp he
    exact s.reactToCut_edited i kind x (entry_eq_some he).1 (awaits_spec ha)
  next => exact .refl s

end Sys2Proof.Machine
end

section
/-!
The alert commands as chains of edits of each channel record (chapter 6): pre-emption, a reference held beneath, and release.
-/
namespace Sys2Proof.Machine

open Sys2Proof.Safety

/-! ## Chains of all edits -/

/-- A channel record comes to another by edits of either kind. -/
def Changes (ring : AlertRing) : Channel → Channel → Prop := Relation.ReflTransGen fun c c' => Edit ring c c' ∨ AlertEdit ring c c'

theorem Edits.changes {ring : AlertRing} {c c' : Channel} (h : Edits ring c c') : Changes ring c c' :=
  Relation.ReflTransGen.mono (fun _ _ => Or.inl) _ _ h

theorem AlertEdit.changes {ring : AlertRing} {c c' : Channel} (h : AlertEdit ring c c') : Changes ring c c' := .single (.inr h)

/-- The ring stands, and every channel record comes to its next by edits of either kind. -/
structure State.Changed (s u : State) : Prop where
  ring : u.ring = s.ring
  chan : ∀ j, Changes s.ring (s.chan j) (u.chan j)

theorem State.Edited.changed {s u : State} (h : s.Edited u) : s.Changed u := ⟨h.ring, fun j => (h.chan j).changes⟩

namespace State.Changed

variable {s u v : State}

theorem refl (s : State) : s.Changed s := ⟨rfl, fun _ => .refl⟩

theorem trans (h : s.Changed u) (k : u.Changed v) : s.Changed v :=
  ⟨k.ring.trans h.ring, fun j => (h.chan j).trans (h.ring ▸ k.chan j)⟩

theorem of_one (hr : u.ring = s.ring) (i : Slot) (h : Changes s.ring (s.chan i) (u.chan i))
    (hne : ∀ j, j ≠ i → Edits s.ring (s.chan j) (u.chan j)) : s.Changed u := by
  refine ⟨hr, fun j => ?_⟩
  by_cases hj : j = i
  · exact hj ▸ h
  · exact (hne j hj).changes

theorem modChan {i : Slot} {f : Channel → Channel} (h : AlertEdit s.ring (s.chan i) (f (s.chan i))) : s.Changed (s.modChan i f) :=
  of_one rfl i (by rw [State.modChan_chan_same]; exact h.changes) fun j hj => by rw [State.modChan_chan_ne _ _ hj]; exact .refl

theorem foldl {α : Type} {f : State → α → State} (hf : ∀ (s : State) a, s.Changed (f s a)) (l : List α) (s : State) :
    s.Changed (l.foldl f s) := by
  induction l generalizing s with
  | nil => exact refl s
  | cons a l ih => exact (hf s a).trans (ih _)

end State.Changed

/-! ## Placing a record on the hold stack (R37, R38) -/

theorem State.insertRecord_inserted (s : State) {a : AlertRef} (ha : 1 ≤ a.level) (l : List Record) :
    Inserted (.alert a) l (s.insertRecord (.alert a) l) := by
  induction l with
  | nil => exact ⟨[], [], rfl, rfl, by simp⟩
  | cons x rest ih =>
    unfold State.insertRecord
    split
    · obtain ⟨before, behind, h1, h2, h3⟩ := ih
      exact ⟨x :: before, behind, by rw [h1]; rfl, by rw [h2]; rfl, h3⟩
    next hk =>
      refine ⟨[], x :: rest, rfl, rfl, fun y hy => ?_⟩
      obtain rfl : x = y := by simpa using hy
      cases x with
      | alert y => rfl
      | brk b =>
        have hlt : 0 < a.level := ha
        exact absurd (by simp [State.keyGreater, Record.level, hlt]) hk

/-- What of the state a shed record leaves: its channel, outside NETWORK, and the others but for the arbiter. -/
theorem State.shed_edits (s : State) (i : Slot) (r : Record) (j : Slot) : Edits s.ring (s.chan j) ((s.shed i r).chan j) := by
  cases r with
  | alert a => exact .refl
  | brk b => exact (((State.Edited.raiseBreak s i _ _ b).trans (State.releasePort_edited _ i b.port)).chan j)

theorem State.shed_chan_of_ne {s : State} {i : Slot} (h : (s.chan i).state ≠ .network) (r : Record) :
    (s.shed i r).chan i = s.chan i := by
  cases r with
  | alert a => rfl
  | brk b =>
    have hb : (s.raiseBreak i .shed .holdFull b).chan i = s.chan i := State.raiseBreak_chan ..
    exact (State.releasePort_chan_of_ne (by rw [hb]; exact h) i b.port).trans hb

theorem State.shed_ring (s : State) (i : Slot) (r : Record) : (s.shed i r).ring = s.ring := by
  rw [(s.shed_moves i r).frame]

theorem State.place_ring (s : State) (i : Slot) (r : Record) : (s.place i r).2.ring = s.ring := by
  rw [(s.place_moves i r).frame]

theorem State.setHold_edits_ne (s : State) {i j : Slot} (hj : j ≠ i) (hold : List Record) :
    Edits s.ring (s.chan j) ((s.setHold i hold).chan j) := by
  rw [State.setHold, State.modChan_chan_ne _ _ hj]
  exact .refl

/-- Placing a record leaves the other channels, but for the arbiter. -/
theorem State.place_edits_ne (s : State) (i : Slot) (r : Record) {j : Slot} (hj : j ≠ i) :
    Edits s.ring (s.chan j) ((s.place i r).2.chan j) := by
  unfold State.place
  split
  · exact s.setHold_edits_ne hj _
  split
  next bottom rest hh =>
    split
    · exact (s.setHold_edits_ne hj _).trans ((s.setHold i (s.insertRecord r rest)).shed_edits i bottom j)
    · exact .refl
  next => exact .refl

/-- The channel after a reference has been placed on its hold stack, outside NETWORK (R37, R38). -/
theorem State.place_alert_chan {s : State} {i : Slot} (h : (s.chan i).state ≠ .network) {a : AlertRef} (ha : 1 ≤ a.level) :
    ∃ hold, Placed a (s.chan i).hold hold ∧ (s.place i (.alert a)).2.chan i = { s.chan i with hold := hold } := by
  unfold State.place
  split
  next hlen =>
    exact ⟨_, .inr (.inl ⟨hlen, s.insertRecord_inserted ha _⟩), State.modChan_chan_same ..⟩
  next hlen =>
    split
    next bottom rest hh =>
      split
      · have hset : (s.setHold i (s.insertRecord (.alert a) rest)).chan i =
            { s.chan i with hold := s.insertRecord (.alert a) rest } := State.modChan_chan_same ..
        exact ⟨_, .inr (.inr ⟨bottom, rest, hh, s.insertRecord_inserted ha _⟩),
          (State.shed_chan_of_ne (by rw [hset]; exact h) bottom).trans hset⟩
      · exact ⟨_, .inl rfl, rfl⟩
    next hh => exact absurd (hh ▸ hlen) (by simp [holdLimit])

/-! ## The loose changes of an alert command -/

namespace Channel.Loosely

variable (ring : AlertRing)

theorem of_fields {c c' : Channel} (h1 : c'.rights = c.rights) (h2 : c'.cues.length ≤ c.cues.length)
    (h3 : ∀ b, .brk b ∈ Safety.records c' → .brk b ∈ Safety.records c) (h4 : c'.reader = c.reader)
    (h5 : c'.state = .alertWait → c.state = .alertWait) : c.Loosely ring c' := by
  refine ⟨h1, fun h => ⟨fun r hr => ?_, ?_⟩, .inr (.inr ⟨h4, h5⟩)⟩
  · cases r with
    | alert a => rfl
    | brk b => exact absurd (h.1 _ (h3 b hr)) (by simp [Record.break?])
  · rw [h.2] at h2
    exact List.length_eq_zero_iff.mp (Nat.le_zero.mp h2)

theorem leaveCutWait (c : Channel) : c.Loosely ring c.leaveCutWait := by
  refine of_fields ring rfl (Nat.le_refl _) (fun _ h => h) rfl ?_
  unfold Channel.leaveCutWait
  intro h
  split at h
  · simp at h
  · exact h

theorem dropEntry (c : Channel) (id : Ident) : c.Loosely ring (c.dropEntry id) :=
  of_fields ring rfl (dropEntry_sublist c id).length_le (fun _ h => h) rfl fun h => h

theorem offer (s : State) (r : Report) (i : Slot) : (s.chan i).Loosely ring ((s.offer r).chan i) := by
  rw [State.offer_chan]
  exact refl ring _

theorem missEntry (s : State) (i : Slot) (r : CutReason) (e : CueEntry) :
    (s.chan i).Loosely ring ((s.missEntry i r e).chan i) := by
  unfold State.missEntry State.leaveEntry
  rw [State.modChan_chan_same, State.raiseCut_chan, State.modChan_chan_same]
  have h : (s.chan i).Loosely ring
      ((if e.state = .cutWait then (s.modChan i Channel.leaveCutWait).releasePort i e.port else s).chan i) := by
    split
    · refine Channel.Loosely.trans ?_ (releasePort ring _ i i _)
      rw [State.modChan_chan_same]
      exact leaveCutWait ring _
    · exact refl ring _
  generalize (if e.state = .cutWait then (s.modChan i Channel.leaveCutWait).releasePort i e.port else s) = u at h
  exact (h.trans (dropEntry ring (u.chan i) e.cueId)).trans (of_fields ring rfl (Nat.le_refl _) (fun _ h => h) rfl fun h => h)

theorem dropActive (c : Channel) : c.Loosely ring { c with active := none } :=
  of_fields ring rfl (Nat.le_refl _) (fun b h => List.mem_append.mpr (.inr (by simpa [Safety.records] using h))) rfl fun h => h

theorem setHold (c : Channel) (hold : List Record) (h : ∀ b, .brk b ∈ hold → .brk b ∈ Safety.records c) :
    c.Loosely ring { c with hold := hold } :=
  of_fields ring rfl (Nat.le_refl _) (fun b hb => by
    rcases List.mem_append.mp hb with hb | hb
    · exact List.mem_append.mpr (.inl hb)
    · exact h b hb) rfl fun h => h

theorem enterAlertWait (c : Channel) (a : AlertRef) (t : Time) : c.Loosely ring (c.enterAlertWait a ring.newReader t) := by
  refine ⟨rfl, fun h => ⟨fun r hr => ?_, h.2⟩, .inr (.inl rfl)⟩
  rcases List.mem_append.mp hr with hr | hr
  · obtain rfl : r = .alert { a with offset := none } := by simpa [Channel.enterAlertWait] using hr
    rfl
  · exact h.1 r (List.mem_append.mpr (.inr hr))

end Channel.Loosely

theorem State.mem_insertRecord {s : State} {r x : Record} {l : List Record} : x ∈ s.insertRecord r l ↔ x = r ∨ x ∈ l := by
  induction l with
  | nil => simp [State.insertRecord]
  | cons y rest ih =>
    unfold State.insertRecord
    split
    · simp only [List.mem_cons, ih]
      tauto
    · simp only [List.mem_cons]

/-- Placing a record that is no break, or a break of the channel, loosely. -/
theorem State.place_loosely (ring : AlertRing) (s : State) (i : Slot) (r : Record) :
    (∀ b, r ≠ .brk b) → (s.chan i).Loosely ring ((s.place i r).2.chan i) := by
  intro hr
  have hset (rest : List Record) (h : ∀ x ∈ rest, x ∈ (s.chan i).hold) :
      (s.chan i).Loosely ring ((s.setHold i (s.insertRecord r rest)).chan i) := by
    rw [State.setHold, State.modChan_chan_same]
    refine .setHold ring _ _ fun b hb => ?_
    rcases State.mem_insertRecord.mp hb with hb | hb
    · exact absurd hb.symm (hr b)
    · exact List.mem_append.mpr (.inr (h _ hb))
  unfold State.place
  split
  · exact hset _ fun x hx => hx
  split
  next bottom rest hh =>
    split
    · refine (hset rest fun x hx => by simp [hh, hx]).trans ?_
      cases bottom with
      | alert a => exact .refl ring _
      | brk b => exact Channel.Loosely.trans (.offer ring _ _ i) (.releasePort ring _ i i b.port)
    · exact .refl ring _
  next => exact .refl ring _

end Sys2Proof.Machine
end

section
/-!
Pre-emption and release as edits (R40, R41, R98, R100, R101, R106).
-/
namespace Sys2Proof.Machine

open Sys2Proof.Safety

/-! ## What a pre-emption sets aside (R100) -/

theorem State.Edits_of_drainRaise (s : State) (i : Slot) (b : BreakRecord) (k : CutKind) (r : CutReason) (j : Slot) :
    ((s.drainPort i b.port).raiseBreak i k r b).chan j = s.chan j := State.raiseBreak_chan ..

theorem State.holdBreak_chan (s : State) (i : Slot) (b : BreakRecord) (j : Slot) :
    (s.holdBreak i b).chan j = (((s.modChan i fun c => { c with active := none }).place i (.brk b)).2).chan j :=
  State.Edits_of_drainRaise _ i b _ _ j

/-- The alert on air or awaited of a channel is set aside (R100). -/
def State.setAlertAside (s : State) (i : Slot) (x : AlertRef) : State :=
  ((s.modChan i fun c => { c with active := none, reader := none }).place i (.alert { x with offset := none })).2

theorem State.setAside_cutWait {s : State} {i : Slot} {e : CueEntry} (hs : (s.chan i).state = .cutWait)
    (he : (s.chan i).cutWaitEntry = some e) : s.setAside i = s.missEntry i .preempted e := by simp [State.setAside, hs, he]

theorem State.setAside_onAir {s : State} {i : Slot} {b : BreakRecord} (hs : (s.chan i).state.OnAir)
    (hb : (s.chan i).active = some (.brk b)) : s.setAside i = s.holdBreak i b := by
  have hb := activeBreak_eq_some.mpr hb
  rcases hs with hs | hs <;> simp [State.setAside, hs, hb]

theorem State.setAside_returnWait {s : State} {i : Slot} {b : BreakRecord} (hs : (s.chan i).state = .returnWait)
    (hb : (s.chan i).active = some (.brk b)) : s.setAside i = s.preemptReturnWait i b := by
  have hb := activeBreak_eq_some.mpr hb
  simp [State.setAside, hs, hb]

theorem State.setAside_alerted {s : State} {i : Slot} {x : AlertRef} (hs : (s.chan i).state.Alerted)
    (hx : (s.chan i).active = some (.alert x)) : s.setAside i = s.setAlertAside i x := by
  rcases hs with hs | hs <;> simp only [State.setAside, hs, hx] <;> rfl

/-- Everything a pre-emption sets aside: nothing, or the work of the channel by its state (R100). -/
theorem State.setAside_cases (s : State) (i : Slot) :
    s.setAside i = s ∨
    (∃ e, (s.chan i).cutWaitEntry = some e ∧ s.setAside i = s.missEntry i .preempted e) ∨
    (∃ b, (s.chan i).active = some (.brk b) ∧ s.setAside i = s.holdBreak i b) ∨
    (∃ b, (s.chan i).active = some (.brk b) ∧ s.setAside i = s.preemptReturnWait i b) ∨
    (∃ x, (s.chan i).active = some (.alert x) ∧ s.setAside i = s.setAlertAside i x) := by
  rcases (s.chan i).state.cases with (hs | hs) | hs | hs | hs
  · exact .inl (by simp [State.setAside, hs])
  · cases he : (s.chan i).cutWaitEntry with
    | none => exact .inl (by simp [State.setAside, hs, he])
    | some e => exact .inr (.inl ⟨e, rfl, State.setAside_cutWait hs he⟩)
  · cases hb : (s.chan i).activeBreak with
    | none => exact .inl (by rcases hs with hs | hs <;> simp [State.setAside, hs, hb])
    | some b =>
      have hb := activeBreak_eq_some.mp hb
      exact .inr (.inr (.inl ⟨b, hb, State.setAside_onAir hs hb⟩))
  · cases hb : (s.chan i).activeBreak with
    | none => exact .inl (by simp [State.setAside, hs, hb])
    | some b =>
      have hb := activeBreak_eq_some.mp hb
      exact .inr (.inr (.inr (.inl ⟨b, hb, State.setAside_returnWait hs hb⟩)))
  · match hx : (s.chan i).active with
    | some (.alert x) => exact .inr (.inr (.inr (.inr ⟨x, rfl, State.setAside_alerted hs hx⟩)))
    | some (.brk b) => exact .inl (by rcases hs with hs | hs <;> simp [State.setAside, hs, hx])
    | none => exact .inl (by rcases hs with hs | hs <;> simp [State.setAside, hs, hx])

theorem State.setAside_edits_ne (s : State) (i : Slot) {j : Slot} (hj : j ≠ i) : Edits s.ring (s.chan j) ((s.setAside i).chan j) := by
  have around (f : Channel → Channel) (r : Record) :
      Edits s.ring (s.chan j) (((s.modChan i f).place i r).2.chan j) := by
    have := (s.modChan i f).place_edits_ne i r hj
    rwa [State.modChan_chan_ne _ _ hj] at this
  rcases s.setAside_cases i with k | ⟨e, he, k⟩ | ⟨b, hb, k⟩ | ⟨b, hb, k⟩ | ⟨x, _, k⟩ <;> rw [k]
  · exact .refl
  · exact (s.missEntry_edited i (cutWaitEntry_spec he).1 _).chan j
  · rw [State.holdBreak_chan]
    exact around _ _
  · simp only [State.preemptReturnWait]
    rw [State.modChan_chan_ne _ _ hj]
    split
    · exact ((State.Edited.raiseBreak s i _ _ b).trans (State.releasePort_edited _ i b.port)).chan j
    · exact s.releasePort_edits i b.port j
  · exact around _ _

theorem State.preempt_chan (s : State) (i : Slot) (a : AlertRef) :
    (s.preempt i a).chan i = ((s.setAside i).chan i).enterAlertWait a s.ring.newReader s.timer := by
  have hring : (s.setAside i).ring = s.ring := by rw [(s.setAside_moves i).frame]
  have htimer : (s.setAside i).timer = s.timer := by rw [(s.setAside_moves i).frame]
  unfold State.preempt State.awaitAlert
  rw [State.modChan_chan_same, hring, htimer]

/-- Placing an active break on the hold stack, loosely. -/
theorem State.placeBreak_loosely (ring : AlertRing) (s : State) (i : Slot) {b : BreakRecord} (hb : (s.chan i).active = some (.brk b)) :
    (s.chan i).Loosely ring (((s.modChan i fun c => { c with active := none }).place i (.brk b)).2.chan i) := by
  have hunclean : ¬ (s.chan i).Clean := fun h => (breakless_iff.mp h.1).1 b hb
  generalize hu : (s.modChan i fun c => { c with active := none }) = u
  have hc : u.chan i = { s.chan i with active := none } := by rw [← hu, State.modChan_chan_same]
  have hset (l : List Record) : (s.chan i).Loosely ring ((u.setHold i l).chan i) := by
    rw [State.setHold, State.modChan_chan_same, hc]
    exact ⟨rfl, fun h => absurd h hunclean, .inr (.inr ⟨rfl, fun h => h⟩)⟩
  unfold State.place
  split
  · exact hset _
  split
  next bottom rest hh =>
    split
    · refine (hset (u.insertRecord (.brk b) rest)).trans ?_
      cases bottom with
      | alert a => exact .refl ring _
      | brk b => exact Channel.Loosely.trans (.offer ring _ _ i) (.releasePort ring _ i i b.port)
    · rw [hc]
      exact .dropActive ring _
  next =>
    rw [hc]
    exact .dropActive ring _

theorem State.setAside_loosely (ring : AlertRing) (s : State) (i : Slot) : (s.chan i).Loosely ring ((s.setAside i).chan i) := by
  rcases s.setAside_cases i with k | ⟨e, he, k⟩ | ⟨b, hb, k⟩ | ⟨b, hb, k⟩ | ⟨x, _, k⟩ <;> rw [k]
  · exact .refl ring _
  · exact .missEntry ring s i _ _
  · rw [State.holdBreak_chan]
    exact s.placeBreak_loosely ring i hb
  · simp only [State.preemptReturnWait]
    rw [State.modChan_chan_same]
    refine Channel.Loosely.trans ?_ (.dropActive ring _)
    split
    · exact Channel.Loosely.trans (.offer ring s _ i) (.releasePort ring _ i i b.port)
    · exact .releasePort ring s i i b.port
  · refine Channel.Loosely.trans ?_ (State.place_loosely ring _ i _ (by simp))
    rw [State.modChan_chan_same]
    exact ⟨rfl, (Channel.Loosely.dropActive ring (s.chan i)).clean, .inl rfl⟩

/-! ## Pre-emption (R101) -/

theorem State.missEntry_idle {s : State} {i : Slot} {e : CueEntry} (h : CueFacts (s.chan i)) (he : e ∈ (s.chan i).cues)
    (hs : e.state = .cutWait) (r : CutReason) : ((s.missEntry i r e).chan i).state = .network := by
  have hc := h.pending_iff.mp (by simp [(h.cutWait_iff e he).mp hs])
  have hrel : ((s.modChan i Channel.leaveCutWait).releasePort i e.port).chan i = (s.chan i).leaveCutWait := by
    rw [State.releasePort_chan_of_none (by rw [State.modChan_chan_same]; exact h.none_waits hc), State.modChan_chan_same]
  simp only [State.missEntry, State.leaveEntry]
  rw [if_pos hs, State.modChan_chan_same, State.raiseCut_chan, State.modChan_chan_same, hrel]
  exact if_pos hc

theorem place_brk_of_nil {s : State} {i : Slot} (h : (s.chan i).hold = []) (b : BreakRecord) :
    (s.place i (.brk b)).2 = s.setHold i [.brk b] := by
  simp [State.place, h, holdLimit, State.insertRecord]

theorem heldLaw_of_channelLaw {c : Channel} (h : ChannelLaw c) : HeldLaw c.hold := by
  rcases c.state.cases with hs | hs | hs | hs
  · exact ((channelLaw_idle hs).mp h).2.1 ▸ heldLaw_nil
  · exact ((channelLaw_onBreak hs).mp h).2.1 ▸ heldLaw_nil
  · exact ((channelLaw_returnWait hs).mp h).2.1 ▸ heldLaw_nil
  · exact ((channelLaw_alerted hs).mp h).2.1

theorem Edits.channelLaw {ring : AlertRing} {c c' : Channel} (h : Edits ring c c') (k : ChannelLaw c) : ChannelLaw c' := by
  induction h with
  | refl => exact k
  | tail _ e ih => exact e.channelLaw ih

theorem State.preemptReturnWait_chan {s : State} {i : Slot} (hs : (s.chan i).state = .returnWait) (b : BreakRecord) :
    (s.preemptReturnWait i b).chan i = { s.chan i with active := none } := by
  simp only [State.preemptReturnWait]
  rw [State.modChan_chan_same]
  split
  · rw [State.releasePort_chan_of_ne (by rw [State.raiseBreak_chan]; simp [hs]), State.raiseBreak_chan]
  · rw [State.releasePort_chan_of_ne (by simp [hs])]

theorem State.preempt_changes (s : State) (i : Slot) {a : AlertRef} (ha : a.Ranked) :
    Changes s.ring (s.chan i) ((s.preempt i a).chan i) := by
  have hchan := s.preempt_chan i a
  have unlawful (h : ¬ (s.chan i).Lawful) (hl : ChannelLaw (s.chan i) → HeldLaw ((s.setAside i).chan i).hold) :
      Changes s.ring (s.chan i) ((s.preempt i a).chan i) := by
    refine AlertEdit.changes (.loose h (fun k => ?_) ?_) <;> rw [hchan]
    · exact enterAlertWait_law ha (hl k) _ _
    · exact (s.setAside_loosely s.ring i).trans (.enterAlertWait s.ring _ a _)
  by_cases hl : ChannelLaw (s.chan i)
  case neg => exact unlawful (fun k => hl k.records) fun k => absurd k hl
  rcases (s.chan i).state.cases with (hs | hs) | hs | hs | hs
  · have h : s.setAside i = s := by simp [State.setAside, hs]
    rw [hchan, h]
    exact AlertEdit.changes (.await a _ ha (.inl hs))
  · by_cases hc : CueFacts (s.chan i)
    · obtain ⟨id, hid⟩ := Option.isSome_iff_exists.mp (hc.pending_iff.mpr hs)
      obtain ⟨e, he⟩ := Option.isSome_iff_exists.mp (entry_isSome.mpr (hc.pending_mem id hid))
      have hcut : (s.chan i).cutWaitEntry = some e := by simp [Channel.cutWaitEntry, hid, he]
      obtain ⟨hm, hp⟩ := cutWaitEntry_spec hcut
      have hnet := State.missEntry_idle hc hm ((hc.cutWait_iff e hm).mpr hp) .preempted
      rw [hchan, State.setAside_cutWait hs hcut]
      exact ((s.missEntry_edited i hm .preempted).chan i).changes.trans (AlertEdit.changes (.await a _ ha (.inl hnet)))
    · refine unlawful (fun k => hc k.cues) fun k => ?_
      rcases s.setAside_cases i with k' | ⟨e, he, k'⟩ | ⟨b, hb, k'⟩ | ⟨b, hb, k'⟩ | ⟨x, hx, k'⟩
      · rw [k']
        exact heldLaw_of_channelLaw k
      · rw [k']
        exact heldLaw_of_channelLaw (((s.missEntry_edited i (cutWaitEntry_spec he).1 _).chan i).channelLaw k)
      · exact absurd hb (by simp [((channelLaw_idle (.inr hs)).mp k).1])
      · exact absurd hb (by simp [((channelLaw_idle (.inr hs)).mp k).1])
      · exact absurd hx (by simp [((channelLaw_idle (.inr hs)).mp k).1])
  · obtain ⟨⟨b, hb⟩, hh, _⟩ := (channelLaw_onBreak hs).mp hl
    have hset : (s.setAside i).chan i = { s.chan i with active := none, hold := [.brk b] } := by
      rw [State.setAside_onAir hs hb, State.holdBreak_chan,
        place_brk_of_nil (by rw [State.modChan_chan_same]; exact hh), State.setHold, State.modChan_chan_same, State.modChan_chan_same]
    rw [hchan, hset]
    exact AlertEdit.changes (.holdBreak a _ ha hs hb)
  · have hset : (s.setAside i).chan i = { s.chan i with active := none } := by
      rcases ((channelLaw_returnWait hs).mp hl).1 with hn | ⟨b, hb⟩
      · have h : s.setAside i = s := by simp [State.setAside, hs, activeBreak_of_not_brk (c := s.chan i) (by simp [hn])]
        rw [h, ← hn]
      · rw [State.setAside_returnWait hs hb, State.preemptReturnWait_chan hs]
    rw [hchan, hset]
    exact AlertEdit.changes (.await a _ ha (.inr hs))
  · obtain ⟨⟨x, hx, h1, _⟩, _⟩ := (channelLaw_alerted hs).mp hl
    have hne : ((s.modChan i fun c => { c with active := none, reader := none }).chan i).state ≠ .network := by
      rw [State.modChan_chan_same]
      rcases hs with hs | hs <;> simp [hs]
    obtain ⟨hold, hp, hset⟩ := State.place_alert_chan hne (a := { x with offset := none }) h1
    rw [State.modChan_chan_same] at hp hset
    rw [hchan, State.setAside_alerted hs hx, State.setAlertAside, hset]
    exact AlertEdit.changes (.push a _ ha hs hx hp)

theorem State.preempt_changed (s : State) (i : Slot) {a : AlertRef} (ha : a.Ranked) : s.Changed (s.preempt i a) := by
  refine .of_one ?_ i (s.preempt_changes i ha) fun j hj => ?_
  · rw [(s.preempt_moves i a).frame]
  · rw [State.preempt, State.awaitAlert, State.modChan_chan_ne _ _ hj]
    exact s.setAside_edits_ne i hj

/-! ## A reference held beneath (R98) -/

/-- A reference that does not outrank the channel finds an alert active there. -/
theorem active_of_not_outranks {s : State} {i : Slot} {a : AlertRef} (ha : 1 ≤ a.level) (h : s.outranks i a = false) :
    ∃ x, (s.chan i).active = some (.alert x) := by
  unfold State.outranks at h
  match hx : (s.chan i).active with
  | none => simp [hx] at h
  | some (.alert x) => exact ⟨x, rfl⟩
  | some (.brk b) =>
    have hlt : 0 < a.level := ha
    simp [hx, State.keyGreater, Record.level, hlt] at h

theorem State.offerAlert_changed (s : State) {a : AlertRef} (ha : a.Ranked) (ho : a.offset = none) (i : Slot) :
    s.Changed (s.offerAlert a i) := by
  have joined {u : State} (h : s.Changed u) : s.Changed (u.joinSet i a.alertId) := ⟨h.ring, h.chan⟩
  unfold State.offerAlert
  split
  · exact joined (s.preempt_changed i ha)
  next hout =>
    obtain ⟨x, hx⟩ := active_of_not_outranks ha.1 (by simpa using hout)
    have hplace : s.Changed (s.place i (.alert a)).2 := by
      refine .of_one (s.place_ring i _) i ?_ fun j hj => s.place_edits_ne i _ hj
      by_cases hl : ChannelLaw (s.chan i)
      · have hne : (s.chan i).state ≠ .network := by
          rcases alerted_of_active hl hx with hs | hs <;> simp [hs]
        obtain ⟨hold, hp, hset⟩ := State.place_alert_chan hne ha.1
        rw [hset]
        exact AlertEdit.changes (.beneath a ha ho hx hp)
      · exact AlertEdit.changes (.loose (fun k => hl k.records) (fun k => absurd k hl) (State.place_loosely s.ring s i _ (by simp)))
    simp only
    split
    · exact joined hplace
    · exact hplace

/-! ## Release (R40, R41, R106) -/

theorem Channel.Loosely.dropActiveAlert (ring : AlertRing) (c : Channel) : c.Loosely ring c.dropActiveAlert :=
  ⟨rfl, fun h => ⟨fun r hr => h.1 r (List.mem_append.mpr (.inr (List.mem_of_mem_dropLast (by simpa [Safety.records, Channel.dropActiveAlert] using hr)))),
    h.2⟩, .inl rfl⟩

theorem State.evaluateRejoin_changed {s : State} {i : Slot} {x : AlertRef} {b : BreakRecord}
    (hx : (s.chan i).active = some (.alert x)) (hb : (s.chan i).hold.getLast? = some (.brk b)) :
    s.Changed ((s.modChan i Channel.dropActiveAlert).evaluateRejoin i b) := by
  have hchan : (s.modChan i Channel.dropActiveAlert).chan i = (s.chan i).dropActiveAlert := State.modChan_chan_same ..
  have hne {j : Slot} (hj : j ≠ i) : (s.modChan i Channel.dropActiveAlert).chan j = s.chan j := State.modChan_chan_ne _ _ hj
  have hring : (s.modChan i Channel.dropActiveAlert).ring = s.ring := rfl
  generalize s.modChan i Channel.dropActiveAlert = u at hchan hne hring
  refine .of_one ?_ i ?_ fun j hj => ?_
  · rw [(u.evaluateRejoin_moves i b).frame]
    exact hring
  · simp only [State.evaluateRejoin]
    split
    · rw [State.modChan_chan_same]
      have hport : (u.modPort b.port fun q => q.goLive i).chan i = (s.chan i).dropActiveAlert := hchan
      rw [hport]
      exact AlertEdit.changes (.rejoin _ hx hb)
    · rw [State.modChan_chan_same]
      by_cases hl : ChannelLaw (s.chan i)
      · have hstate : (u.chan i).state ≠ .network := by
          rw [hchan]
          rcases alerted_of_active hl hx with hs | hs <;> simp [Channel.dropActiveAlert, hs]
        rw [State.releasePort_chan_of_ne (by rw [State.raiseBreak_chan]; exact hstate), State.raiseBreak_chan, hchan]
        exact AlertEdit.changes (.expire hx hb)
      · refine AlertEdit.changes (.loose (fun k => hl k.records) (fun k => absurd k hl) ?_)
        refine Channel.Loosely.trans (Channel.Loosely.dropActiveAlert s.ring (s.chan i)) ?_
        rw [← hchan]
        generalize (if signed b.returnPoint ((u.chan i).clock.predict u.timer) ≤ 0 then CutReason.expiredInHold else .rejoinTooShort) = why
        have hraised : (u.chan i).Loosely s.ring ((u.raiseBreak i .cutOut why b).chan i) := .offer s.ring u _ i
        have hfreed := hraised.trans (.releasePort s.ring _ i i b.port)
        generalize ((u.raiseBreak i .cutOut why b).releasePort i b.port).chan i = d at hfreed
        exact hfreed.trans ((Channel.Loosely.enterReturnWait s.ring d _ none).trans (.dropActive s.ring _))
  · rw [← hne hj, ← hring]
    simp only [State.evaluateRejoin]
    split
    · rw [State.modChan_chan_ne _ _ hj]
      exact .refl
    · rw [State.modChan_chan_ne _ _ hj]
      exact ((State.Edited.raiseBreak u i _ _ b).trans (State.releasePort_edited _ i b.port)).chan j

theorem State.releaseChannel_changed {s : State} {i : Slot} {x : AlertRef} (hx : (s.chan i).active = some (.alert x)) :
    s.Changed (s.releaseChannel i) := by
  simp only [State.releaseChannel]
  split
  next hh =>
    rw [State.modChan_modChan]
    exact .modChan (.release hx (List.getLast?_eq_none_iff.mp hh))
  next a hh =>
    rw [State.awaitAlert, State.modChan_modChan]
    exact .modChan (.releaseTo _ hx hh)
  next b hh => exact State.evaluateRejoin_changed hx hh

theorem active_of_refersTo {c : Channel} {id : Ident} (h : c.active.any (Record.refersTo id) = true) :
    ∃ x, c.active = some (.alert x) ∧ x.alertId = id := by
  match hx : c.active with
  | none => simp [hx] at h
  | some (.brk b) => simp [hx, Record.refersTo] at h
  | some (.alert x) => exact ⟨x, rfl, by simpa [hx, Record.refersTo] using h⟩

theorem State.giveUp_changed (s : State) (id : Ident) (i : Slot) : s.Changed (s.giveUp id i) := by
  unfold State.giveUp
  split
  next h =>
    obtain ⟨x, hx, _⟩ := active_of_refersTo h
    exact State.releaseChannel_changed hx
  next => exact .modChan (.giveUp id)

theorem State.endAlert_changed (s : State) (r : AlertRecord) (reason : AlertReason) : s.Changed (s.endAlert r reason) := by
  unfold State.endAlert
  have h := State.Changed.foldl (fun s i => State.giveUp_changed s r.alertId i)
    (Config.slots.filter fun i => inMask r.channelSet i) s
  exact (State.Changed.trans (v := State.dropAlert _ r.alertId) h ⟨rfl, fun j => .refl⟩).trans (State.Edited.offer _ _).changed

theorem AlertOnFields.level_ranked {f : AlertOnFields} (h : f.intact = true) : 1 ≤ f.level ∧ f.level ≤ 7 := by
  have hlt : f.level < 8 := (f.control.extractLsb' 0 3).isLt
  have hne : f.level ≠ 0 := by
    unfold AlertOnFields.intact at h
    simp only [Bool.and_eq_true, bne_iff_ne] at h
    exact h.2
  omega

theorem State.overrideAlert_changed (s : State) {f : AlertOnFields} (hf : f.intact = true) (source : Byte) (w : RegionWindow) :
    s.Changed (s.overrideAlert f source w) := by
  unfold State.overrideAlert
  have hadd : s.Changed (s.addAlert (f.toRecord .override source s.timer)) := ⟨rfl, fun j => .refl⟩
  have h := hadd.trans (State.Changed.foldl
    (fun s i => s.offerAlert_changed (a := { alertId := f.alertId, level := f.level, offset := none }) (AlertOnFields.level_ranked hf) rfl i)
    (Config.slots.filter fun i => inMask w.channelSet i) _)
  have answered (u : State) (b : Bool) (n : Nat) : u.Changed (u.answerNumber b n) := by
    have hb := (u.answerNumber_lineOnly b n).sameBlocks
    exact (State.Edited.of_chan hb.ring hb.alerts hb.chan).changed
  exact (h.trans (State.Edited.offer _ _).changed).trans (answered _ _ _)

end Sys2Proof.Machine
end

section
/-!
Every operation of a block as edits of the channel records, but for the loss of a clock, a new cue and a cell written to the ring; and
the laws of chapters 1, 3 and 7 that every step keeps on that account.
-/
namespace Sys2Proof.Machine

open Sys2Proof.Safety

/-! ## RIGHTS (R117) -/

/-- The cue ids of the entries of a channel. -/
def Channel.ids (c : Channel) : List Ident := c.cues.map (·.cueId)

theorem State.releasePort_ids (s : State) (i j : Slot) (p : PortId) : ((s.releasePort i p).chan j).ids = (s.chan j).ids := by
  rcases s.releasePort_chan i p j with k | ⟨e, _, k⟩ <;> rw [k]
  exact restate_ids (s.chan j) e.cueId .cutWait

theorem State.releasePort_records (s : State) (i j : Slot) (p : PortId) :
    records ((s.releasePort i p).chan j) = records (s.chan j) := by
  rcases s.releasePort_chan i p j with k | ⟨e, _, k⟩ <;> rw [k]
  rfl

theorem State.leaveEntry_ids {s : State} {i : Slot} {e : CueEntry} {k : CutKind} {r : CutReason} {x : Ident}
    (h : x ∈ ((s.leaveEntry i e k r).chan i).ids) : x ∈ (s.chan i).ids ∧ x ≠ e.cueId := by
  have hbase : ((if e.state = .cutWait then (s.modChan i Channel.leaveCutWait).releasePort i e.port else s).chan i).ids =
      (s.chan i).ids := by
    split
    · rw [State.releasePort_ids, State.modChan_chan_same]
      rfl
    · rfl
  unfold State.leaveEntry at h
  rw [State.raiseCut_chan, State.modChan_chan_same] at h
  obtain ⟨y, hy, rfl⟩ := List.mem_map.mp h
  obtain ⟨hm, hne⟩ := mem_dropEntry.mp hy
  exact ⟨hbase ▸ List.mem_map_of_mem hm, hne⟩

theorem State.leaveEntry_records (s : State) (i j : Slot) (e : CueEntry) (k : CutKind) (r : CutReason) :
    records ((s.leaveEntry i e k r).chan j) = records (s.chan j) := by
  have around (u : State) (f : Channel → Channel) (hf : ∀ c, records (f c) = records c) :
      records ((u.modChan i f).chan j) = records (u.chan j) := by
    rw [State.modChan_chan]
    split
    · exact hf _
    · rfl
  unfold State.leaveEntry
  rw [State.raiseCut_chan, around _ _ (by intro c; rfl)]
  split
  · rw [State.releasePort_records, around _ _ (by intro c; rfl)]
  · rfl

theorem State.withdrawById_records (s : State) (i j : Slot) (r : CutReason) (id : Ident) :
    records ((s.withdrawById i r id).chan j) = records (s.chan j) := by
  unfold State.withdrawById
  split
  · exact s.leaveEntry_records i j _ _ r
  · rfl

theorem State.withdrawEntries_records (s : State) (i j : Slot) (which : CueEntry → Bool) (r : CutReason) :
    records ((s.withdrawEntries i which r).chan j) = records (s.chan j) :=
  foldl_keeps (P := fun u => records (u.chan j) = records (s.chan j)) _ rfl
    fun u h id _ => (u.withdrawById_records i j r id).trans h

theorem State.withdrawById_ids {s : State} {i : Slot} {r : CutReason} {id x : Ident} (h : x ∈ ((s.withdrawById i r id).chan i).ids) :
    x ∈ (s.chan i).ids ∧ x ≠ id := by
  unfold State.withdrawById at h
  split at h
  next e he =>
    obtain ⟨_, rfl⟩ := entry_eq_some he
    exact State.leaveEntry_ids h
  next he =>
    refine ⟨h, fun k => ?_⟩
    obtain ⟨e, hm, hid⟩ := List.mem_map.mp h
    have := entry_isSome.mpr ⟨e, hm, hid.trans k⟩
    simp [he] at this

theorem State.withdrawIds_ids {s : State} {i : Slot} {r : CutReason} {l : List Ident} {x : Ident}
    (h : x ∈ ((l.foldl (fun s id => s.withdrawById i r id) s).chan i).ids) : x ∈ (s.chan i).ids ∧ x ∉ l := by
  induction l generalizing s with
  | nil => exact ⟨h, by simp⟩
  | cons id l ih =>
    obtain ⟨h1, h2⟩ := ih h
    obtain ⟨h3, h4⟩ := State.withdrawById_ids h1
    exact ⟨h3, by simp [h2, h4]⟩

/-- Withdrawing every entry of a channel leaves it none (R117). -/
theorem State.withdrawAll_cues (s : State) (i : Slot) (r : CutReason) : ((s.withdrawEntries i (fun _ => true) r).chan i).cues = [] := by
  rw [List.eq_nil_iff_forall_not_mem]
  intro e he
  have h := State.withdrawIds_ids (List.mem_map_of_mem (f := (·.cueId)) he)
  refine h.2 ?_
  simp only [Channel.cueIds, List.filter_true]
  exact h.1

theorem State.giveRights_edited (s : State) (asked : Rights) (i : Slot) (h : asked = .guarded → (s.chan i).Breakless) :
    s.Edited (s.giveRights asked i) := by
  unfold State.giveRights
  cases asked with
  | opened => exact .modChan_edit (.takeRights _ fun k => by simp at k)
  | guarded =>
    refine (s.withdrawEntries_edited i _ _).trans (.modChan_edit (.takeRights _ fun _ => ⟨?_, s.withdrawAll_cues i _⟩))
    unfold Channel.Breakless
    rw [State.withdrawEntries_records]
    exact h rfl

theorem State.giveRights_records (s : State) (asked : Rights) (i j : Slot) :
    records ((s.giveRights asked i).chan j) = records (s.chan j) := by
  unfold State.giveRights
  have hlast (u : State) : records ((u.modChan i fun c => { c with rights := asked }).chan j) = records (u.chan j) := by
    rw [State.modChan_chan]
    split <;> rfl
  rw [hlast]
  split
  · rfl
  · exact s.withdrawEntries_records i j _ _

theorem foldl_edited {α : Type} {P : State → Prop} {f : State → α → State} (l : List α) {s : State} (hs : P s)
    (hf : ∀ s, P s → ∀ a ∈ l, s.Edited (f s a) ∧ P (f s a)) : s.Edited (l.foldl f s) := by
  induction l generalizing s with
  | nil => exact .refl s
  | cons a l ih =>
    obtain ⟨h1, h2⟩ := hf s hs a (by simp)
    exact h1.trans (ih h2 fun s hs b hb => hf s hs b (by simp [hb]))

theorem judgeRights_accepted {s : State} {m : ChanMask} {asked : Rights} (h : s.judgeRights m (some asked) = .accepted) :
    s.lock = false ∧ s.fixedOtherwise m asked = false ∧ (asked = .guarded → s.anyBreakLive m = false) := by
  simp only [State.judgeRights] at h
  split at h
  · simp at h
  split at h
  · simp at h
  split at h
  · simp at h
  next h1 h2 h3 => exact ⟨by simpa using h1, by simpa using h2, fun k => by simpa [k] using h3⟩

theorem State.applyRights_edited {s : State} {m : ChanMask} {asked : Rights} (h : s.judgeRights m (some asked) = .accepted) :
    s.Edited (s.applyRights m asked) := by
  obtain ⟨_, _, hlive⟩ := judgeRights_accepted h
  refine foldl_edited (P := fun u => asked = .guarded → ∀ i ∈ maskSlots m, (u.chan i).Breakless) _ (fun k i hi => ?_) fun u hu i hi => ?_
  · have := List.any_eq_false.mp (hlive k) i hi
    simp only [Channel.breakLive, Bool.or_eq_true, not_or, Option.not_isSome_iff_eq_none] at this
    exact breakless_of_breakRecord this.1
  · refine ⟨u.giveRights_edited asked i fun k => hu k i hi, fun k j hj => ?_⟩
    unfold Channel.Breakless
    rw [State.giveRights_records]
    exact hu k j hj

/-! ## The operations of the blocks -/

theorem findEntry_spec {s : State} {id : Ident} {i : Slot} {e : CueEntry} (h : s.findEntry id = some (i, e)) :
    (s.chan i).entry id = some e := by
  obtain ⟨j, _, hj⟩ := List.exists_of_findSome?_eq_some h
  obtain ⟨x, hx, hk⟩ := Option.map_eq_some_iff.mp hj
  obtain ⟨rfl, rfl⟩ := Prod.mk.inj hk
  exact hx

/-- The channel records come to their next by edits, between which the clock of one channel may be lost; the alert table stands. -/
def State.EditedLossy (u v : State) : Prop := ∃ w x, u.Edited w ∧ (x = w ∨ ∃ i, x = w.loseClock i) ∧ x.Edited v

/-- The channel records come to their next by edits, between which the clock of one channel may be lost. -/
def State.Evolved (u v : State) : Prop :=
  ∃ w x, u.Edited w ∧ (x = w ∨ ∃ i, x = w.loseClock i) ∧ x.Changed v

theorem State.EditedLossy.evolved {u v : State} (h : u.EditedLossy v) : u.Evolved v := by
  obtain ⟨w, x, h1, h2, h3⟩ := h
  exact ⟨w, x, h1, h2, h3.changed⟩

theorem State.Edited.lossy {u v : State} (h : u.Edited v) : u.EditedLossy v := ⟨u, u, .refl u, .inl rfl, h⟩

theorem State.Changed.evolved {u v : State} (h : u.Changed v) : u.Evolved v := ⟨u, u, .refl u, .inl rfl, h⟩

theorem State.judgeSilence_cases (s : State) (i : Slot) (t : Time) :
    s.judgeSilence i t = s ∨ (s.judgeSilence i t = s.loseClock i ∧ (s.chan i).clock.state ≠ .noClock) := by
  unfold State.judgeSilence
  split
  next h =>
    refine .inr ⟨rfl, ?_⟩
    simp only [Clock.silent, Bool.and_eq_true, bne_iff_ne] at h
    exact h.1
  next => exact .inl rfl

theorem State.Edited.openGate (s : State) (i : Slot) : s.Edited (s.modChan i fun c => { c with gateOpen := true }) :=
  .count fun _ => ⟨rfl, rfl, rfl, rfl, rfl, rfl, rfl, rfl, rfl, rfl, id⟩

/-- The operations of the alert unit that change its table (R95 to R98, R106). -/
inductive AlertOp (u : State) : State → Prop
  | refresh (f : AlertOnFields) (source : Byte) : AlertOp u (u.modAlert f.alertId fun r =>
      { r with limitStart := u.timer, limit := alertLimit f.duration, source := source })
  | observe (f : AlertOnFields) (source : Byte) (hf : f.intact = true) (h : u.alertRecord f.alertId = none)
      (hl : u.alerts.length < 8) : AlertOp u (u.addAlert (f.toRecord .observe source u.timer))
  | override (f : AlertOnFields) (source : Byte) (w : RegionWindow) (hf : f.intact = true) (h : u.alertRecord f.alertId = none)
      (hl : u.alerts.length < 8) : AlertOp u (u.overrideAlert f source w)
  | ended (r : AlertRecord) (alertId : Ident) (h : u.alertRecord alertId = some r) (reason : AlertReason) :
      AlertOp u (u.endAlert r reason)

theorem AlertOp.changed {u v : State} (h : AlertOp u v) : u.Changed v := by
  cases h with
  | refresh f source => exact ⟨rfl, fun _ => .refl⟩
  | observe f source => exact ⟨rfl, fun _ => .refl⟩
  | override f source w hf => exact u.overrideAlert_changed hf source w
  | ended r _ _ reason => exact u.endAlert_changed r reason

/-- Everything an operation of a block can do: edits of the channel records, a count or a cell of the ring, a new cue, or an operation of
the alert unit. -/
theorem BlockOp.cases {u v : State} (h : BlockOp u v) :
    u.EditedLossy v ∨
    (v.ring = { u.ring with markErrors := v.ring.markErrors } ∧ v.alerts = u.alerts ∧ ∀ j, v.chan j = u.chan j) ∨
    (∃ cell, v = u.writeRing cell) ∨
    (∃ f, (u.judgeCue f).admits = true ∧ v = u.modChan f.slot fun c => c.putEntry (f.toEntry u.timer)) ∨
    AlertOp u v := by
  have silence (u : State) (i : Slot) (t : Time) : u.judgeSilence i t = u ∨ ∃ i', u.judgeSilence i t = u.loseClock i' :=
    (u.judgeSilence_cases i t).imp_right fun k => ⟨i, k.1⟩
  cases h with
  | slotEvent i t cell hg =>
    exact .inl ⟨_, _, .openGate u i, silence _ i t, State.slotEvent_edited _ i t cell⟩
  | silence i t => exact .inl ⟨u, _, .refl u, silence u i t, .refl _⟩
  | rejoinLimit i t => exact .inl (u.judgeRejoinLimit_edited i t).lossy
  | starvation i t => exact .inl (u.judgeStarvation_edited i t).lossy
  | insertCell p cell => exact .inl (State.Edited.modPort u p _).lossy
  | ringCount => exact .inr (.inl ⟨rfl, rfl, fun _ => rfl⟩)
  | ringCell cell => exact .inr (.inr (.inl ⟨cell, rfl⟩))
  | cue f h => exact .inr (.inr (.inr (.inl ⟨f, h, rfl⟩)))
  | withdrawCue i e id h r => exact .inl (u.withdrawEntry_edited i (entry_eq_some (findEntry_spec h)).1 r).lossy
  | cancelBreak i b id h => exact .inl (u.cancelBreak_edited i b).lossy
  | refresh f src r h => exact .inr (.inr (.inr (.inr (.refresh f src))))
  | observe f src hf h hl => exact .inr (.inr (.inr (.inr (.observe f src hf h hl))))
  | override f src w hf h hl => exact .inr (.inr (.inr (.inr (.override f src w hf h hl))))
  | endAlert r id h reason => exact .inr (.inr (.inr (.inr (.ended r id h reason))))
  | rights m asked h => exact .inl (State.applyRights_edited h).lossy
  | fix m =>
    refine .inl (State.Edited.foldl (fun s i => .count (f := fun c => { c with fixed := true }) fun _ => ?_) _ u).lossy
    exact ⟨rfl, rfl, rfl, rfl, rfl, rfl, rfl, rfl, rfl, rfl, id⟩
  | latches m =>
    refine .inl (State.Edited.foldl (fun s i => .count (f := fun c => { c with activity := false }) fun _ => ?_) _ u).lossy
    exact ⟨rfl, rfl, rfl, rfl, rfl, rfl, rfl, rfl, rfl, rfl, id⟩
  | matchCut src id kind x => exact .inl (u.matchCut_edited src id kind x).lossy

/-- Everything an operation of a block can do to the channel records and the ring. -/
theorem BlockOp.evolved {u v : State} (h : BlockOp u v) :
    u.Evolved v ∨
    (v.ring = { u.ring with markErrors := v.ring.markErrors } ∧ ∀ j, v.chan j = u.chan j) ∨
    (∃ cell, v = u.writeRing cell) ∨
    ∃ f, (u.judgeCue f).admits = true ∧ v = u.modChan f.slot fun c => c.putEntry (f.toEntry u.timer) := by
  rcases h.cases with h | ⟨h1, _, h2⟩ | h | h | h
  · exact .inl h.evolved
  · exact .inr (.inl ⟨h1, h2⟩)
  · exact .inr (.inr (.inl h))
  · exact .inr (.inr (.inr h))
  · exact .inl h.changed.evolved

end Sys2Proof.Machine
end

section
/-!
The laws that every step keeps of each channel record for itself: the record law of chapter 3, the guard law of section 7.1 and the law
of the ring's readers (section 1.4).
-/
namespace Sys2Proof.Machine

open Sys2Proof.Safety

/-! ## What the edits keep, the operations keep -/

/-- The reader of a channel follows a cell written to the ring; nothing else of the channel that a law speaks of moves (R12). -/
theorem Channel.afterRingWrite_fields (after : AlertRing) (w : RingPos) (cell : StreamCell) (c : Channel) :
    ∃ reader skips disc, c.afterRingWrite after w cell =
      { c with reader := reader, ringSkipCount := skips, discDue := disc } ∧ reader.isSome = c.reader.isSome := by
  unfold Channel.afterRingWrite
  cases hr : c.reader with
  | none => exact ⟨c.reader, c.ringSkipCount, c.discDue, rfl, by rw [hr]⟩
  | some r =>
    dsimp only
    split
    · exact ⟨_, _, _, rfl, rfl⟩
    · exact ⟨_, _, _, rfl, rfl⟩

/-- A predicate of channel records that the edits keep, on this ring. -/
structure KeptByEdits (ring : AlertRing) (Q : Channel → Prop) : Prop where
  edit  : ∀ {c c'}, Edit ring c c' → Q c → Q c'
  alert : ∀ {c c'}, AlertEdit ring c c' → Q c → Q c'
  clock : ∀ c, Q c → Q { c with clock := { c.clock with state := .noClock } }

namespace KeptByEdits

variable {ring : AlertRing} {Q : Channel → Prop} {s u : State}

theorem edits (h : KeptByEdits ring Q) {c c' : Channel} (e : Edits ring c c') (hc : Q c) : Q c' := by
  induction e with
  | refl => exact hc
  | tail _ e ih => exact h.edit e ih

theorem changes (h : KeptByEdits ring Q) {c c' : Channel} (e : Changes ring c c') (hc : Q c) : Q c' := by
  induction e with
  | refl => exact hc
  | tail _ e ih => exact e.elim (h.edit · ih) (h.alert · ih)

/-- A predicate of the channel record of each slot that the edits keep is kept by every evolution of the channel records. -/
theorem evolved {Q : Slot → Channel → Prop} (h : ∀ j, KeptByEdits s.ring (Q j)) (e : s.Evolved u) (hs : ∀ j, Q j (s.chan j)) :
    u.ring = s.ring ∧ ∀ j, Q j (u.chan j) := by
  obtain ⟨w, x, h1, h2, h3⟩ := e
  have hw (j : Slot) : Q j (w.chan j) := (h j).edits (h1.chan j) (hs j)
  have hx : x.ring = s.ring ∧ ∀ j, Q j (x.chan j) := by
    rcases h2 with rfl | ⟨i, rfl⟩
    · exact ⟨h1.ring, hw⟩
    · have he := w.loseClock_edited i
      have hr : (w.dropClock i).ring = s.ring := h1.ring
      refine ⟨he.ring.trans hr, fun j => (h j).edits (hr ▸ he.chan j) ?_⟩
      rw [State.dropClock, State.modChan_chan]
      split
      next k => exact (h j).clock _ (k ▸ hw j)
      next => exact hw j
  exact ⟨h3.ring.trans hx.1, fun j => (h j).changes (hx.1 ▸ h3.chan j) (hx.2 j)⟩

end KeptByEdits

/-- A predicate of channel records that speaks of no ring is kept by every step, when the edits keep it, a reader that moves, a new
entry of an admitted CUE, and reset. -/
theorem step_keeps_channels {Q : Channel → Prop} (edits : ∀ ring, KeptByEdits ring Q)
    (reader : ∀ (c : Channel) r n d, r.isSome = c.reader.isSome → Q c → Q { c with reader := r, ringSkipCount := n, discDue := d })
    (put : ∀ (u : State) f, (u.judgeCue f).admits = true → Q (u.chan f.slot) → Q ((u.chan f.slot).putEntry (f.toEntry u.timer)))
    (reset : ∀ c : Channel, Q c.afterRstn) {s s' : State} (hs : ∀ i, Q (s.chan i))
    (h : step s = .next s') (i : Slot) : Q (s'.chan i) := by
  refine step_keeps (P := fun u => ∀ i, Q (u.chan i)) (fun u v hb hu j => ?_) (fun u v _ ho hu => ?_) (fun u v _ hc j => ?_)
    (fun u v hu hr j => ?_) hs h i
  · exact hb.chan j ▸ hu j
  · rcases ho.evolved with he | ⟨_, hc⟩ | ⟨cell, rfl⟩ | ⟨f, ha, rfl⟩
    · exact (KeptByEdits.evolved (fun _ => edits _) he hu).2
    · exact fun j => hc j ▸ hu j
    · intro j
      obtain ⟨r, n, d, k, hr⟩ := (u.chan j).afterRingWrite_fields (u.ring.write cell) u.ring.writer cell
      rw [State.writeRing_chan, k]
      exact reader _ r n d hr (hu j)
    · intro j
      rw [State.modChan_chan]
      split
      next k => exact k ▸ put u f ha (hu _)
      · exact hu j
  · obtain ⟨c, k⟩ := hc.chan j
    exact k ▸ reset c
  · exact hr.chan j ▸ hu j

/-! ## The record law -/

theorem channelLaw_keptByEdits (ring : AlertRing) : KeptByEdits ring ChannelLaw :=
  ⟨Edit.channelLaw, AlertEdit.channelLaw, fun _ h => h⟩

theorem channelLaw_reader {c : Channel} {r : Option Reader} {n : Count} {d : Bool} (hr : r.isSome = c.reader.isSome)
    (h : ChannelLaw c) : ChannelLaw { c with reader := r, ringSkipCount := n, discDue := d } := by
  unfold ChannelLaw at *
  dsimp only at *
  rw [hr]
  exact h

/-- Settles O56. -/
theorem stepKeepsTheChannelRecordLaw : Obligations.StepKeepsTheChannelRecordLaw := by
  intro s s' hs h
  exact step_keeps_channels channelLaw_keptByEdits (fun c r n d hr k => channelLaw_reader hr k) (fun u f _ k => k) 
    (fun _ => channel_reset_law) hs h

/-! ## The guard law -/

/-- What an outcome that lets a CUE into the list says of its channel and its splice time (R69). -/
structure CueAdmitted (s : State) (f : CueFields) : Prop where
  rights     : (s.chan f.slot).rights ≠ .guarded
  elsewhere  : s.idElsewhere f.slot f.cueId = false
  inProgress : (s.chan f.slot).inProgress f.cueId = false
  splice     : f.peerTrigger = false → (s.chan f.slot).clock.state = .locked ∧
    (s.chan f.slot).overlapsInterval f.cueId f.splice (breakLength (clampDuration f.duration)) = false
  room       : s.cueListFull f.slot f.cueId = false

theorem judgeSplice_refuses {s : State} {i : Slot} {id : Ident} {sp : Time} {len : Nat} {code : OutcomeCode}
    (h : s.judgeSplice i id sp len = some code) : code.admits = false := by
  have hcases : code = .noClock ∨ code = .tooLate ∨ code = .tooFar ∨ code = .overlap := by
    simp only [State.judgeSplice] at h
    grind
  rcases hcases with rfl | rfl | rfl | rfl <;> rfl

theorem judgeCueChecks_admits {s : State} {f : CueFields} (h : (s.judgeCueChecks f).admits = true) : CueAdmitted s f := by
  have refused {o : OutcomeCode} (ho : o.admits = false) : ¬ o.admits = true := by simp [ho]
  unfold State.judgeCueChecks at h
  dsimp only at h
  split at h
  · exact absurd h (refused rfl)
  next hg =>
  split at h
  · exact absurd h (refused rfl)
  next he =>
  split at h
  · exact absurd h (refused rfl)
  next hp =>
  split at h
  next code hc =>
    split at hc
    · simp at hc
    · exact absurd h (refused (judgeSplice_refuses hc))
  next hc =>
  split at h
  · exact absurd h (refused rfl)
  next hf =>
  refine ⟨hg, by simpa using he, by simpa using hp, fun k => ?_, by simpa using hf⟩
  rw [if_neg (by simp [k])] at hc
  exact judgeSplice_eq_none hc

theorem judgeCue_admits {s : State} {f : CueFields} (h : (s.judgeCue f).admits = true) : CueAdmitted s f := by
  unfold State.judgeCue at h
  split at h
  · exact judgeCueChecks_admits h
  · exact absurd h (by simp [OutcomeCode.admits])

theorem guardOk_keptByEdits (ring : AlertRing) : KeptByEdits ring Channel.GuardOk :=
  ⟨Edit.guardOk, AlertEdit.guardOk, fun _ h => h⟩

theorem step_keeps_guardLaw {s s' : State} (hs : GuardLaw s) (h : step s = .next s') : GuardLaw s' := by
  refine step_keeps_channels (Q := Channel.GuardOk) guardOk_keptByEdits (fun _ _ _ _ _ k => k) (fun u f ha _ hg => ?_)
    (fun c _ => ⟨by simp [Channel.Breakless, records, Channel.afterRstn, Channel.reset], rfl⟩) hs h
  exact absurd hg (judgeCue_admits ha).rights

/-! ## The law of the ring's readers -/

/-- The newest unit start of the ring is one (R12). -/
def AlertRing.NewestOk (r : AlertRing) : Prop := ∀ p ∈ r.newest, r.cells[p].any isUnitStart = true

theorem readsOk_keptByEdits {ring : AlertRing} (h : ring.NewestOk) : KeptByEdits ring (Channel.ReadsOk ring) :=
  ⟨fun e => e.readsOk h, fun e => e.readsOk h, fun _ h => h⟩

theorem AlertRing.write_cell_same (r : AlertRing) (cell : StreamCell) : (r.write cell).cells[r.writer] = some cell := by
  simp [AlertRing.write]

theorem AlertRing.write_cell_ne {r : AlertRing} {p : RingPos} (h : p ≠ r.writer) (cell : StreamCell) :
    (r.write cell).cells[p] = r.cells[p] := by
  simp only [AlertRing.write, Fin.getElem_fin]
  exact Vector.getElem_set_ne (by omega) (by omega) fun k => h (Fin.ext k.symm)

theorem AlertRing.write_newestOk {r : AlertRing} (h : r.NewestOk) (cell : StreamCell) : (r.write cell).NewestOk := by
  intro p hp
  by_cases hu : isUnitStart cell = true
  · obtain rfl : r.writer = p := by simpa [AlertRing.write, hu] using hp
    rw [AlertRing.write_cell_same]
    exact hu
  · have hp : (if r.newest = some r.writer then none else r.newest) = some p := by simpa [AlertRing.write, hu] using hp
    split at hp
    · simp at hp
    next hne =>
      rw [AlertRing.write_cell_ne (fun k => hne (k ▸ hp))]
      exact h p hp

/-- A write keeps what the ring law says of a channel's reader: one that is lapped moves to the newest unit start, one with a cell more
unread still stands where it did, and one that was awaiting stands at the written cell (R12, R14). -/
theorem Channel.ReadsOk.afterWrite {r : AlertRing} {c : Channel} (hr : r.NewestOk) (h : c.ReadsOk r) (cell : StreamCell) :
    (c.afterRingWrite (r.write cell) r.writer cell).ReadsOk (r.write cell) := by
  have hw : (r.write cell).writer.val = (r.writer.val + 1) % 96 := rfl
  rw [Channel.afterRingWrite_eq]
  split
  next hc => exact .of_none hc
  next hc =>
    split
    next hu =>
      intro p n hp
      obtain ⟨rfl, rfl⟩ := Reader.positioned.inj (Option.some.inj hp)
      exact ⟨by omega, hw.symm, fun _ => ⟨Nat.le_refl 1, by rw [AlertRing.write_cell_same]; exact hu⟩⟩
    next =>
      intro p n hp
      simp [hc] at hp
  next p n hc =>
    obtain ⟨hle, hreach, hstart⟩ := h p n hc
    split
    next => exact AlertRing.newReader_ok (AlertRing.write_newestOk hr cell) rfl
    next hn =>
      intro q m hq
      obtain ⟨rfl, rfl⟩ := Reader.positioned.inj (Option.some.inj hq)
      refine ⟨by omega, by omega, fun hs => ?_⟩
      obtain ⟨h1, h2⟩ := hstart hs
      have hp := p.isLt
      rw [AlertRing.write_cell_ne (fun k => by subst k; omega)]
      exact ⟨by omega, h2⟩

/-- Settles O57. -/
theorem stepKeepsTheRingLaw : Obligations.StepKeepsTheRingLaw := by
  intro s s' hs h
  refine step_keeps (P := fun u => u.ring.NewestOk ∧ ∀ i, (u.chan i).ReadsOk u.ring) (fun u v hb hu => ?_) (fun u v _ ho hu => ?_)
    (fun u v _ hc => ?_) (fun u v hu hr => ?_) hs h
  · exact ⟨hb.ring ▸ hu.1, fun j => by rw [hb.ring, hb.chan j]; exact hu.2 j⟩
  · obtain ⟨hn, hr⟩ := hu
    rcases ho.evolved with he | ⟨hv, hc⟩ | ⟨cell, rfl⟩ | ⟨f, _, rfl⟩
    · obtain ⟨hv, hq⟩ := KeptByEdits.evolved (fun _ => readsOk_keptByEdits hn) he hr
      rw [hv]
      exact ⟨hn, hq⟩
    · rw [hv]
      exact ⟨hn, fun j => hc j ▸ hr j⟩
    · exact ⟨AlertRing.write_newestOk hn cell, fun j => by rw [State.writeRing_chan]; exact (hr j).afterWrite hn cell⟩
    · refine ⟨hn, fun j => ?_⟩
      rw [State.modChan_chan]
      split
      next k =>
        subst k
        exact (hr f.slot).of_same rfl id
      · exact hr j
  · refine ⟨by rw [hc.ring]; simp [AlertRing.NewestOk, AlertRing.reset], fun j => ?_⟩
    obtain ⟨c, k⟩ := hc.chan j
    exact k ▸ .of_none rfl
  · exact ⟨hr.ring ▸ hu.1, fun j => by rw [hr.ring, hr.chan j]; exact hu.2 j⟩

end Sys2Proof.Machine
end

section
/-!
What the withdrawal of cue entries leaves of a channel (R25, R28, R76), and the cue law, the timed law, the cue id law and the loss law,
which every step keeps.
-/
namespace Sys2Proof.Machine

open Sys2Proof.Safety

/-! ## Entries that leave the list (R76) -/

/-- The channel record without the entries of these ids: it leaves CUT_WAIT with the entry that is pending there (R76). -/
def Channel.without (c : Channel) (ids : List Ident) : Channel :=
  { c with
    cues := c.cues.filter fun e => e.cueId ∉ ids
    pendingEntry := if c.pendingEntry.any (· ∈ ids) then none else c.pendingEntry
    state := if c.pendingEntry.any (· ∈ ids) then .network else c.state }

theorem Channel.without_nil (c : Channel) : c.without [] = c := by
  simp [Channel.without]

theorem Channel.without_cons (c : Channel) (id : Ident) (ids : List Ident) : (c.without [id]).without ids = c.without (id :: ids) := by
  have hcues : (c.cues.filter fun e => e.cueId ∉ [id]).filter (fun e => e.cueId ∉ ids) = c.cues.filter fun e => e.cueId ∉ id :: ids := by
    rw [List.filter_filter]
    refine List.filter_congr fun e _ => ?_
    simp [Bool.and_comm]
  have hp : (if c.pendingEntry.any (· ∈ [id]) then none else c.pendingEntry).any (· ∈ ids) =
      (!c.pendingEntry.any (· ∈ [id]) && c.pendingEntry.any (· ∈ ids)) := by
    split <;> simp_all
  have hany : c.pendingEntry.any (· ∈ id :: ids) = (c.pendingEntry.any (· ∈ [id]) || c.pendingEntry.any (· ∈ ids)) := by
    cases c.pendingEntry <;> simp
  unfold Channel.without
  dsimp only
  rw [hcues, hp, hany]
  cases c.pendingEntry.any (· ∈ [id]) <;> cases c.pendingEntry.any (· ∈ ids) <;> rfl

theorem Channel.pending_any_eq_false {c : Channel} {ids : List Ident} :
    c.pendingEntry.any (· ∈ ids) = false ↔ ∀ id ∈ ids, c.pendingEntry ≠ some id := by
  cases c.pendingEntry with
  | none => simp
  | some x => simpa using ⟨fun h id hi k => h (k ▸ hi), fun h hi => h x hi rfl⟩

theorem Channel.dropEntry_cues_eq (c : Channel) (id : Ident) : (c.dropEntry id).cues = c.cues.filter fun e => e.cueId ∉ [id] := by
  refine List.filter_congr fun e _ => ?_
  simp
  rfl

theorem Channel.without_of_not_pending {c : Channel} {ids : List Ident} (h : ∀ id ∈ ids, c.pendingEntry ≠ some id) :
    c.without ids = { c with cues := c.cues.filter fun e => e.cueId ∉ ids } := by
  unfold Channel.without
  rw [Channel.pending_any_eq_false.mpr h]
  rfl

theorem Channel.without_of_pending {c : Channel} {id : Ident} (h : c.pendingEntry = some id) :
    c.without [id] = { c with cues := (c.dropEntry id).cues, pendingEntry := none, state := .network } := by
  rw [Channel.dropEntry_cues_eq]
  unfold Channel.without
  simp [h]

theorem Channel.without_of_absent {c : Channel} (h : CueFacts c) {id : Ident} (hid : ∀ e ∈ c.cues, e.cueId ≠ id) :
    c.without [id] = c := by
  rw [Channel.without_of_not_pending]
  · have : (c.cues.filter fun e => e.cueId ∉ [id]) = c.cues := List.filter_eq_self.mpr fun e he => by simpa using hid e he
    rw [this]
  · intro x hx hp
    obtain ⟨e, he, k⟩ := h.pending_mem x hp
    exact hid e he (k.trans (List.mem_singleton.mp hx))

theorem CueFacts.without {c : Channel} (h : CueFacts c) (ids : List Ident) : CueFacts (c.without ids) := by
  have hsub : List.Sublist (c.without ids).cues c.cues := List.filter_sublist
  have hmem {e : CueEntry} (he : e ∈ (c.without ids).cues) : e ∈ c.cues ∧ e.cueId ∉ ids := by
    simpa [Channel.without] using he
  have hpend (id : Ident) : (c.without ids).pendingEntry = some id ↔ c.pendingEntry = some id ∧ id ∉ ids := by
    unfold Channel.without
    cases hp : c.pendingEntry with
    | none => simp
    | some x =>
      by_cases hx : x ∈ ids
      · simpa [hx] using fun k => k ▸ hx
      · simpa [hx] using fun k => k ▸ hx
  have hstate : (c.without ids).state = .cutWait ↔ (c.without ids).pendingEntry.isSome = true := by
    unfold Channel.without
    split
    · simp
    · exact h.pending_iff.symm
  refine ⟨hsub.length_le.trans h.few, h.nodup.sublist (hsub.map _), hstate.symm, fun id hp => ?_, fun e he => ?_,
    fun e he x hx => h.one_waits e (hsub.subset he) x (hsub.subset hx), fun k e he => ?_,
    fun e he => h.timed_iff e (hsub.subset he), fun e he => h.clamped e (hsub.subset he)⟩
  · obtain ⟨hp, hid⟩ := (hpend id).mp hp
    obtain ⟨e, he, rfl⟩ := h.pending_mem id hp
    exact ⟨e, List.mem_filter.mpr ⟨he, by simpa using hid⟩, rfl⟩
  · obtain ⟨hm, hid⟩ := hmem he
    rw [h.cutWait_iff e hm, hpend]
    exact ⟨fun k => ⟨k, hid⟩, fun k => k.1⟩
  · obtain ⟨id, hp⟩ := Option.isSome_iff_exists.mp (hstate.mp k)
    exact h.none_waits (h.pending_iff.mp (by simp [((hpend id).mp hp).1])) e (hsub.subset he)

/-- An entry that leaves the list takes its channel out of CUT_WAIT where it is the pending one, and the arbiter does not grant its port
to the channel it leaves (R10, R76). -/
theorem State.leaveEntry_chan {s : State} {i : Slot} {e : CueEntry} (h : CueFacts (s.chan i)) (he : e ∈ (s.chan i).cues) (k : CutKind)
    (r : CutReason) : (s.leaveEntry i e k r).chan i = (s.chan i).without [e.cueId] := by
  unfold State.leaveEntry
  rw [State.raiseCut_chan, State.modChan_chan_same]
  by_cases hs : e.state = .cutWait
  · have hp := (h.cutWait_iff e he).mp hs
    have hc := h.pending_iff.mp (by simp [hp])
    rw [if_pos hs, State.releasePort_chan_of_none, State.modChan_chan_same, Channel.without_of_pending hp]
    · simp [Channel.leaveCutWait, hc, Channel.dropEntry]
    · rw [State.modChan_chan_same]
      exact h.none_waits hc
  · rw [if_neg hs, Channel.without_of_not_pending, ← Channel.dropEntry_cues_eq]
    · rfl
    · intro id hid
      rw [List.mem_singleton.mp hid]
      exact mt (h.cutWait_iff e he).mpr hs

theorem State.withdrawById_chan {s : State} {i : Slot} (h : CueFacts (s.chan i)) (r : CutReason) (id : Ident) :
    (s.withdrawById i r id).chan i = (s.chan i).without [id] := by
  unfold State.withdrawById
  split
  next e he =>
    obtain ⟨hm, rfl⟩ := entry_eq_some he
    exact State.leaveEntry_chan h hm _ r
  next hn =>
    refine (Channel.without_of_absent h fun e he k => ?_).symm
    have := entry_isSome.mpr ⟨e, he, k⟩
    simp [hn] at this

theorem State.withdrawIds_chan {s : State} {i : Slot} (h : CueFacts (s.chan i)) (r : CutReason) (ids : List Ident) :
    (ids.foldl (fun s id => s.withdrawById i r id) s).chan i = (s.chan i).without ids := by
  induction ids generalizing s with
  | nil => exact (Channel.without_nil _).symm
  | cons id ids ih =>
    have hid := State.withdrawById_chan h r id
    rw [List.foldl_cons, ih (hid ▸ h.without [id]), hid, Channel.without_cons]

/-- The channel record without its timed entries: it leaves CUT_WAIT (R25, R28). -/
def Channel.withoutTimed (c : Channel) : Channel :=
  { c with
    cues := c.cues.filter fun e => !e.isTimed
    pendingEntry := none
    state := if c.state = .cutWait then .network else c.state }

theorem Channel.withoutTimed_eq {c : Channel} (h : CueFacts c) : c.without (c.cueIds CueEntry.isTimed) = c.withoutTimed := by
  have hid {e : CueEntry} (he : e ∈ c.cues) : e.cueId ∈ c.cueIds CueEntry.isTimed ↔ e.isTimed = true := by
    simp only [Channel.cueIds, List.mem_map, List.mem_filter]
    refine ⟨fun ⟨x, ⟨hx, ht⟩, k⟩ => h.unique hx he k ▸ ht, fun k => ⟨e, ⟨he, k⟩, rfl⟩⟩
  have hcues : (c.cues.filter fun e => e.cueId ∉ c.cueIds CueEntry.isTimed) = c.cues.filter fun e => !e.isTimed :=
    List.filter_congr fun e he => by simp [hid he]
  unfold Channel.without Channel.withoutTimed
  rw [hcues]
  cases hp : c.pendingEntry with
  | none =>
    have hs : c.state ≠ .cutWait := fun k => by simpa [hp] using h.pending_iff.mpr k
    simp [hs]
  | some id =>
    obtain ⟨e, he, rfl⟩ := h.pending_mem id hp
    have hst := (h.cutWait_iff e he).mpr hp
    have hmem := (hid he).mpr (by simp [CueEntry.isTimed, hst])
    have hs := h.pending_iff.mp (by simp [hp])
    simp [hmem, hs]

/-- The withdrawal of its timed entries leaves exactly this of a channel (R25, R28). -/
theorem State.withdrawTimed_chan {s : State} {i : Slot} (h : CueFacts (s.chan i)) (r : CutReason) :
    (s.withdrawEntries i CueEntry.isTimed r).chan i = (s.chan i).withoutTimed :=
  (State.withdrawIds_chan h r _).trans (Channel.withoutTimed_eq h)

theorem Channel.withoutTimed_law {c : Channel} (h : ChannelLaw c) : ChannelLaw c.withoutTimed := by
  by_cases hs : c.state = .cutWait
  · exact channelLaw_of_idle h (.inr hs) (.inl (if_pos hs)) rfl rfl rfl rfl rfl rfl
  · have hst : c.withoutTimed.state = c.state := if_neg hs
    unfold ChannelLaw recordsFit records Channel.activeBreak at *
    rw [hst]
    exact h

/-- What the loss of its clock leaves of a lawful channel (R27 to R29). -/
theorem State.loseClock_chan {s : State} {i : Slot} (h : (s.chan i).Lawful) :
    (s.loseClock i).chan i = (Channel.withoutTimed
      { s.chan i with clock := { (s.chan i).clock with state := .noClock } }).dropBreak.afterLoss := by
  have hc : (s.dropClock i).chan i = { s.chan i with clock := { (s.chan i).clock with state := .noClock } } :=
    State.modChan_chan_same ..
  have hcues : CueFacts ((s.dropClock i).chan i) := by
    rw [hc]
    exact h.cues.of_same rfl rfl Iff.rfl
  have hw := State.withdrawTimed_chan hcues .clockLost
  unfold State.loseClock
  rw [State.loseBreak_chan]
  · exact congrArg (fun c => c.dropBreak.afterLoss) (hw.trans (by rw [hc]))
  · have hr : ChannelLaw ((s.dropClock i).chan i) := by rw [hc]; exact h.records
    exact hw ▸ Channel.withoutTimed_law hr

end Sys2Proof.Machine
end

section
/-!
The cue law, the timed law, the cue id law and the loss law, which every step keeps where the channels keep their records (sections 2.4,
4.3, 5.1).
-/
namespace Sys2Proof.Machine

open Sys2Proof.Safety

/-! ## A lawful channel, kept -/

theorem Channel.Lawful.of_clock {c : Channel} (h : c.Lawful) (k : Clock) : Channel.Lawful { c with clock := k } :=
  ⟨h.records, h.cues.of_same rfl rfl Iff.rfl⟩

theorem lawful_keptByEdits (ring : AlertRing) : KeptByEdits ring Channel.Lawful :=
  ⟨Edit.lawful, AlertEdit.lawful, fun _ h => h.of_clock _⟩

theorem lawful_of_laws {s : State} (h : ChannelsLaw s) (k : CuesLaw s) (i : Slot) : (s.chan i).Lawful := ⟨h i, cueLaw_iff.mp (k.1 i)⟩

theorem clampDuration_clamped (ms : Nat) : 1000 ≤ clampDuration ms ∧ clampDuration ms ≤ 14400000 := by
  unfold clampDuration
  split
  · omega
  split
  · omega
  · omega

theorem inProgress_eq_false {c : Channel} (h : CueFacts c) {id : Ident} (k : c.inProgress id = false) :
    c.pendingEntry ≠ some id ∧ c.hasBreak id = false := by
  simp only [Channel.inProgress, Bool.or_eq_false_iff] at k
  refine ⟨fun hp => ?_, k.2⟩
  obtain ⟨e, he, rfl⟩ := h.pending_mem id hp
  obtain ⟨x, hx⟩ := Option.isSome_iff_exists.mp (entry_isSome.mpr ⟨e, he, rfl⟩)
  obtain ⟨hm, hid⟩ := entry_eq_some hx
  have hst : x.state ≠ .cutWait := by simpa [hx] using k.1
  exact hst ((h.cutWait_iff x hm).mpr (hid ▸ hp))

theorem CueFields.toEntry_placeable (f : CueFields) (t : Time) :
    (f.toEntry t).state ≠ .cutWait ∧ (f.toEntry t).state ≠ .portWait ∧ (f.toEntry t).splice.isSome = (f.toEntry t).isTimed := by
  cases h : f.peerTrigger <;> simp [CueFields.toEntry, CueEntry.isTimed, h]

theorem cueListFull_eq_false {s : State} {i : Slot} {id : Ident} (h : s.cueListFull i id = false) :
    s.cueTotal - ((s.chan i).cues.length - ((s.chan i).dropEntry id).cues.length) < 64 ∧ ((s.chan i).dropEntry id).cues.length < 8 := by
  obtain ⟨h1, h2⟩ := Bool.or_eq_false_iff.mp h
  exact ⟨Nat.lt_of_not_le (of_decide_eq_false h1), Nat.lt_of_not_le (of_decide_eq_false h2)⟩

/-- The entry of an admitted CUE leaves the channel lawful (R70). -/
theorem CueAdmitted.lawful {s : State} {f : CueFields} (h : CueAdmitted s f) (k : (s.chan f.slot).Lawful) (t : Time) :
    ((s.chan f.slot).putEntry (f.toEntry t)).Lawful := by
  obtain ⟨h1, h2, h3⟩ := f.toEntry_placeable t
  exact ⟨k.records, k.cues.put (cueListFull_eq_false h.room).2 (inProgress_eq_false k.cues h.inProgress).1 h1 h2 h3 (clampDuration_clamped _)⟩

/-! ## The length of the whole list (R67) -/

theorem sum_eq_of_others {α : Type} {l : List α} (hn : l.Nodup) {i : α} (hi : i ∈ l) {f g : α → Nat} (h : ∀ j, j ≠ i → f j = g j) :
    (l.map f).sum + g i = (l.map g).sum + f i := by
  induction l with
  | nil => simp at hi
  | cons x l ih =>
    obtain ⟨hx, hn⟩ := List.nodup_cons.mp hn
    simp only [List.map_cons, List.sum_cons]
    rcases List.mem_cons.mp hi with rfl | hi
    · have : l.map f = l.map g := List.map_congr_left fun j hj => h j fun k => hx (k ▸ hj)
      rw [this]
      omega
    · have := ih hn hi
      have := h x fun k => hx (k ▸ hi)
      omega

theorem slots_nodup : Config.slots.Nodup := List.nodup_finRange 16

theorem mem_slots (i : Slot) : i ∈ Config.slots := List.mem_finRange i

theorem cueTotal_le {s u : State} (h : ∀ i, (u.chan i).cues.length ≤ (s.chan i).cues.length) : u.cueTotal ≤ s.cueTotal :=
  List.sum_le_sum fun i _ => h i

theorem State.cueTotal_modChan (s : State) (i : Slot) (f : Channel → Channel) :
    (s.modChan i f).cueTotal + (s.chan i).cues.length = s.cueTotal + (f (s.chan i)).cues.length := by
  have h := sum_eq_of_others slots_nodup (mem_slots i) (f := fun j => ((s.modChan i f).chan j).cues.length)
    (g := fun j => (s.chan j).cues.length) fun j hj => by rw [State.modChan_chan_ne _ _ hj]
  rw [State.modChan_chan_same] at h
  exact h

theorem CueAdmitted.room_total {s : State} {f : CueFields} (h : CueAdmitted s f) (t : Time) :
    (s.modChan f.slot fun c => c.putEntry (f.toEntry t)).cueTotal ≤ 64 := by
  have hsum := s.cueTotal_modChan f.slot fun c => c.putEntry (f.toEntry t)
  rw [putEntry_length] at hsum
  have hle := (dropEntry_sublist (s.chan f.slot) f.cueId).length_le
  have hroom := (cueListFull_eq_false h.room).1
  have : ((s.chan f.slot).dropEntry (f.toEntry t).cueId).cues.length = ((s.chan f.slot).dropEntry f.cueId).cues.length := rfl
  omega

theorem lawful_within_keptByEdits (ring : AlertRing) (n : Nat) : KeptByEdits ring fun c => c.Lawful ∧ c.cues.length ≤ n :=
  ⟨fun e h => ⟨e.lawful h.1, (e.cues_length h.1.records).trans h.2⟩,
    fun e h => ⟨e.lawful h.1, by rw [e.cues_eq h.1]; exact h.2⟩, fun _ h => ⟨h.1.of_clock _, h.2⟩⟩

/-! ## The cue law, the timed law -/

/-- A law of the channels and of the whole cue list that reset meets is kept by every step, when the operations of the blocks keep it. -/
theorem step_keeps_channels_law {P : State → Prop} (chans : ∀ {u v : State}, (∀ i, v.chan i = u.chan i) → P u → P v)
    (evolved : ∀ {u v : State}, u.Evolved v → P u → P v)
    (reader : ∀ {u : State} {cell : StreamCell}, P u → P (u.writeRing cell))
    (put : ∀ {u : State} {f : CueFields}, CueAdmitted u f → P u → P (u.modChan f.slot fun c => c.putEntry (f.toEntry u.timer)))
    (cleared : ∀ {u : State}, u.Cleared → P u) {s s' : State} (hs : P s) (h : step s = .next s') : P s' := by
  refine step_keeps (fun u v hb hu => chans hb.chan hu) (fun u v _ ho hu => ?_) (fun u v _ hc => cleared hc)
    (fun u v hu hr => chans hr.chan hu) hs h
  rcases ho.evolved with he | ⟨_, hc⟩ | ⟨cell, rfl⟩ | ⟨f, ha, rfl⟩
  · exact evolved he hu
  · exact chans hc hu
  · exact reader hu
  · exact put (judgeCue_admits ha) hu

theorem cueTotal_congr {s u : State} (h : ∀ i, (u.chan i).cues = (s.chan i).cues) : u.cueTotal = s.cueTotal :=
  congrArg List.sum (List.map_congr_left fun i _ => by rw [h i])

theorem writeRing_cues (u : State) (cell : StreamCell) (i : Slot) : ((u.writeRing cell).chan i).cues = (u.chan i).cues := by
  obtain ⟨r, n, d, k, _⟩ := (u.chan i).afterRingWrite_fields (u.ring.write cell) u.ring.writer cell
  rw [State.writeRing_chan, k]

theorem writeRing_lawful {u : State} {i : Slot} (h : (u.chan i).Lawful) (cell : StreamCell) : ((u.writeRing cell).chan i).Lawful := by
  obtain ⟨r, n, d, k, hr⟩ := (u.chan i).afterRingWrite_fields (u.ring.write cell) u.ring.writer cell
  rw [State.writeRing_chan, k]
  exact ⟨channelLaw_reader hr h.records, h.cues.of_same rfl rfl Iff.rfl⟩

theorem afterRstn_lawful (c : Channel) : c.afterRstn.Lawful :=
  ⟨channel_reset_law, (cueLaw_iff.mp channel_reset_cueLaw).of_same rfl rfl Iff.rfl⟩

theorem State.Cleared.lawful {u : State} (h : u.Cleared) (i : Slot) : (u.chan i).Lawful := by
  obtain ⟨c, k⟩ := h.chan i
  exact k ▸ afterRstn_lawful c

theorem State.Cleared.cues {u : State} (h : u.Cleared) (i : Slot) : (u.chan i).cues = [] := by
  obtain ⟨c, k⟩ := h.chan i
  exact k ▸ rfl

theorem step_keeps_cues {s s' : State} (hs : (∀ i, (s.chan i).Lawful) ∧ s.cueTotal ≤ 64) (h : step s = .next s') :
    (∀ i, (s'.chan i).Lawful) ∧ s'.cueTotal ≤ 64 := by
  refine step_keeps_channels_law (P := fun u => (∀ i, (u.chan i).Lawful) ∧ u.cueTotal ≤ 64) (fun hc hu => ?_) (fun {u v} he hu => ?_)
    (fun hu => ?_) (fun {u f} ha hu => ?_) (fun hc => ?_) hs h
  · exact ⟨fun i => hc i ▸ hu.1 i, (cueTotal_congr fun i => by rw [hc i]).trans_le hu.2⟩
  · obtain ⟨_, hv⟩ := KeptByEdits.evolved (Q := fun j c => c.Lawful ∧ c.cues.length ≤ (u.chan j).cues.length)
      (fun _ => lawful_within_keptByEdits _ _) he fun j => ⟨hu.1 j, Nat.le_refl _⟩
    exact ⟨fun i => (hv i).1, (cueTotal_le fun i => (hv i).2).trans hu.2⟩
  · exact ⟨fun i => writeRing_lawful (hu.1 i) _, (cueTotal_congr fun i => writeRing_cues _ _ i).trans_le hu.2⟩
  · refine ⟨fun i => ?_, ha.room_total _⟩
    rw [State.modChan_chan]
    split
    next k => exact k ▸ ha.lawful (hu.1 f.slot) _
    next => exact hu.1 i
  · refine ⟨hc.lawful, ?_⟩
    have : (State.cueTotal _) = (Config.slots.map fun _ => 0).sum :=
      congrArg List.sum (List.map_congr_left fun i _ => by rw [hc.cues i]; rfl)
    simp [this]

theorem timed_keptByEdits (ring : AlertRing) : KeptByEdits ring fun c => c.Lawful ∧ c.cues.Pairwise InOrder :=
  ⟨fun e h => ⟨e.lawful h.1, e.inOrder h.1 h.2⟩, fun e h => ⟨e.lawful h.1, by rw [e.cues_eq h.1]; exact h.2⟩,
    fun _ h => ⟨h.1.of_clock _, h.2⟩⟩

/-- The entry of an admitted CUE stands in the order of the splice times, apart from the others (R57, R69, R70). -/
theorem CueAdmitted.inOrder {s : State} {f : CueFields} (h : CueAdmitted s f) (k : (s.chan f.slot).cues.Pairwise InOrder) (t : Time) :
    ((s.chan f.slot).putEntry (f.toEntry t)).cues.Pairwise InOrder := by
  refine placeEntry_inOrder (k.sublist (dropEntry_sublist _ _)) fun sp hsp => ?_
  cases hp : f.peerTrigger with
  | true => simp [CueFields.toEntry, hp] at hsp
  | false =>
    obtain rfl : f.splice = sp := by simpa [CueFields.toEntry, hp] using hsp
    exact overlapsInterval_eq_false (h.splice hp).2

/-- Settles O58. -/
theorem stepKeepsTheCueLaw : Obligations.StepKeepsTheCueLaw := by
  intro s s' hr hc h
  have hlawful := lawful_of_laws hr hc
  obtain ⟨hl, ht⟩ := step_keeps_cues ⟨hlawful, hc.2⟩ h
  refine ⟨⟨fun i => cueLaw_iff.mpr (hl i).cues, ht⟩, fun htimed => ?_⟩
  have hkept := step_keeps_channels (Q := fun c => c.Lawful ∧ c.cues.Pairwise InOrder) timed_keptByEdits
    (fun c r n d hr k => ⟨⟨channelLaw_reader hr k.1.records, k.1.cues.of_same rfl rfl Iff.rfl⟩, k.2⟩)
    (fun u f ha k => ⟨(judgeCue_admits ha).lawful k.1 _, (judgeCue_admits ha).inOrder k.2 _⟩)
    (fun c => ⟨afterRstn_lawful c, List.Pairwise.nil⟩) (fun i => ⟨hlawful i, htimed i⟩) h
  exact fun i => (hkept i).2

/-! ## The cue id law (R67) -/

/-- A channel whose break is active holds no record beneath it (R35). -/
theorem hold_of_activeBreak {c : Channel} (h : ChannelLaw c) {b : BreakRecord} (ha : c.active = some (.brk b)) : c.hold = [] := by
  rcases c.state.cases with hs | hs | hs | hs
  · simp [((channelLaw_idle hs).mp h).1] at ha
  · exact ((channelLaw_onBreak hs).mp h).2.1
  · exact ((channelLaw_returnWait hs).mp h).2.1
  · obtain ⟨⟨a, hx, _⟩, _⟩ := (channelLaw_alerted hs).mp h
    simp [hx] at ha

theorem breaks_eq_breakRecord {c : Channel} (h : ChannelLaw c) : (records c).filterMap Record.break? = c.breakRecord.toList := by
  have held (k : HeldLaw c.hold) : c.hold.filterMap Record.break? = c.heldBreak.toList := by
    cases hc : c.hold with
    | nil => simp [Channel.heldBreak, hc]
    | cons r rest =>
      have hrest : rest.filterMap Record.break? = [] := List.filterMap_eq_nil_iff.mpr (by simpa [hc] using k.2.1)
      rw [Channel.heldBreak, hc]
      cases r with
      | alert a => rw [show (Record.alert a :: rest).filterMap Record.break? = [] from hrest]; rfl
      | brk b => rw [show (Record.brk b :: rest).filterMap Record.break? = [b] from congrArg (b :: ·) hrest]; rfl
  rw [records, List.filterMap_append]
  cases ha : c.active with
  | none =>
    have hb : c.activeBreak = none := by simp [Channel.activeBreak, ha]
    rw [breakRecord_of_held hb, held (heldLaw_of_channelLaw h)]
    rfl
  | some r =>
    cases r with
    | alert a =>
      have hb : c.activeBreak = none := by simp [Channel.activeBreak, ha, Record.break?]
      rw [breakRecord_of_held hb, held (heldLaw_of_channelLaw h)]
      rfl
    | brk b =>
      rw [breakRecord_of_active (activeBreak_eq_some.mpr ha)]
      rw [hold_of_activeBreak h ha]
      rfl

/-- An id that a lawful channel uses is that of an entry or of its break record (R69). -/
theorem mem_usedIds {c : Channel} (h : ChannelLaw c) (id : Ident) : id ∈ usedIds c ↔ c.usesId id = true := by
  have hb : (records c).filterMap (fun r => r.break?.map (·.cueId)) = c.breakRecord.toList.map (·.cueId) := by
    rw [← breaks_eq_breakRecord h, List.map_filterMap]
  unfold usedIds Channel.usesId Channel.hasBreak
  rw [hb, Bool.or_eq_true, entry_isSome, List.mem_append, List.mem_map]
  refine or_congr Iff.rfl ?_
  cases c.breakRecord with
  | none => simp
  | some b =>
    rw [Option.any_some, beq_iff_eq, Option.toList_some, List.map_singleton, List.mem_singleton]
    exact eq_comm

theorem idLaw_iff (s : State) : IdLaw s ↔ ∀ x, (Config.slots.map fun i => (usedIds (s.chan i)).count x).sum ≤ 1 := by
  unfold IdLaw
  rw [List.nodup_iff_count_le_one]
  exact forall_congr' fun x => by rw [List.count_flatMap]; rfl

theorem idLaw_within {s u : State} (h : IdLaw s) (k : ∀ i, (u.chan i).IdsWithin (s.chan i)) : IdLaw u :=
  (idLaw_iff u).mpr fun x => (List.sum_le_sum fun i _ => k i x).trans ((idLaw_iff s).mp h x)

theorem idsWithin_keptByEdits (ring : AlertRing) (c₀ : Channel) : KeptByEdits ring fun c => c.Lawful ∧ c.IdsWithin c₀ :=
  ⟨fun e h => ⟨e.lawful h.1, fun x => (e.idsWithin h.1 x).trans (h.2 x)⟩,
    fun e h => ⟨e.lawful h.1, fun x => (e.idsWithin h.1 x).trans (h.2 x)⟩, fun _ h => ⟨h.1.of_clock _, h.2⟩⟩

theorem idElsewhere_eq_false {s : State} {i : Slot} {id : Ident} (h : s.idElsewhere i id = false) {j : Slot} (hj : j ≠ i) :
    (s.chan j).usesId id = false := by
  simpa [hj] using List.any_eq_false.mp h j (mem_slots j)

/-- The entry of an admitted CUE brings the station its one new id (R69). -/
theorem CueAdmitted.idLaw {s : State} {f : CueFields} (h : CueAdmitted s f) (hl : ∀ i, (s.chan i).Lawful) (k : IdLaw s) (t : Time) :
    IdLaw (s.modChan f.slot fun c => c.putEntry (f.toEntry t)) := by
  rw [idLaw_iff] at k ⊢
  intro x
  have hother {j : Slot} (hj : j ≠ f.slot) : (s.modChan f.slot fun c => c.putEntry (f.toEntry t)).chan j = s.chan j :=
    State.modChan_chan_ne _ _ hj
  have hown : (usedIds ((s.chan f.slot).putEntry (f.toEntry t))).count x ≤ (usedIds (s.chan f.slot)).count x + [f.cueId].count x := by
    have h1 := count_putEntry (s.chan f.slot) (f.toEntry t) x
    have h2 := count_dropEntry (c := s.chan f.slot) (f.toEntry t).cueId x
    have h3 : ((f.toEntry t).cueId) = f.cueId := rfl
    rw [count_usedIds, count_usedIds]
    rw [h3] at h1 h2
    have h4 : ((s.chan f.slot).putEntry (f.toEntry t)).active = (s.chan f.slot).active := rfl
    have h5 : ((s.chan f.slot).putEntry (f.toEntry t)).hold = (s.chan f.slot).hold := rfl
    rw [h4, h5]
    omega
  by_cases hx : x = f.cueId
  · subst hx
    have hzero (j : Slot) (hj : j ≠ f.slot) : (usedIds (s.chan j)).count f.cueId = 0 := by
      rw [List.count_eq_zero, mem_usedIds (hl j).records, idElsewhere_eq_false h.elsewhere hj]
      simp
    have hsum := sum_eq_of_others slots_nodup (mem_slots f.slot)
      (f := fun j => (usedIds ((s.modChan f.slot fun c => c.putEntry (f.toEntry t)).chan j)).count f.cueId) (g := fun _ => 0)
      fun j hj => by rw [hother hj, hzero j hj]
    have hbreak : ((records (s.chan f.slot)).filterMap fun r => r.break?.map (·.cueId)).count f.cueId = 0 := by
      have := (inProgress_eq_false (hl f.slot).cues h.inProgress).2
      rw [List.count_eq_zero, ← List.map_filterMap, breaks_eq_breakRecord (hl f.slot).records]
      intro hm
      obtain ⟨b, hb, hid⟩ := List.mem_map.mp hm
      rw [Channel.hasBreak, Option.mem_toList.mp hb] at this
      simp [hid] at this
    have hone : (usedIds ((s.chan f.slot).putEntry (f.toEntry t))).count f.cueId = 1 := by
      have h1 := count_putEntry (s.chan f.slot) (f.toEntry t) f.cueId
      have h2 : (((s.chan f.slot).dropEntry (f.toEntry t).cueId).cues.map (·.cueId)).count f.cueId = 0 := by
        rw [List.count_eq_zero]
        intro hm
        obtain ⟨e, he, hid⟩ := List.mem_map.mp hm
        exact (mem_dropEntry.mp he).2 hid
      have h3 : ((f.toEntry t).cueId) = f.cueId := rfl
      have h4 : records ((s.chan f.slot).putEntry (f.toEntry t)) = records (s.chan f.slot) := rfl
      rw [usedIds, List.count_append, h1, h2, h4, hbreak, h3]
      simp
    simp only [State.modChan_chan_same, hone] at hsum
    simp at hsum
    omega
  · have hzero : [f.cueId].count x = 0 := List.count_eq_zero.mpr (by simpa using hx)
    refine (List.sum_le_sum fun j _ => ?_).trans (k x)
    by_cases hj : j = f.slot
    · subst hj
      rw [State.modChan_chan_same]
      omega
    · rw [hother hj]

/-! ## The loss law (R28, R29) -/

theorem Channel.afterLoss_fields (c : Channel) : records c.afterLoss = records c ∧ c.afterLoss.cues = c.cues ∧ c.afterLoss.clock = c.clock := by
  unfold Channel.afterLoss
  split <;> exact ⟨rfl, rfl, rfl⟩

theorem Channel.dropBreak_fields (c : Channel) : c.dropBreak.cues = c.cues ∧ c.dropBreak.clock = c.clock := by
  unfold Channel.dropBreak
  split <;> exact ⟨rfl, rfl⟩

/-- A channel whose hold stack is empty under a break has no break once it has dropped it. -/
theorem dropBreak_breakless {c : Channel} (h : ChannelLaw c) : c.dropBreak.Breakless := by
  cases hb : c.activeBreak with
  | none =>
    rw [dropBreak_of_held hb]
    refine breakless_iff.mpr ⟨fun b k => absurd (activeBreak_eq_some (c := c) |>.mpr k) (by simp [hb]), fun b k => ?_⟩
    exact absurd (List.mem_filter.mp k).2 (by simp [Record.break?])
  | some b =>
    have ha := activeBreak_eq_some.mp hb
    have hhold := hold_of_activeBreak h ha
    rw [dropBreak_of_active hb]
    exact breakless_iff.mpr ⟨by simp, by simp [hhold]⟩

theorem State.loseClock_lossOk {s : State} {i : Slot} (h : (s.chan i).Lawful) :
    (((s.loseClock i).chan i).Breakless ∧ ∀ e ∈ ((s.loseClock i).chan i).cues, e.isTimed = false) := by
  rw [State.loseClock_chan h]
  have hr : ChannelLaw { s.chan i with clock := { (s.chan i).clock with state := .noClock } } := h.records
  obtain ⟨h1, h2, _⟩ := (Channel.withoutTimed { s.chan i with clock := { (s.chan i).clock with state := .noClock } }).dropBreak.afterLoss_fields
  refine ⟨?_, fun e he => ?_⟩
  · unfold Channel.Breakless
    rw [h1]
    exact dropBreak_breakless (Channel.withoutTimed_law hr)
  · rw [h2, (Channel.dropBreak_fields _).1] at he
    simpa using (List.mem_filter.mp he).2

/-- The channel is lawful, and the loss law holds of it. -/
def Channel.LawfulLoss (c : Channel) : Prop := c.Lawful ∧ c.LossOk

theorem Edits.lawfulLoss {ring : AlertRing} {c c' : Channel} (e : Edits ring c c') (h : c.LawfulLoss) : c'.LawfulLoss := by
  induction e with
  | refl => exact h
  | tail _ e ih => exact ⟨e.lawful ih.1, e.lossOk ih.1 ih.2⟩

theorem Changes.lawfulLoss {ring : AlertRing} {c c' : Channel} (e : Changes ring c c') (h : c.LawfulLoss) : c'.LawfulLoss := by
  induction e with
  | refl => exact h
  | tail _ e ih => exact e.elim (fun e => ⟨e.lawful ih.1, e.lossOk ih.1 ih.2⟩) fun e => ⟨e.lawful ih.1, e.lossOk ih.1 ih.2⟩

theorem State.Evolved.lawfulLoss {u v : State} (e : u.Evolved v) (h : ∀ i, (u.chan i).LawfulLoss) (i : Slot) : (v.chan i).LawfulLoss := by
  obtain ⟨w, x, h1, h2, h3⟩ := e
  have hw (j : Slot) : (w.chan j).LawfulLoss := (h1.chan j).lawfulLoss (h j)
  have hx : ∀ j, (x.chan j).LawfulLoss := by
    rcases h2 with rfl | ⟨k, rfl⟩
    · exact hw
    · intro j
      by_cases hj : j = k
      · subst hj
        have hlawful : ((w.dropClock j).chan j).Lawful := by
          rw [State.dropClock, State.modChan_chan_same]
          exact (hw j).1.of_clock _
        have he := (w.loseClock_edited j).chan j
        exact ⟨(lawful_keptByEdits _).edits he hlawful, fun _ => State.loseClock_lossOk (hw j).1⟩
      · refine ((w.loseClock_edited k).chan j).lawfulLoss ?_
        rw [State.dropClock, State.modChan_chan_ne _ _ hj]
        exact hw j
  exact (h3.chan i).lawfulLoss (hx i)

theorem step_keeps_lossLaw {s s' : State} (hs : ∀ i, (s.chan i).LawfulLoss) (h : step s = .next s') (i : Slot) :
    (s'.chan i).LawfulLoss := by
  refine step_keeps_channels_law (P := fun u => ∀ i, (u.chan i).LawfulLoss) (fun hc hu j => hc j ▸ hu j) (fun he hu => he.lawfulLoss hu)
    (fun {u cell} hu j => ?_) (fun {u f} ha hu j => ?_) (fun {u} hc j => ?_) hs h i
  · refine ⟨writeRing_lawful (hu j).1 cell, ?_⟩
    obtain ⟨r, n, d, k, _⟩ := (u.chan j).afterRingWrite_fields (u.ring.write cell) u.ring.writer cell
    rw [State.writeRing_chan, k]
    exact (hu j).2
  · rw [State.modChan_chan]
    split
    next k =>
      subst k
      refine ⟨ha.lawful (hu f.slot).1 _, fun hk => ?_⟩
      obtain ⟨hb, ht⟩ := (hu f.slot).2 hk
      refine ⟨hb, fun e he => ?_⟩
      rcases mem_putEntry.mp he with rfl | ⟨he, _⟩
      · cases hp : f.peerTrigger with
        | true => simp [CueFields.toEntry, CueEntry.isTimed, hp]
        | false =>
          have hlocked := (ha.splice hp).1
          have hk : (u.chan f.slot).clock.state = .noClock := hk
          simp [hlocked] at hk
      · exact ht e he
    next => exact hu j
  · refine ⟨hc.lawful j, fun _ => ?_⟩
    obtain ⟨c, k⟩ := hc.chan j
    rw [k]
    exact ⟨by simp [Channel.Breakless, records, Channel.afterRstn, Channel.reset], by simp [Channel.afterRstn, Channel.reset]⟩

theorem step_keeps_idLaw {s s' : State} (hs : (∀ i, (s.chan i).Lawful) ∧ IdLaw s) (h : step s = .next s') : IdLaw s' := by
  refine And.right (step_keeps_channels_law (P := fun u => (∀ i, (u.chan i).Lawful) ∧ IdLaw u) (fun hc hu => ?_) (fun {u v} he hu => ?_)
    (fun {u cell} hu => ?_) (fun {u f} ha hu => ?_) (fun {u} hc => ?_) hs h)
  · exact ⟨fun i => hc i ▸ hu.1 i, idLaw_within hu.2 fun i x => by rw [hc i]⟩
  · obtain ⟨_, hv⟩ := KeptByEdits.evolved (Q := fun j c => c.Lawful ∧ c.IdsWithin (u.chan j))
      (fun _ => idsWithin_keptByEdits _ _) he fun j => ⟨hu.1 j, fun _ => Nat.le_refl _⟩
    exact ⟨fun i => (hv i).1, idLaw_within hu.2 fun i => (hv i).2⟩
  · refine ⟨fun i => writeRing_lawful (hu.1 i) _, idLaw_within hu.2 fun i x => ?_⟩
    obtain ⟨r, n, d, k, _⟩ := (u.chan i).afterRingWrite_fields (u.ring.write cell) u.ring.writer cell
    rw [State.writeRing_chan, k]
    exact Nat.le_refl _
  · refine ⟨fun i => ?_, ha.idLaw hu.1 hu.2 _⟩
    rw [State.modChan_chan]
    split
    next k => exact k ▸ ha.lawful (hu.1 f.slot) _
    next => exact hu.1 i
  · refine ⟨hc.lawful, (idLaw_iff u).mpr fun x => ?_⟩
    have hzero (i : Slot) : (usedIds (u.chan i)).count x = 0 := by
      obtain ⟨c, k⟩ := hc.chan i
      rw [k]
      rfl
    simp [hzero]

/-- Settles O59. -/
theorem stepKeepsTheIdAndLossLaws : Obligations.StepKeepsTheIdAndLossLaws := by
  intro s s' hr hc h
  have hlawful := lawful_of_laws hr hc
  exact ⟨fun hid => step_keeps_idLaw ⟨hlawful, hid⟩ h,
    fun hloss i => (step_keeps_lossLaw (fun i => ⟨hlawful i, hloss i⟩) h i).2⟩

end Sys2Proof.Machine
end

section
/-!
What a command can do to the transmit queue and to the own line break, as moves of the line interface, and the laws of both that every
move keeps (sections 8.4, 8.5, 8.7).
-/
namespace Sys2Proof.Machine

open Sys2Proof.Safety

/-! ## The moves of the transmitter -/

/-- One move of the transmitter, where d says whether the station may drive the line: the queue stands and an own line break may be over,
a report is offered (R137, R138), the head is launched (R125), the frame in flight is cut off (R130, R133), leaves the queue (R131), or
has one more retry (R132). -/
inductive TxMove (d : Prop) (l l' : LineInterface) : Prop
  | stand (hq : l'.queue = l.queue) (hb : l'.ownBreak = l.ownBreak ∨ l'.ownBreak = none)
  | offer (hd : d) (r : Report) (h : l' = l.offer r)
  | launch (hd : d) (hf : l.flying = false) (hq : l'.queue = l.launch.queue) (hb : l'.ownBreak = l.ownBreak)
  | land (hq : l'.queue = l.land.queue) (hb : l'.ownBreak = l.ownBreak)
  | leave (hq : l'.queue = l.dropFlight.queue) (hb : l'.ownBreak = l.ownBreak ∨ l.flying = true)
  | retry {f : TxFrame} (hf : l.flight = some f) (hr : f.retries < 3) (hq : l'.queue = l.retry.queue)

/-- The line interface comes to another by moves of the transmitter. -/
def TxMoves (d : Prop) : LineInterface → LineInterface → Prop := Relation.ReflTransGen (TxMove d)

theorem TxMoves.stand {d : Prop} {l l' : LineInterface} (hq : l'.queue = l.queue) (hb : l'.ownBreak = l.ownBreak) : TxMoves d l l' :=
  .single (.stand hq (.inl hb))

theorem TxMove.mono {d d' : Prop} {l l' : LineInterface} (m : TxMove d l l') (h : d → d') : TxMove d' l l' := by
  cases m with
  | stand hq hb => exact .stand hq hb
  | offer hd r e => exact .offer (h hd) r e
  | launch hd hf hq hb => exact .launch (h hd) hf hq hb
  | land hq hb => exact .land hq hb
  | leave hq hb => exact .leave hq hb
  | retry hf hr hq => exact .retry hf hr hq

theorem TxMoves.mono {d d' : Prop} {l l' : LineInterface} (m : TxMoves d l l') (h : d → d') : TxMoves d' l l' :=
  Relation.ReflTransGen.mono (fun _ _ m => TxMove.mono m h) _ _ m

/-! ## The own line break and the frame in flight -/

/-- The transmitter has work on the line: a frame in flight, or an own line break that the line has not recovered from. -/
def LineInterface.Driving (l : LineInterface) : Prop := l.flying = true ∨ l.ownBreak.isSome = true

theorem LineInterface.flying_of_flight {l : LineInterface} {f : TxFrame} (h : l.flight = some f) : l.flying = true :=
  (LineInterface.flying_iff _).mpr ⟨f, List.mem_of_find?_eq_some h, List.find?_some (p := fun x : TxFrame => x.inFlight) h⟩

theorem LineInterface.offer_flying {l : LineInterface} {r : Report} (h : (l.offer r).flying = true) : l.flying = true := by
  rw [LineInterface.flying_iff] at h ⊢
  obtain ⟨f, hf, hk⟩ := h
  have new {q : List TxFrame} (hf : f ∈ placeFrame (.ofReport r) q) : f ∈ q := by
    rcases mem_placeFrame.mp hf with rfl | hf
    · simp [TxFrame.ofReport] at hk
    · exact hf
  refine ⟨f, ?_, hk⟩
  rcases l.offer_cases r with ⟨_, e⟩ | ⟨p, _, _, _, e⟩ | ⟨_, _, e⟩ <;> rw [e] at hf
  · exact new hf
  · exact (List.eraseP_sublist).subset (new hf)
  · exact hf

theorem LineInterface.offer_ownBreak (l : LineInterface) (r : Report) : (l.offer r).ownBreak = l.ownBreak := by
  rcases l.offer_cases r with ⟨_, e⟩ | ⟨p, _, _, _, e⟩ | ⟨_, _, e⟩ <;> rw [e]

/-- Only a launch, where the station may drive the line, gives the transmitter work on the line that it did not have. -/
theorem TxMove.driving {d : Prop} {l l' : LineInterface} (m : TxMove d l l') (h : l'.Driving) : l.Driving ∨ d := by
  have same (hq : l'.queue = l.queue) (k : l'.flying = true) : l.flying = true := by
    rwa [LineInterface.flying, hq] at k
  cases m with
  | stand hq hb =>
    rcases h with h | h
    · exact .inl (.inl (same hq h))
    · rcases hb with hb | hb
      · exact .inl (.inr (hb ▸ h))
      · simp [hb] at h
  | offer hd => exact .inr hd
  | launch hd => exact .inr hd
  | land hq hb =>
    rcases h with h | h
    · obtain ⟨f, hf, hk⟩ := (LineInterface.flying_iff _).mp h
      rw [hq] at hf
      obtain ⟨g, _, rfl⟩ := List.mem_map.mp hf
      simp at hk
    · exact .inl (.inr (hb ▸ h))
  | leave hq hb =>
    rcases h with h | h
    · obtain ⟨f, hf, hk⟩ := (LineInterface.flying_iff _).mp h
      rw [hq] at hf
      have := (List.mem_filter.mp hf).2
      simp [hk] at this
    · exact .inl (hb.elim (fun hb => .inr (hb ▸ h)) .inl)
  | retry hf => exact .inl (.inl (LineInterface.flying_of_flight hf))

theorem TxMoves.driving {d : Prop} {l l' : LineInterface} (m : TxMoves d l l') (h : l'.Driving) : l.Driving ∨ d := by
  induction m with
  | refl => exact .inl h
  | tail _ m ih => exact (m.driving h).elim ih .inr

/-! ## The transmit queue law -/

/-- What the transmit queue law says of a queue (R132, R137). -/
structure QueueLaw (q : List TxFrame) : Prop where
  few     : q.length ≤ 8
  sorted  : q.Pairwise fun f g => f.report.priority ≤ g.report.priority
  retries : ∀ f ∈ q, f.retries ≤ 3
  flight  : (q.filter (·.inFlight)).length ≤ 1

theorem txQueueLaw_iff (s : State) : TxQueueLaw s ↔ QueueLaw s.line.queue :=
  ⟨fun ⟨h1, h2, h3, h4⟩ => ⟨h1, h2, h3, h4⟩, fun ⟨h1, h2, h3, h4⟩ => ⟨h1, h2, h3, h4⟩⟩

theorem QueueLaw.sublist {q q' : List TxFrame} (h : QueueLaw q) (k : q'.Sublist q) : QueueLaw q' :=
  ⟨k.length_le.trans h.few, h.sorted.sublist k, fun f hf => h.retries f (k.subset hf), (k.filter _).length_le.trans h.flight⟩

/-- A report joins a queue of fewer than 8 frames (R137). -/
theorem QueueLaw.place {q : List TxFrame} (h : QueueLaw q) (hl : q.length < 8) (r : Report) : QueueLaw (placeFrame (.ofReport r) q) := by
  refine ⟨by rw [placeFrame_length]; exact hl, placeFrame_sorted _ _ h.sorted, fun f hf => ?_, ?_⟩
  · rcases mem_placeFrame.mp hf with rfl | hf
    · exact Nat.zero_le 3
    · exact h.retries f hf
  · rw [((placeFrame_perm (.ofReport r) q).filter _).length_eq]
    exact h.flight

theorem QueueLaw.offer {l : LineInterface} (h : QueueLaw l.queue) (r : Report) : QueueLaw (l.offer r).queue := by
  rcases l.offer_cases r with ⟨hl, e⟩ | ⟨p, hl, hp, _, e⟩ | ⟨_, _, e⟩ <;> rw [e]
  · exact h.place hl r
  · have hd := displaceFrame_length hp
    have hf := h.few
    exact (h.sublist List.eraseP_sublist).place (q := displaceFrame p l.queue) (by omega) r
  · exact h

/-- The frames of a queue change but for their reports (R130, R132, R133). -/
theorem QueueLaw.map {q : List TxFrame} (h : QueueLaw q) {f : TxFrame → TxFrame} (hr : ∀ g : TxFrame, (f g).report = g.report)
    (h3 : ∀ g ∈ q, (f g).retries ≤ 3) (hf : ∀ g : TxFrame, (f g).inFlight = false) : QueueLaw (q.map f) := by
  refine ⟨by simpa using h.few, List.pairwise_map.mpr (by simpa only [hr] using h.sorted), fun g hg => ?_, ?_⟩
  · obtain ⟨x, hx, rfl⟩ := List.mem_map.mp hg
    exact h3 x hx
  · simp [List.filter_map, Function.comp_def, hf]

theorem QueueLaw.flight_eq {q : List TxFrame} (h : QueueLaw q) {f g : TxFrame} (hf : q.find? (·.inFlight) = some f) (hg : g ∈ q)
    (hk : g.inFlight = true) : g = f := by
  have h1 : g ∈ q.filter (·.inFlight) := List.mem_filter.mpr ⟨hg, hk⟩
  have h2 : f ∈ q.filter (·.inFlight) := List.mem_filter.mpr ⟨List.mem_of_find?_eq_some hf, List.find?_some (p := fun x : TxFrame => x.inFlight) hf⟩
  have hlen := h.flight
  generalize q.filter (·.inFlight) = k at h1 h2 hlen
  match k, hlen with
  | [a], _ => rw [List.mem_singleton.mp h1, List.mem_singleton.mp h2]

theorem QueueLaw.launch {l : LineInterface} (h : QueueLaw l.queue) (hf : l.flying = false) : QueueLaw l.launch.queue := by
  unfold LineInterface.launch
  cases hq : l.queue with
  | nil => simpa [hq] using h
  | cons f rest =>
    rw [hq] at h
    have hrest : ∀ g ∈ rest, ¬ g.inFlight = true := fun g hg hk =>
      absurd ((LineInterface.flying_iff l).mpr ⟨g, by simp [hq, hg], hk⟩) (by simp [hf])
    refine ⟨h.few, List.pairwise_cons.mpr (List.pairwise_cons.mp h.sorted), fun g hg => ?_, ?_⟩
    · rcases List.mem_cons.mp hg with rfl | hg
      · exact h.retries f (by simp)
      · exact h.retries g (by simp [hg])
    · simp [List.filter_eq_nil_iff.mpr hrest]

theorem TxMove.queueLaw {d : Prop} {l l' : LineInterface} (m : TxMove d l l') (h : QueueLaw l.queue) : QueueLaw l'.queue := by
  cases m with
  | stand hq => exact hq ▸ h
  | offer _ r e => exact e ▸ h.offer r
  | launch _ hf hq => exact hq ▸ h.launch hf
  | land hq => exact hq ▸ h.map (fun _ => rfl) (fun g hg => h.retries g hg) (fun _ => rfl)
  | leave hq => exact hq ▸ h.sublist List.filter_sublist
  | @retry f hf hr hq =>
    rw [hq]
    refine h.map (fun g => ?_) (fun g hg => ?_) fun g => ?_
    · split <;> rfl
    · split
      next hk =>
        have : g = f := h.flight_eq hf hg hk
        subst this
        exact hr
      next => exact h.retries g hg
    · split
      · rfl
      next hk => simpa using hk

theorem TxMoves.queueLaw {d : Prop} {l l' : LineInterface} (m : TxMoves d l l') (h : QueueLaw l.queue) : QueueLaw l'.queue := by
  induction m with
  | refl => exact h
  | tail _ m ih => exact m.queueLaw ih

end Sys2Proof.Machine
end

section
/-!
What a command changes of the station's controls, of its state and of the transmit queue: each control is written by its own command
alone (chapters 7, 10, 11, section 3.6), and said once for every command.
-/
namespace Sys2Proof.Machine

open Sys2Proof.Safety

/-! ## Who writes what -/

/-- The controls that a command of its own writes: the lock, the rights and fixed flags of masked channels, their activity latches and the
start latch, the setup times, a window, the station state. -/
inductive Control
  | none
  | lock
  | rights (m : ChanMask)
  | fix (m : ChanMask)
  | latches (m : ChanMask) (start : Bool)
  | times
  | window
  | station

/-- The control of a command. -/
def Instr.control : Instr → Control
  | .rights _ _ p => .rights (word3 p)
  | .rightsLock .. => .lock
  | .rightsFix _ _ p => .fix p
  | .latchClear _ _ p => .latches (word3 p) ((last3 p).getLsbD 0)
  | .setupTimes .. => .times
  | .setupWindow .. => .window
  | .setupDone .. | .setupWindowExpiry _ | .quietPeriodEnd _ | .presentReceived .. => .station
  | _ => .none

/-- The station joins or clashes: LISTEN goes to SETUP, SETUP to ACTIVE, and each of the states that test for a clash to CLASH, with an
empty queue (R163, R164, R166). -/
inductive StationMove (s s' : State) : Prop
  | setup (h : s.station = .listen) (h' : s'.station = .setup) (hl : TxMoves False s.line s'.line)
  | active (h : s.station = .setup) (h' : s'.station = .active) (hl : TxMoves True s.line s'.line)
  | clash (h : s.station.testsClash = true) (h' : s'.station = .clash) (hq : s'.line.queue = []) (hb : s'.line.ownBreak = none)

/-- What a command of this control can change of the controls, of the station state and of the transmitter. -/
structure State.Follows (k : Control) (s s' : State) : Prop where
  number   : s'.stationNumber = s.stationNumber
  base     : s'.blockBase = s.blockBase
  rlk      : s'.rlk = s.rlk
  held     : s'.isHeld = s.isHeld
  lock     : k ≠ .lock → s'.lock = s.lock
  times    : s'.prerollByte = s.prerollByte ∧ s'.lateLimitByte = s.lateLimitByte ∧ s'.rejoinMinByte = s.rejoinMinByte ∧
    s'.fixPermitted = s.fixPermitted ∨
    (k = .times ∧ s.station = .setup ∧ s'.prerollByte.toNat ≤ 100 ∧ s'.lateLimitByte.toNat ≤ 200)
  windows  : s'.window0 = s.window0 ∧ s'.window1 = s.window1 ∨ (k = .window ∧ s.station = .setup)
  rights   : ∀ i, (s'.chan i).rights = (s.chan i).rights ∨
    ∃ m, k = .rights m ∧ inMask m i = true ∧ (s.chan i).fixed = false ∧ s.lock = false
  fixed    : ∀ i, (s'.chan i).fixed = (s.chan i).fixed ∨ ((s'.chan i).fixed = true ∧ ∃ m, k = .fix m ∧ inMask m i = true)
  activity : ∀ i, (s.chan i).activity = true → (s'.chan i).activity = true ∨ ∃ m start, k = .latches m start ∧ inMask m i = true
  latch    : s'.startLatch = s.startLatch ∨ (s'.startLatch = false ∧ ∃ m, k = .latches m true)
  station  : (s'.station = s.station ∧ TxMoves (s.station.mayDrive = true) s.line s'.line) ∨ (k = .station ∧ StationMove s s')

/-- A change that is under no control: what every command may do besides its own write. -/
abbrev State.Plain (s s' : State) : Prop := State.Follows .none s s'

/-- The marks of a channel that only the commands of chapters 7 and 10 write. -/
structure Channel.SameMarks (c c' : Channel) : Prop where
  rights   : c'.rights = c.rights
  fixed    : c'.fixed = c.fixed
  activity : c.activity = true → c'.activity = true

/-- The line interface and the quiet start alone move, and of the line neither the queue nor the own line break. -/
structure State.Quietly (s s' : State) : Prop where
  line     : s.LineOnly s'
  queue    : s'.line.queue = s.line.queue
  ownBreak : s'.line.ownBreak = s.line.ownBreak

namespace State.Follows

variable {k : Control} {s u v : State}

theorem marks (h : State.Plain s u) (i : Slot) : (s.chan i).SameMarks (u.chan i) :=
  ⟨(h.rights i).resolve_right (by simp), (h.fixed i).resolve_right (by simp), fun a => (h.activity i a).resolve_right (by simp)⟩

theorem of_marks (h : ∀ i, (s.chan i).SameMarks (u.chan i)) (hl : TxMoves (s.station.mayDrive = true) s.line u.line)
    (e : u = { s with
      channels := u.channels, ports := u.ports, ring := u.ring, alerts := u.alerts, sout := u.sout, line := u.line,
      quietStart := u.quietStart, timer := u.timer, networkMarkErrors := u.networkMarkErrors, integrityCount := u.integrityCount,
      conflictCount := u.conflictCount }) : State.Plain s u := by
  have hstation : u.station = s.station := by rw [e]
  refine ⟨by rw [e], by rw [e], by rw [e], by rw [e]; rfl, fun _ => by rw [e], .inl ⟨by rw [e], by rw [e], by rw [e], by rw [e]⟩,
    .inl ⟨by rw [e], by rw [e]⟩, fun i => .inl (h i).rights, fun i => .inl (h i).fixed, fun i a => .inl ((h i).activity a),
    .inl (by rw [e]), .inl ⟨hstation, hl⟩⟩

theorem weaken (h : State.Plain s u) (k : Control) : State.Follows k s u :=
  ⟨h.number, h.base, h.rlk, h.held, fun _ => h.lock (by simp), .inl (h.times.resolve_right (by simp)),
    .inl (h.windows.resolve_right (by simp)), fun i => .inl (h.marks i).rights, fun i => .inl (h.marks i).fixed,
    fun i a => .inl ((h.marks i).activity a), .inl (h.latch.resolve_right (by simp)), .inl (h.station.resolve_right (by simp))⟩

theorem before (h : State.Plain s u) (f : State.Follows k u v) : State.Follows k s v := by
  obtain ⟨hstation, hline⟩ := h.station.resolve_right (by simp)
  obtain ⟨t1, t2, t3, t4⟩ := h.times.resolve_right (by simp)
  obtain ⟨w1, w2⟩ := h.windows.resolve_right (by simp)
  have hlock := h.lock (by simp)
  refine ⟨f.number.trans h.number, f.base.trans h.base, f.rlk.trans h.rlk, f.held.trans h.held, fun n => (f.lock n).trans hlock,
    ?_, ?_, fun i => ?_, fun i => ?_, fun i a => f.activity i ((h.marks i).activity a), ?_, ?_⟩
  · rcases f.times with ⟨a1, a2, a3, a4⟩ | ⟨a, b, c⟩
    · exact .inl ⟨a1.trans t1, a2.trans t2, a3.trans t3, a4.trans t4⟩
    · exact .inr ⟨a, hstation ▸ b, c⟩
  · rcases f.windows with ⟨a1, a2⟩ | ⟨a, b⟩
    · exact .inl ⟨a1.trans w1, a2.trans w2⟩
    · exact .inr ⟨a, hstation ▸ b⟩
  · rcases f.rights i with a | ⟨m, a, b, c, d⟩
    · exact .inl (a.trans (h.marks i).rights)
    · exact .inr ⟨m, a, b, (h.marks i).fixed ▸ c, hlock ▸ d⟩
  · rcases f.fixed i with a | a
    · exact .inl (a.trans (h.marks i).fixed)
    · exact .inr a
  · rw [← h.latch.resolve_right (by simp)]
    exact f.latch
  · rcases f.station with ⟨a, b⟩ | ⟨a, b⟩
    · exact .inl ⟨a.trans hstation, hline.trans (hstation ▸ b)⟩
    · refine .inr ⟨a, ?_⟩
      cases b with
      | setup p q l => exact .setup (hstation ▸ p) q ((hline.mono (by rw [← hstation, p]; simp [StationState.mayDrive])).trans l)
      | active p q l => exact .active (hstation ▸ p) q ((hline.mono fun _ => trivial).trans l)
      | clash p q l b => exact .clash (hstation ▸ p) q l b

theorem trans (h : State.Plain s u) (k : State.Plain u v) : State.Plain s v := h.before k

theorem after (f : State.Follows k s u) (h : u.Quietly v) : State.Follows k s v := by
  obtain ⟨e, hq, hb⟩ := h
  have hchan (i : Slot) : v.chan i = u.chan i := by rw [e]; rfl
  have hstation : v.station = u.station := by rw [e]
  refine ⟨by rw [e]; exact f.number, by rw [e]; exact f.base, by rw [e]; exact f.rlk, by rw [e]; exact f.held,
    fun n => by rw [e]; exact f.lock n, by rw [e]; exact f.times, by rw [e]; exact f.windows, fun i => hchan i ▸ f.rights i,
    fun i => hchan i ▸ f.fixed i, fun i => hchan i ▸ f.activity i, by rw [e]; exact f.latch, ?_⟩
  rcases f.station with ⟨a, b⟩ | ⟨a, b⟩
  · exact .inl ⟨hstation.trans a, b.trans (TxMoves.stand hq hb)⟩
  · refine .inr ⟨a, ?_⟩
    cases b with
    | setup p q l => exact .setup p (hstation.trans q) (l.trans (TxMoves.stand hq hb))
    | active p q l => exact .active p (hstation.trans q) (l.trans (TxMoves.stand hq hb))
    | clash p q l b => exact .clash p (hstation.trans q) (hq.trans l) (hb.trans b)

theorem refl (s : State) : State.Plain s s := of_marks (fun _ => ⟨rfl, rfl, id⟩) .refl rfl

end State.Follows

theorem State.LineOnly.plain {s u : State} (h : s.LineOnly u) (hl : TxMoves (s.station.mayDrive = true) s.line u.line) :
    State.Plain s u :=
  .of_marks (fun i => by rw [h.sameBlocks.chan i]; exact ⟨Eq.refl _, Eq.refl _, id⟩) hl (by rw [h])

theorem State.Quietly.plain {s u : State} (h : s.Quietly u) : State.Plain s u := h.line.plain (.stand h.queue h.ownBreak)

end Sys2Proof.Machine
end

section
/-!
Every command outside reset, by the control it writes: what it changes of the controls, of the station state and of the transmitter.
-/
namespace Sys2Proof.Machine

open Sys2Proof.Safety

/-! ## What is under no control -/

theorem State.setDecision_quietly (s : State) (d : Decision) : s.Quietly (s.setDecision d) := by
  refine ⟨s.setDecision_lineOnly d, ?_, ?_⟩ <;> unfold State.setDecision <;> split <;> rfl

theorem State.answer_quietly (s : State) (code : OutcomeCode) : s.Quietly (s.answer code) := s.setDecision_quietly _

theorem State.answerNumber_quietly (s : State) (b : Bool) (n : Nat) : s.Quietly (s.answerNumber b n) := by
  unfold State.answerNumber
  split
  · exact s.setDecision_quietly _
  · exact ⟨.rfl, rfl, rfl⟩

theorem State.offer_plain (s : State) (r : Report) : State.Plain s (s.offer r) := by
  refine (s.offer_lineOnly r).plain ?_
  rcases s.offer_cases r with ⟨hd, e⟩ | ⟨_, e⟩ <;> rw [e]
  · exact .single (.offer hd r rfl)
  · exact .refl

theorem State.Follows.of_blocks {s u : State} (h : ∀ i, (s.chan i).SameMarks (u.chan i)) (hl : u.line = s.line)
    (e : u = { s with
      channels := u.channels, ports := u.ports, ring := u.ring, alerts := u.alerts, sout := u.sout,
      networkMarkErrors := u.networkMarkErrors, integrityCount := u.integrityCount, conflictCount := u.conflictCount }) :
    State.Plain s u := by
  refine .of_marks h (hl ▸ .refl) ?_
  have hq : u.quietStart = s.quietStart := by rw [e]
  have ht : u.timer = s.timer := by rw [e]
  rw [hl, hq, ht]
  exact e

theorem Channel.SameMarks.refl (c : Channel) : c.SameMarks c := ⟨rfl, rfl, id⟩

theorem State.modChan_marks (s : State) (i : Slot) {f : Channel → Channel} (hf : ∀ c : Channel, c.SameMarks (f c)) (j : Slot) :
    (s.chan j).SameMarks ((s.modChan i f).chan j) := by
  rw [State.modChan_chan]
  split
  next h => exact h ▸ hf _
  next => exact .refl _

theorem State.modChan_plain (s : State) (i : Slot) {f : Channel → Channel} (hf : ∀ c : Channel, c.SameMarks (f c)) :
    State.Plain s (s.modChan i f) := State.Follows.of_blocks (s.modChan_marks i hf) rfl rfl

/-- A chain of moves is under no control. -/
theorem Moves.plain {s u : State} (h : Moves s u) : State.Plain s u := by
  induction h with
  | start => exact .refl s
  | chan _ i f hf ih => exact ih.trans (State.modChan_plain _ i fun c => ⟨(hf c).rights, (hf c).fixed, (hf c).activity⟩)
  | port _ p f _ ih => exact ih.trans (State.Follows.of_blocks (fun _ => .refl _) rfl rfl)
  | offer _ r ih => exact ih.trans (State.offer_plain _ r)
  | table _ a ih => exact ih.trans (State.Follows.of_blocks (fun _ => .refl _) rfl rfl)
  | decide _ d ih => exact ih.trans (State.setDecision_quietly _ d).plain
  | @send u _ i c ih =>
    have h : State.Plain u (u.modChan i Channel.afterSend) := State.modChan_plain _ i fun _ => ⟨rfl, rfl, id⟩
    exact (ih.trans h).trans (State.Follows.of_blocks (fun _ => .refl _) rfl rfl)

theorem State.networkCell_plain (s : State) (t : Time) (cell : StreamCell) : State.Plain s (s.networkCell t cell) := by
  unfold State.networkCell
  split
  · exact .of_blocks (fun _ => .refl _) rfl rfl
  split
  · exact .refl s
  split
  · exact .refl s
  split
  · unfold State.startGate
    split
    · have hgate : State.Plain s (s.modChan (slotOfTag cell.tag) fun c => { c with gateOpen := true }) :=
        s.modChan_plain _ fun _ => ⟨rfl, rfl, id⟩
      exact hgate.trans (State.slotEvent_moves _ _ t cell).plain
    · exact .refl s
  · exact .refl s

theorem State.alertCell_plain (s : State) (cell : StreamCell) : State.Plain s (s.alertCell cell) := by
  unfold State.alertCell
  split
  · exact .refl s
  split
  · exact .of_blocks (fun _ => .refl _) rfl rfl
  · refine .of_blocks (fun i => ?_) rfl rfl
    obtain ⟨r, n, d, k, _⟩ := (s.chan i).afterRingWrite_fields (s.ring.write cell) s.ring.writer cell
    rw [State.writeRing_chan, k]
    exact ⟨rfl, rfl, id⟩

theorem State.considerAlertOn_plain (s : State) (f : AlertOnFields) (source : Byte) : State.Plain s (s.considerAlertOn f source) := by
  unfold State.considerAlertOn
  split
  · split
    · unfold State.repeatAlert
      split
      · exact ((Moves.start (s := s)).table _).plain.trans (State.answerNumber_quietly _ _ _).plain
      · exact .of_blocks (fun _ => .refl _) rfl rfl
    · exact (s.newAlert_moves f source).plain
  · exact .of_blocks (fun _ => .refl _) rfl rfl

/-! ## The line's own commands -/

theorem State.startSending_plain (s : State) : State.Plain s s.startSending := by
  refine s.startSending_lineOnly.plain ?_
  unfold State.startSending
  split
  next h =>
    obtain ⟨hd, _, _, hf, _⟩ := s.mayStart_iff.mp h
    refine .single (.launch hd hf rfl ?_)
    unfold LineInterface.launch
    split <;> rfl
  next => exact .refl

theorem State.loseArbitration_plain (s : State) (n : Nat) : State.Plain s (s.loseArbitration n) := by
  refine (s.loseArbitration_lineOnly n).plain ?_
  unfold State.loseArbitration
  split
  · exact .single (.land rfl rfl)
  · exact .refl

theorem State.bitError_plain (s : State) (n : Nat) : State.Plain s (s.bitError n) := by
  refine (s.bitError_lineOnly n).plain ?_
  unfold State.bitError
  split
  next f hf =>
    split
    · dsimp only
      split
      next hr => exact .single (.retry hf hr rfl)
      next => exact .single (.leave rfl (.inr (LineInterface.flying_of_flight hf)))
    · exact .refl
  next => exact .refl

theorem State.seeBreak_plain (s : State) (t : Time) : State.Plain s (s.seeBreak t) :=
  (s.setLine_lineOnly _).plain (.single (.land rfl rfl))

theorem State.countReceiveError_plain (s : State) : State.Plain s s.countReceiveError :=
  (s.setLine_lineOnly _).plain (.single (.land rfl rfl))

theorem State.noteRest_quietly (s : State) (since runEnd : Time) : s.Quietly (s.noteRest since runEnd) :=
  ⟨s.noteRest_lineOnly _ _, by rw [State.noteRest_line]; rfl, by rw [State.noteRest_line]; rfl⟩

theorem State.setRx_quietly (s : State) (rx : RxState) : s.Quietly (s.setRx rx) := ⟨s.setLine_lineOnly _, rfl, rfl⟩

theorem State.openWindow_quietly (s : State) (type : ResponseType) : s.Quietly (s.openWindow type) := s.setRx_quietly _

theorem State.receiveError_plain (s : State) (t : Time) (o : LineObservation) : State.Plain s (s.receiveError t o) := by
  have hnote : s.Quietly (s.noteObserved t o) :=
    ⟨s.noteObserved_lineOnly t o, by rw [State.noteObserved_line], by rw [State.noteObserved_line]⟩
  rcases s.receiveError_cases t o with ⟨_, e⟩ | ⟨_, e⟩ <;> rw [e]
  · exact hnote.plain.trans (State.countReceiveError_plain _)
  · refine hnote.plain.trans ?_
    cases o with
    | run us =>
      simp only [State.followRun]
      split
      · exact (State.setLine_lineOnly _ _).plain (.single (.land rfl rfl))
      split
      · exact (State.setRx_quietly _ _).plain
      · exact .refl _
    | _ => exact .refl _

theorem State.judgeBytes_plain (s : State) (bytes : List Byte) : State.Plain s (s.judgeBytes bytes) := by
  have hnote := (s.noteRest_quietly (frameByteEnd s.timer) (frameRunEnd s.timer (bytes.getLastD 0))).plain
  simp only [State.judgeBytes, State.noteFrame]
  split
  · exact .refl s
  · split
    · exact hnote.trans (State.countReceiveError_plain _)
    · exact hnote
  · split
    · exact hnote.trans (State.countReceiveError_plain _)
    · exact hnote
  · split
    · exact hnote.trans (State.setRx_quietly _ _).plain
    · exact hnote

theorem State.windowByte_plain (s : State) (w : Window) (slots : Nat) (line : Byte) : State.Plain s (s.windowByte w slots line) := by
  unfold State.windowByte
  split
  · dsimp only
    split
    · exact (State.setRx_quietly _ _).plain.trans ((State.setLine_lineOnly _ _).plain (.stand rfl rfl))
    · exact (State.setRx_quietly _ _).plain
  · exact (State.setRx_quietly _ _).plain

theorem State.responseByte_plain (s : State) (t : Time) (gap slots : Nat) (line : Byte) :
    State.Plain s (s.responseByte t gap slots line) := by
  simp only [State.responseByte]
  have hnote := (s.noteRest_quietly (if slots < 8 then byteRunEnd t (line.getMsbD (slots - 1)) else t)
    (byteRunEnd t (line.getMsbD (slots - 1)))).plain
  split
  · split
    · exact hnote.trans (State.countReceiveError_plain _)
    · exact hnote.trans (State.windowByte_plain _ _ _ _)
  · exact hnote.trans (State.countReceiveError_plain _)
  all_goals exact hnote

theorem State.lineIdle_plain (s : State) (t : Time) : State.Plain s (s.lineIdle t) := by
  refine (s.lineIdle_lineOnly t).plain ?_
  rcases s.lineIdle_cases t with ⟨_, e⟩ | ⟨_, _, e⟩ | ⟨_, _, e⟩ <;> rw [e]
  · exact .refl
  · exact .single (.stand rfl (.inr rfl))
  · exact .single (.stand rfl (.inr rfl))

theorem State.finishSend_plain (s : State) : State.Plain s s.finishSend := by
  unfold State.finishSend
  split
  next f hf =>
    have h1 : State.Plain s (s.setLine { (s.line.dropFlight.rest (frameByteEnd s.timer)) with transmitFault := false }) :=
      (s.setLine_lineOnly _).plain (.single (.leave rfl (.inl rfl)))
    refine (h1.trans (State.openWindow_quietly _ .none).plain).trans ?_
    unfold State.handOwn
    split
    · exact (State.matchCut_moves _ _ _ _ _).plain
    all_goals exact .refl _
  next => exact .refl s

/-! ## Frames, and who takes them -/

theorem State.receive_follows {k : Control} {w : Nat} (s : State) (kind : FrameKind) (h : FrameHeader) (p : BitVec w) {f : State → State}
    (hf : ∀ u, State.Follows k u (f u)) : State.Follows k s (s.receive kind h p f) := by
  have hn := (s.noteRest_quietly (frameByteEnd s.timer) (frameRunEnd s.timer (checkByte (receivedBytes kind h p)))).plain
  have ho := hn.trans (State.openWindow_quietly _ kind.responseType).plain
  rcases s.receive_cases kind h p f with e | ⟨_, e⟩ | ⟨_, _, e⟩ <;> rw [e]
  · exact hn.weaken k
  · exact ho.weaken k
  · exact ho.before (hf _)

theorem State.ifOwn_follows {k : Control} (s : State) (h : FrameHeader) {f : State → State} (hf : ∀ u, State.Follows k u (f u)) :
    State.Follows k s (s.ifOwn h f) := by
  unfold State.ifOwn
  split
  · exact hf s
  · exact (State.Follows.refl s).weaken k

theorem State.takeRights_follows {k : Control} (s : State) {f : State → State} (hf : ∀ u, State.Follows k u (f u)) :
    State.Follows k s (s.takeRights f) := by
  unfold State.takeRights
  split
  case h_1 | h_2 => exact hf s
  case h_3 | h_4 => exact (s.answer_quietly _).plain.weaken k
  case h_5 => exact (State.Follows.refl s).weaken k

theorem State.takeSetup_follows {k : Control} (s : State) {f : State → State}
    (hf : ∀ u, u.station = .setup → State.Follows k u (f u)) : State.Follows k s (s.takeSetup f) := by
  unfold State.takeSetup
  split
  case h_1 h => exact hf s h
  case h_5 => exact (State.Follows.refl s).weaken k
  all_goals exact (s.answer_quietly _).plain.weaken k

end Sys2Proof.Machine
end

section
/-!
The commands that write a control, and with them what every command outside reset follows (chapters 7, 10, 11).
-/
namespace Sys2Proof.Machine

open Sys2Proof.Safety

/-! ## Rights, fixed flags and latches -/

theorem State.Follows.of_writes {k : Control} {s u : State}
    (hr : ∀ i, (u.chan i).rights = (s.chan i).rights ∨
      ∃ m, k = .rights m ∧ inMask m i = true ∧ (s.chan i).fixed = false ∧ s.lock = false)
    (hf : ∀ i, (u.chan i).fixed = (s.chan i).fixed ∨ ((u.chan i).fixed = true ∧ ∃ m, k = .fix m ∧ inMask m i = true))
    (ha : ∀ i, (s.chan i).activity = true → (u.chan i).activity = true ∨ ∃ m start, k = .latches m start ∧ inMask m i = true)
    (hl : u.startLatch = s.startLatch ∨ (u.startLatch = false ∧ ∃ m, k = .latches m true))
    (e : u = { s with channels := u.channels, startLatch := u.startLatch }) : State.Follows k s u :=
  ⟨by rw [e], by rw [e], by rw [e], by rw [e]; rfl, fun _ => by rw [e], .inl ⟨by rw [e], by rw [e], by rw [e], by rw [e]⟩,
    .inl ⟨by rw [e], by rw [e]⟩, hr, hf, ha, hl, .inl ⟨by rw [e], by rw [e]; exact .refl⟩⟩

theorem State.Follows.trans_rights {m : ChanMask} {s u v : State} (h : State.Follows (.rights m) s u)
    (k : State.Follows (.rights m) u v) : State.Follows (.rights m) s v := by
  obtain ⟨hstation, hline⟩ := h.station.resolve_right (by simp)
  obtain ⟨kstation, kline⟩ := k.station.resolve_right (by simp)
  obtain ⟨h1, h2, h3, h4⟩ := h.times.resolve_right (by simp)
  obtain ⟨k1, k2, k3, k4⟩ := k.times.resolve_right (by simp)
  obtain ⟨h5, h6⟩ := h.windows.resolve_right (by simp)
  obtain ⟨k5, k6⟩ := k.windows.resolve_right (by simp)
  have hlock := h.lock (by simp)
  have hfixed (i : Slot) : (u.chan i).fixed = (s.chan i).fixed := (h.fixed i).resolve_right (by simp)
  refine ⟨k.number.trans h.number, k.base.trans h.base, k.rlk.trans h.rlk, k.held.trans h.held, fun _ => (k.lock (by simp)).trans hlock,
    .inl ⟨k1.trans h1, k2.trans h2, k3.trans h3, k4.trans h4⟩, .inl ⟨k5.trans h5, k6.trans h6⟩, fun i => ?_,
    fun i => .inl (((k.fixed i).resolve_right (by simp)).trans (hfixed i)),
    fun i a => k.activity i (((h.activity i a).resolve_right (by simp))),
    .inl ((k.latch.resolve_right (by simp)).trans (h.latch.resolve_right (by simp))),
    .inl ⟨kstation.trans hstation, hline.trans (hstation ▸ kline)⟩⟩
  rcases k.rights i with a | ⟨n, a, b, c, d⟩
  · rcases h.rights i with e | e
    · exact .inl (a.trans e)
    · exact .inr e
  · exact .inr ⟨n, a, b, hfixed i ▸ c, hlock ▸ d⟩

/-- A channel that is not fixed with other rights takes the rights asked (R117). -/
theorem State.giveRights_follows {s : State} {asked : Rights} {m : ChanMask} {i : Slot} (hi : inMask m i = true) (hl : s.lock = false)
    (hf : (s.chan i).fixed = true → (s.chan i).rights = asked) : State.Follows (.rights m) s (s.giveRights asked i) := by
  have hbase : ∃ u, Moves s u ∧ s.giveRights asked i = u.modChan i fun c => { c with rights := asked } := by
    cases asked with
    | opened => exact ⟨s, .start, rfl⟩
    | guarded => exact ⟨_, s.withdrawEntries_moves i _ _, rfl⟩
  obtain ⟨u, hu, e⟩ := hbase
  have hp := hu.plain
  rw [e]
  refine hp.before (.of_writes (fun j => ?_) (fun j => ?_) (fun j a => ?_) (.inl rfl) rfl) <;> rw [State.modChan_chan] <;> split
  next h =>
    subst h
    have hm := hp.marks j
    cases hk : (u.chan j).fixed with
    | true => exact .inl ((hf (hm.fixed ▸ hk)).symm.trans hm.rights.symm)
    | false => exact .inr ⟨m, rfl, hi, rfl, (hp.lock (by simp)).trans hl⟩
  next => exact .inl rfl
  next h => exact .inl (h ▸ rfl)
  next => exact .inl rfl
  next h => exact .inl (h ▸ a)
  next => exact .inl a

theorem State.applyRights_follows {s : State} {m : ChanMask} {asked : Rights} (h : s.judgeRights m (some asked) = .accepted) :
    State.Follows (.rights m) s (s.applyRights m asked) := by
  obtain ⟨hlock, hfixed, _⟩ := judgeRights_accepted h
  have hagree (i : Slot) (hi : inMask m i = true) (hk : (s.chan i).fixed = true) : (s.chan i).rights = asked := by
    simpa [hk] using List.any_eq_false.mp hfixed i ((mem_maskSlots m i).mpr hi)
  refine And.left (foldl_keeps (P := fun u => State.Follows (.rights m) s u ∧
    ∀ i, inMask m i = true → (u.chan i).fixed = true → (u.chan i).rights = asked) _
    ⟨(State.Follows.refl s).weaken _, hagree⟩ fun u hu i hi => ?_)
  obtain ⟨hf, ha⟩ := hu
  have hi := (mem_maskSlots m i).mp hi
  have hlu : u.lock = false := (hf.lock (by simp)).trans hlock
  have hstep := State.giveRights_follows hi hlu (ha i hi)
  refine ⟨hf.trans_rights hstep, fun j hj hk => ?_⟩
  have hk : (u.chan j).fixed = true := (hstep.fixed j).resolve_right (by simp) ▸ hk
  rcases hstep.rights j with e | ⟨_, _, _, e, _⟩
  · exact e.trans (ha j hj hk)
  · simp [hk] at e

theorem State.doRights_follows (s : State) (m : ChanMask) (action : Option Rights) :
    State.Follows (.rights m) s (s.doRights m action) := by
  unfold State.doRights
  split
  next asked hj => exact (State.applyRights_follows hj).after (State.answer_quietly _ _)
  next => exact (s.answer_quietly _).plain.weaken _

theorem State.doFix_follows (s : State) (m : ChanMask) : State.Follows (.fix m) s (s.doFix m) := by
  unfold State.doFix
  split
  · exact (s.answer_quietly _).plain.weaken _
  split
  · exact (s.answer_quietly _).plain.weaken _
  refine State.Follows.after ?_ (State.answer_quietly _ _)
  unfold State.fixChannels
  rw [foldl_maskSlots]
  refine .of_writes (fun i => .inl ?_) (fun i => ?_) (fun i a => .inl ?_) (.inl rfl) rfl <;>
    simp only [State.chan, Fin.getElem_fin, Vector.getElem_ofFn]
  · split <;> rfl
  · split
    next hi => exact .inr ⟨rfl, m, rfl, hi⟩
    next => exact .inl rfl
  · split
    · exact a
    · exact a

theorem State.doLatchClear_follows (s : State) (m : ChanMask) (start : Bool) :
    State.Follows (.latches m start) s (s.doLatchClear m start) := by
  unfold State.doLatchClear
  refine State.Follows.after ?_ (State.answerNumber_quietly _ _ _)
  unfold State.clearLatches
  rw [foldl_maskSlots]
  refine .of_writes (fun i => .inl ?_) (fun i => .inl ?_) (fun i a => ?_) ?_ rfl
  · simp only [State.chan, Fin.getElem_fin, Vector.getElem_ofFn]
    split <;> rfl
  · simp only [State.chan, Fin.getElem_fin, Vector.getElem_ofFn]
    split <;> rfl
  · simp only [State.chan, Fin.getElem_fin, Vector.getElem_ofFn]
    split
    next hi => exact .inr ⟨m, start, rfl, hi⟩
    next => exact .inl a
  · cases start with
    | false => exact .inl (by simp)
    | true => exact .inr ⟨by simp, m, rfl⟩

/-! ## The lock, the setup values and the station state -/

theorem State.Follows.of_setup {k : Control} {s u : State} (hlock : k ≠ .lock → u.lock = s.lock)
    (ht : u.prerollByte = s.prerollByte ∧ u.lateLimitByte = s.lateLimitByte ∧ u.rejoinMinByte = s.rejoinMinByte ∧
      u.fixPermitted = s.fixPermitted ∨ (k = .times ∧ s.station = .setup ∧ u.prerollByte.toNat ≤ 100 ∧ u.lateLimitByte.toNat ≤ 200))
    (hw : u.window0 = s.window0 ∧ u.window1 = s.window1 ∨ (k = .window ∧ s.station = .setup))
    (hs : (u.station = s.station ∧ TxMoves (s.station.mayDrive = true) s.line u.line) ∨ (k = .station ∧ StationMove s u))
    (e : u = { s with
      lock := u.lock, prerollByte := u.prerollByte, lateLimitByte := u.lateLimitByte, rejoinMinByte := u.rejoinMinByte,
      fixPermitted := u.fixPermitted, window0 := u.window0, window1 := u.window1, station := u.station, line := u.line,
      setupStart := u.setupStart }) : State.Follows k s u := by
  have hchan (i : Slot) : u.chan i = s.chan i := by rw [e]; rfl
  exact ⟨by rw [e], by rw [e], by rw [e], by rw [e]; rfl, hlock, ht, hw, fun i => .inl (by rw [hchan i]), fun i => .inl (by rw [hchan i]),
    fun i a => .inl (by rw [hchan i]; exact a), .inl (by rw [e]), hs⟩

theorem State.doLock_follows (s : State) (action : Option Bool) : State.Follows .lock s (s.doLock action) := by
  have write (b : Bool) : State.Follows .lock s { s with lock := b } :=
    .of_setup (by simp) (.inl ⟨rfl, rfl, rfl, rfl⟩) (.inl ⟨rfl, rfl⟩) (.inl ⟨rfl, .refl⟩) rfl
  unfold State.doLock
  split
  · exact (s.answer_quietly _).plain.weaken _
  · exact (write true).after (State.answer_quietly _ _)
  · split
    · exact (s.answer_quietly _).plain.weaken _
    · exact (write false).after (State.answer_quietly _ _)

theorem clampByte_le (top : Nat) (htop : top < 256) (b : Byte) : (clampByte top b).toNat ≤ top := by
  unfold clampByte
  split
  · simp [Nat.mod_eq_of_lt htop]
  · omega

theorem State.doSetupTimes_follows {s : State} (h : s.station = .setup) (p : BitVec 32) : State.Follows .times s (s.doSetupTimes p) := by
  unfold State.doSetupTimes
  refine State.Follows.after ?_ (State.answer_quietly _ _)
  refine .of_setup (fun _ => rfl) (.inr ⟨rfl, h, ?_, ?_⟩) (.inl ⟨rfl, rfl⟩) (.inl ⟨rfl, .refl⟩) rfl
  · exact clampByte_le 100 (by decide) _
  · exact clampByte_le 200 (by decide) _

theorem State.doSetupWindow_follows {s : State} (h : s.station = .setup) (p : BitVec 72) :
    State.Follows .window s (s.doSetupWindow p) := by
  unfold State.doSetupWindow
  split
  · exact (s.answer_quietly _).plain.weaken _
  next w _ =>
    split
    · exact State.Follows.after (u := { s with window0 := w })
        (.of_setup (fun _ => rfl) (.inl ⟨rfl, rfl, rfl, rfl⟩) (.inr ⟨rfl, h⟩) (.inl ⟨rfl, .refl⟩) rfl) (State.answer_quietly _ _)
    split
    · exact State.Follows.after (u := { s with window1 := w })
        (.of_setup (fun _ => rfl) (.inl ⟨rfl, rfl, rfl, rfl⟩) (.inr ⟨rfl, h⟩) (.inl ⟨rfl, .refl⟩) rfl) (State.answer_quietly _ _)
    · exact (s.answer_quietly _).plain.weaken _

theorem State.enterActive_follows {s : State} (h : s.station = .setup) : State.Follows .station s s.enterActive := by
  have hl : s.enterActive = { s with station := .active, line := s.enterActive.line } := by
    unfold State.enterActive State.raisePresent
    rw [State.offer_eq]
  refine .of_setup (fun _ => by rw [hl]) (.inl ⟨by rw [hl], by rw [hl], by rw [hl], by rw [hl]⟩) (.inl ⟨by rw [hl], by rw [hl]⟩)
    (.inr ⟨rfl, .active h (by rw [hl]) ?_⟩) ?_
  · obtain ⟨_, k⟩ := (State.offer_plain { s with station := .active } (.present s.blockBase .active s.startLatch)).station.resolve_right
      (by simp)
    exact k.mono fun _ => trivial
  · rw [hl]

theorem State.endQuiet_follows (s : State) (t : Time) : State.Follows .station s (s.endQuiet t) := by
  unfold State.endQuiet
  split
  next h =>
    exact .of_setup (fun _ => rfl) (.inl ⟨rfl, rfl, rfl, rfl⟩) (.inl ⟨rfl, rfl⟩) (.inr ⟨rfl, .setup h.1 rfl (.stand rfl rfl)⟩) rfl
  next => exact (State.Follows.refl s).weaken _

theorem State.judgeSetup_follows (s : State) (t : Time) : State.Follows .station s (s.judgeSetup t) := by
  unfold State.judgeSetup
  split
  next h => exact State.enterActive_follows h.1
  next => exact (State.Follows.refl s).weaken _

theorem State.judgePresent_follows (s : State) (source : Byte) : State.Follows .station s (s.judgePresent source) := by
  unfold State.judgePresent
  split
  next h =>
    simp only [Bool.and_eq_true] at h
    exact .of_setup (fun _ => rfl) (.inl ⟨rfl, rfl, rfl, rfl⟩) (.inl ⟨rfl, rfl⟩) (.inr ⟨rfl, .clash h.1 rfl rfl rfl⟩) rfl
  next => exact (State.Follows.refl s).weaken _

/-! ## Every command -/

/-- What a command outside reset does to a running part follows its control. -/
theorem act_follows (c : Instr) (s : State) : State.Follows (Instr.control c) s (act c s) := by
  have idle {u : State} (k : Control) : State.Follows k u u := (State.Follows.refl u).weaken k
  have own {k : Control} {w : Nat} (kind : FrameKind) (h : FrameHeader) (p : BitVec w) {f : State → State}
      (hf : ∀ u, State.Follows k u (f u)) : State.Follows k s (s.receive kind h p fun s => s.ifOwn h f) :=
    s.receive_follows kind h p fun u => u.ifOwn_follows h hf
  have when {k : Control} {u : State} {b : Bool} {f : State → State} (hf : State.Follows k u (f u)) :
      State.Follows k u (if b then f u else u) := by
    split
    · exact hf
    · exact idle k
  unfold act
  cases c with
  | networkCellArrival t cell => exact s.networkCell_plain t cell
  | silenceExpiry t i => exact (s.judgeSilence_moves i t).plain
  | rejoinLimitExpiry t i => exact (s.judgeRejoinLimit_moves i t).plain
  | starvationExpiry t i => exact (s.judgeStarvation_moves i t).plain
  | insertCellArrival t p cell =>
    dsimp only
    split
    · exact idle _
    · exact .of_blocks (fun _ => .refl _) rfl rfl
  | alertCellArrival t cell => exact s.alertCell_plain cell
  | cue t h p => exact own _ h p fun u => (u.takeCue_moves _).plain
  | cueCancel t h p => exact own _ h p fun u => (u.takeCancel_moves _).plain
  | alertOn t h p => exact s.receive_follows _ h p fun u => when (f := fun u => u.considerAlertOn _ _) (u.considerAlertOn_plain _ _)
  | alertOff t h p =>
    exact s.receive_follows _ h p fun u => when (f := fun u => u.considerAlertOff _ _) (u.considerAlertOff_moves _ _).plain
  | alertExpiry t id => exact (s.judgeAlertLimit_moves id t).plain
  | rights t h p => exact own _ h p fun u => u.takeRights_follows fun u => u.doRights_follows _ _
  | rightsLock t h p => exact own _ h p fun u => u.takeRights_follows fun u => u.doLock_follows _
  | rightsFix t h p => exact own _ h p fun u => u.takeRights_follows fun u => u.doFix_follows _
  | query t h p => exact s.receive_follows _ h p fun u => when (f := fun u => u.doQuery _) (u.answerNumber_quietly _ _).plain
  | latchClear t h p =>
    exact s.receive_follows _ h p fun u => when (f := fun u => u.doLatchClear _ _) (u.doLatchClear_follows _ _)
  | stateRead t h p =>
    exact own _ h p fun u => when (f := fun u => u.doStateRead _ _) (u.setDecision_quietly _).plain
  | setupTimes t h p => exact own _ h p fun u => u.takeSetup_follows fun u hu => State.doSetupTimes_follows hu _
  | setupWindow t h p => exact own _ h p fun u => u.takeSetup_follows fun u hu => State.doSetupWindow_follows hu _
  | setupDone t h =>
    exact own _ h _ fun u => u.takeSetup_follows fun u hu => (State.enterActive_follows hu).after (State.answer_quietly _ _)
  | setupWindowExpiry t => exact s.judgeSetup_follows t
  | quietPeriodEnd t => exact s.endQuiet_follows t
  | cutFrameReceived t h p => exact s.receive_follows _ h p fun u => (u.matchCut_moves _ _ _ _).plain
  | peerDeadlineExpiry t id => exact (s.judgeDeadline_moves id t).plain
  | presentReceived t h p => exact s.receive_follows _ h p fun u => u.judgePresent_follows _
  | alertReportReceived t h p => exact s.receive_follows _ h p fun u => .refl u
  | transmitStart t => exact s.startSending_plain
  | arbitrationLoss t n => exact s.loseArbitration_plain n
  | cleanSend t => exact s.finishSend_plain
  | bitError t n => exact s.bitError_plain n
  | lineBreak t => exact s.seeBreak_plain t
  | receiveError t o => exact s.receiveError_plain t o
  | checkError t bytes => exact s.judgeBytes_plain bytes
  | noisePulse t => exact (s.setLine_lineOnly _).plain (.stand rfl rfl)
  | responseByte t line => exact s.responseByte_plain t _ _ _
  | lineIdle t => exact s.lineIdle_plain t
  | powerOn | rstnAssert | rstnRelease | rlkChange => exact idle _

theorem State.atTime_plain (s : State) (t : Time) : State.Plain s (s.atTime t) :=
  .of_marks (fun _ => .refl _) .refl rfl

/-- What a command outside reset other than that of the RLK pin does, follows its control. -/
theorem exec_follows {c : Instr} {s s' : State} (h : exec c s = .next s') (hr : isReset c = false) :
    State.Follows (Instr.control c) s s' ∨ ∃ level, c = .rlkChange level ∧ s' = { s with rlk := level } := by
  rcases exec_cases h hr with rfl | ⟨level, hc, hs⟩ | ⟨_, _, rfl⟩
  · exact .inl ((State.Follows.refl s').weaken _)
  · exact .inr ⟨level, hc, hs⟩
  · exact .inl ((s.atTime_plain _).before (act_follows c _))

end Sys2Proof.Machine
end

section
/-!
The laws of the transmit queue, of the line drive and of the settings, and who moves the controls and the station state (chapters 4, 7,
8, 10, 11).
-/
namespace Sys2Proof.Machine

open Sys2Proof.Safety

/-! ## Power-on and the RSTn pin -/

/-- The straps of a station outside STRAP_FAULT are in their ranges (R162). -/
def State.StrapsOk (s : State) : Prop :=
  s.station ≠ .strapFault → 1 ≤ s.stationNumber.toNat ∧ s.stationNumber.toNat ≤ 62 ∧ 1 ≤ s.blockBase.toNat ∧ s.blockBase.toNat ≤ 254

/-- The part drives the line, or has an own line break that the line has not recovered from. -/
def State.Drives (s : State) : Prop := s.drivesLine = true ∨ s.line.ownBreak.isSome = true

/-- What a command of power-on or of the RSTn pin does to the line interface, the setup times and the straps: nothing, their values after
reset, or a release of RSTn, which reads the straps of a powered part (R162, R168). -/
inductive PinStep (s s' : State) : Prop
  | stand (h : s' = s)
  | reset (rx : s'.line.rx = .recover) (queue : s'.line.queue = []) (own : s'.line.ownBreak = none)
      (times : s'.prerollByte = 40 ∧ s'.lateLimitByte = 50) (straps : s'.StrapsOk)
  | release (held : s.isHeld = true) (queue : s'.line.queue = s.line.queue)
      (times : s'.prerollByte = s.prerollByte ∧ s'.lateLimitByte = s.lateLimitByte)
      (drives : s'.Drives → s.Drives) (straps : s.StrapsOk → s'.StrapsOk)

theorem State.readStraps_strapsOk (s : State) (p : ReleaseLevels) : (s.readStraps p).StrapsOk := by
  intro h
  simp only [State.readStraps] at h ⊢
  split at h
  next hv => exact (strapsValid_iff p).mp hv
  next => exact absurd rfl h

/-- The part drives the line with a frame, an own line break, or a response that its station may send (R124). -/
theorem State.drives_iff (s : State) : s.Drives ↔ s.line.Driving ∨ (s.line.responding = true ∧ s.station.mayDrive = true) := by
  have hbreak : s.line.drivesBreak s.timer = true → s.line.ownBreak.isSome = true := fun h => by
    obtain ⟨since, hs, _⟩ := Option.any_eq_true _ _ |>.mp h
    exact Option.isSome_iff_exists.mpr ⟨since, hs⟩
  simp only [State.Drives, State.drivesLine, State.sendsBits, LineInterface.Driving, Bool.or_eq_true, Bool.and_eq_true]
  constructor
  · rintro (((h | h) | h) | h)
    · exact .inl (.inl h)
    · exact .inr h
    · exact .inl (.inr (hbreak h))
    · exact .inl (.inr h)
  · rintro ((h | h) | h)
    · exact .inl (.inl (.inl h))
    · exact .inr h
    · exact .inl (.inl (.inr h))

theorem State.leaveReset_drives {s : State} {p : ReleaseLevels} (h : (s.leaveReset p).Drives) : s.Drives := by
  have hd : (s.leaveReset p).station.mayDrive = false := by
    simp only [State.leaveReset, State.readStraps]
    split <;> rfl
  rw [State.drives_iff, hd] at h
  exact (State.drives_iff s).mpr (.inl (h.resolve_right (by simp)))

theorem exec_pinStep {c : Instr} {s s' : State} (h : exec c s = .next s') (hr : isReset c = true) : PinStep s s' := by
  cases c with
  | powerOn p =>
    simp only [exec, execPowerOn] at h
    cases h
    split
    · exact .reset rfl rfl rfl ⟨rfl, rfl⟩ fun k => absurd rfl k
    · exact .reset rfl rfl rfl ⟨rfl, rfl⟩ (State.readStraps_strapsOk _ p)
  | rstnAssert =>
    simp only [exec, execRstnAssert] at h
    cases h
    exact .reset rfl rfl rfl ⟨rfl, rfl⟩ fun k => absurd rfl k
  | rstnRelease p =>
    simp only [exec, execRstnRelease] at h
    cases h
    split
    · exact .stand rfl
    next hra =>
      have hheld : s.isHeld = true := by simp [State.isHeld, hra]
      split
      · exact .release hheld rfl ⟨rfl, rfl⟩ State.leaveReset_drives fun _ => State.readStraps_strapsOk _ p
      · exact .release hheld rfl ⟨rfl, rfl⟩ id id
  | _ => exact absurd hr (by simp [isReset])

/-! ## The transmit queue law -/

theorem StationMove.queueLaw {s s' : State} (m : StationMove s s') (h : QueueLaw s.line.queue) : QueueLaw s'.line.queue := by
  cases m with
  | setup _ _ hl => exact hl.queueLaw h
  | active _ _ hl => exact hl.queueLaw h
  | clash _ _ hq => exact hq ▸ h.sublist (List.nil_sublist _)

/-- Settles O54. -/
theorem stepKeepsTheTransmitQueueLaw : Obligations.StepKeepsTheTransmitQueueLaw := by
  intro s s' hs h
  rw [txQueueLaw_iff] at hs ⊢
  rcases step_cases h with rfl | ⟨c, rest, _, h⟩
  · exact hs
  cases hr : isReset c
  · rcases exec_follows h hr with hf | ⟨level, _, rfl⟩
    · rcases hf.station with ⟨_, hl⟩ | ⟨_, hm⟩
      · exact hl.queueLaw hs
      · exact hm.queueLaw hs
    · exact hs
  · cases exec_pinStep h hr with
    | stand e => exact e ▸ hs
    | reset _ hq => exact hq ▸ hs.sublist (List.nil_sublist _)
    | release _ hq => exact hq ▸ hs

/-! ## The drive law -/

theorem driveLaw_iff (s : State) : DriveLaw s ↔ (s.Drives → s.isHeld = false ∧ s.station.mayDrive = true) :=
  forall_congr' fun _ => and_congr Iff.rfl (StationState.mayDrive_iff _).symm

theorem StationMove.mayDrive {s s' : State} (m : StationMove s s') :
    s'.station.mayDrive = true ∨ ¬ s'.line.Driving := by
  cases m with
  | setup _ h' => exact .inl (h' ▸ rfl)
  | active _ h' => exact .inl (h' ▸ rfl)
  | clash _ _ hq hb => exact .inr (by simp [LineInterface.Driving, LineInterface.flying, hq, hb])

/-- A command on a running part drives the line only where the station then may (R124). -/
theorem State.Follows.driveLaw {k : Control} {s s' : State} (f : State.Follows k s s') (hheld : s.isHeld = false) (h : DriveLaw s) :
    DriveLaw s' := by
  rw [driveLaw_iff] at h ⊢
  intro hd
  refine ⟨f.held.trans hheld, ?_⟩
  rcases (State.drives_iff s').mp hd with hl | ⟨_, hm⟩
  · rcases f.station with ⟨hs, hline⟩ | ⟨_, hm⟩
    · rw [hs]
      refine (hline.driving hl).elim (fun hb => ?_) id
      exact (h ((State.drives_iff s).mpr (.inl hb))).2
    · exact hm.mayDrive.resolve_right (not_not_intro hl)
  · exact hm

theorem step_keeps_driveLaw {s s' : State} (hs : DriveLaw s) (h : step s = .next s') : DriveLaw s' := by
  rcases step_cases h with rfl | ⟨c, rest, _, h⟩
  · exact hs
  have hs : DriveLaw { s with pending := rest } := hs
  generalize { s with pending := rest } = u at hs h
  cases hr : isReset c
  · rcases exec_cases h hr with rfl | ⟨level, _, rfl⟩ | ⟨_, hheld, rfl⟩
    · exact hs
    · exact hs
    · exact ((u.atTime_plain _).before (act_follows c _)).driveLaw hheld hs
  · rw [driveLaw_iff] at hs ⊢
    cases exec_pinStep h hr with
    | stand e => exact e ▸ hs
    | reset hrx hq hb =>
      rw [State.drives_iff]
      simp [LineInterface.Driving, LineInterface.flying, LineInterface.responding, hrx, hq, hb]
    | release hheld _ _ hd => exact fun k => absurd (hs (hd k)).1 (by simp [hheld])

/-! ## The settings law -/

theorem settingsLaw_iff (s : State) : SettingsLaw s ↔ s.prerollByte.toNat ≤ 100 ∧ s.lateLimitByte.toNat ≤ 200 ∧ s.StrapsOk := Iff.rfl

theorem StationMove.ne_strapFault {s s' : State} (m : StationMove s s') : s.station ≠ .strapFault := by
  cases m with
  | setup h => simp [h]
  | active h => simp [h]
  | clash h => exact fun k => by simp [k, StationState.testsClash] at h

theorem State.Follows.strapsOk {k : Control} {s s' : State} (f : State.Follows k s s') (h : s.StrapsOk) : s'.StrapsOk := by
  intro hs
  have hne : s.station ≠ .strapFault := by
    rcases f.station with ⟨e, _⟩ | ⟨_, m⟩
    · exact e ▸ hs
    · exact m.ne_strapFault
  rw [f.number, f.base]
  exact h hne

theorem State.Follows.settingsLaw {k : Control} {s s' : State} (f : State.Follows k s s') (h : SettingsLaw s) : SettingsLaw s' := by
  obtain ⟨h1, h2, h3⟩ := (settingsLaw_iff s).mp h
  refine (settingsLaw_iff s').mpr ?_
  rcases f.times with ⟨e1, e2, _⟩ | ⟨_, _, k1, k2⟩
  · rw [e1, e2]
    exact ⟨h1, h2, f.strapsOk h3⟩
  · exact ⟨k1, k2, f.strapsOk h3⟩

theorem step_keeps_settingsLaw {s s' : State} (hs : SettingsLaw s) (h : step s = .next s') : SettingsLaw s' := by
  rcases step_cases h with rfl | ⟨c, rest, _, h⟩
  · exact hs
  have hs : SettingsLaw { s with pending := rest } := hs
  generalize { s with pending := rest } = u at hs h
  cases hr : isReset c
  · rcases exec_follows h hr with hf | ⟨level, _, rfl⟩
    · exact hf.settingsLaw hs
    · exact hs
  · obtain ⟨h1, h2, h3⟩ := (settingsLaw_iff u).mp hs
    refine (settingsLaw_iff s').mpr ?_
    cases exec_pinStep h hr with
    | stand e => exact e ▸ ⟨h1, h2, h3⟩
    | reset _ _ _ ht hp =>
      rw [ht.1, ht.2]
      exact ⟨by decide, by decide, hp⟩
    | release _ _ ht _ hp =>
      rw [ht.1, ht.2]
      exact ⟨h1, h2, hp h3⟩

/-- Settles O52. -/
theorem stepKeepsTheGuardDriveAndSettingsLaws : Obligations.StepKeepsTheGuardDriveAndSettingsLaws :=
  fun _ _ h => ⟨fun hs => step_keeps_guardLaw hs h, fun hs => step_keeps_driveLaw hs h, fun hs => step_keeps_settingsLaw hs h⟩

/-! ## Who writes the controls -/

/-- Settles O49: the control of a command is read off its form. -/
theorem controlsChangeUnderTheirOwnCommandsAlone : Obligations.ControlsChangeUnderTheirOwnCommandsAlone := by
  intro c s s' i h hr
  rcases exec_follows h hr with f | ⟨level, rfl, rfl⟩
  · have rightsCmd {m : ChanMask} (k : Instr.control c = .rights m) : ∃ t h p, c = .rights t h p ∧ m = word3 p := by
      cases c <;> simp [Instr.control] at k
      exact ⟨_, _, _, rfl, k.symm⟩
    have fixCmd {m : ChanMask} (k : Instr.control c = .fix m) : ∃ t h p, c = .rightsFix t h p ∧ m = p := by
      cases c <;> simp [Instr.control] at k
      exact ⟨_, _, _, rfl, k.symm⟩
    have latchCmd {m : ChanMask} {b : Bool} (k : Instr.control c = .latches m b) :
        ∃ t h p, c = .latchClear t h p ∧ m = word3 p ∧ b = (last3 p).getLsbD 0 := by
      cases c <;> simp [Instr.control] at k
      exact ⟨_, _, _, rfl, k.1.symm, k.2.symm⟩
    refine ⟨f.number, f.base, fun _ => f.rlk, fun hc => f.lock fun k => ?_, fun hc => f.times.resolve_right fun k => ?_,
      fun hc => f.windows.resolve_right fun k => ?_, fun hc => (f.rights i).resolve_right fun k => ?_, fun hx => ?_, fun hx => ?_,
      fun hx => ?_, fun hx => ?_, fun hx => ?_⟩
    · cases c <;> simp [Instr.control] at k
      exact hc _ _ _ rfl
    · obtain ⟨k, hst, _⟩ := k
      cases c <;> simp [Instr.control] at k
      exact hc.elim (fun hc => hc _ _ _ rfl) fun hc => hc hst
    · obtain ⟨k, hst⟩ := k
      cases c <;> simp [Instr.control] at k
      exact hc.elim (fun hc => hc _ _ _ rfl) fun hc => hc hst
    · obtain ⟨m, k, hm, hfix, hlock⟩ := k
      obtain ⟨_, _, _, rfl, rfl⟩ := rightsCmd k
      rcases hc with hc | hc | hc
      · simp [hc _ _ _ rfl] at hm
      · simp [hc] at hfix
      · simp [hc] at hlock
    · rcases f.fixed i with e | ⟨e, _⟩
      · exact e.trans hx
      · exact e
    · rcases f.fixed i with e | ⟨_, m, k, hm⟩
      · exact .inl (e ▸ hx)
      · obtain ⟨_, _, _, rfl, rfl⟩ := fixCmd k
        exact .inr ⟨_, _, _, rfl, hm⟩
    · rcases f.activity i hx with e | ⟨m, b, k, hm⟩
      · exact .inl e
      · obtain ⟨_, _, _, rfl, rfl, _⟩ := latchCmd k
        exact .inr ⟨_, _, _, rfl, hm⟩
    · rcases f.latch with e | ⟨_, m, k⟩
      · exact .inl (e.trans hx)
      · obtain ⟨_, _, _, rfl, _, hb⟩ := latchCmd k
        exact .inr ⟨_, _, _, rfl, hb.symm⟩
    · rcases f.latch with e | ⟨e, _⟩
      · exact e ▸ hx
      · simp [e] at hx
  · exact ⟨rfl, rfl, fun hc => absurd rfl (hc level), fun _ => rfl, fun _ => ⟨rfl, rfl, rfl, rfl⟩, fun _ => ⟨rfl, rfl⟩, fun _ => rfl, id,
      .inl, .inl, .inl, id⟩

/-! ## The station state -/

theorem State.Quietly.fields {s u : State} (h : s.Quietly u) : u.station = s.station ∧ u.stationNumber = s.stationNumber := by
  obtain ⟨e, _, _⟩ := h
  exact ⟨by rw [e], by rw [e]⟩

/-- A frame changes the station state where its own block does. -/
theorem State.receive_station_ne {w : Nat} {s : State} {kind : FrameKind} {h : FrameHeader} {p : BitVec w} {f : State → State}
    (hne : (s.receive kind h p f).station ≠ s.station) :
    ∃ u, s.Quietly u ∧ s.receive kind h p f = f u ∧ (f u).station ≠ u.station := by
  have hn := s.noteRest_quietly (frameByteEnd s.timer) (frameRunEnd s.timer (checkByte (receivedBytes kind h p)))
  have hw := State.openWindow_quietly (s.noteFrame (checkByte (receivedBytes kind h p))) kind.responseType
  have ho : s.Quietly ((s.noteFrame (checkByte (receivedBytes kind h p))).openWindow kind.responseType) :=
    ⟨hn.line.trans hw.line, hw.queue.trans hn.queue, hw.ownBreak.trans hn.ownBreak⟩
  rcases s.receive_cases kind h p f with e | ⟨_, e⟩ | ⟨_, _, e⟩
  · exact absurd (e ▸ hn.fields.1) hne
  · exact absurd (e ▸ ho.fields.1) hne
  · exact ⟨_, ho, e, fun k => hne (by rw [e, k]; exact ho.fields.1)⟩

theorem State.takeSetup_station_ne {s : State} {f : State → State} (h : (s.takeSetup f).station ≠ s.station) :
    s.station = .setup ∧ s.takeSetup f = f s := by
  unfold State.takeSetup at h ⊢
  split at h
  next hs => exact ⟨hs, rfl⟩
  case h_5 => exact absurd rfl h
  all_goals exact absurd (s.answer_quietly _).fields.1 h

theorem State.enterActive_station (s : State) : s.enterActive.station = .active := by
  unfold State.enterActive State.raisePresent
  rw [State.offer_eq]

theorem State.judgeSetup_station_ne {s : State} {t : Time} (h : (s.judgeSetup t).station ≠ s.station) :
    s.station = .setup ∧ 2000000 < (t - s.setupStart).toNat ∧ (s.judgeSetup t).station = .active := by
  unfold State.judgeSetup at h ⊢
  split
  next hs => exact ⟨hs.1, (limitPassed_iff t s.setupStart setupLimit).mp hs.2, s.enterActive_station⟩
  next hs => exact absurd (by rw [if_neg hs]) h

theorem State.endQuiet_station_ne {s : State} {t : Time} (h : (s.endQuiet t).station ≠ s.station) :
    s.station = .listen ∧ 100000 ≤ (t - s.quietStart).toNat ∧ (s.endQuiet t).station = .setup ∧ (s.endQuiet t).setupStart = t := by
  unfold State.endQuiet at h ⊢
  split
  next hs => exact ⟨hs.1, hs.2.2, rfl, rfl⟩
  next hs => exact absurd (by rw [if_neg hs]) h

theorem State.judgePresent_station_ne {s : State} {source : Byte} (h : (s.judgePresent source).station ≠ s.station) :
    (s.station = .listen ∨ s.station = .setup ∨ s.station = .active) ∧ source = s.stationNumber.setWidth 8 ∧
      s.judgePresent source = s.enterClash := by
  unfold State.judgePresent at h ⊢
  split
  next hs =>
    simp only [Bool.and_eq_true, beq_iff_eq] at hs
    refine ⟨?_, hs.2, rfl⟩
    cases hst : s.station <;> simp [hst, StationState.testsClash] at hs ⊢
  next hs => exact absurd (by rw [if_neg hs]) h

/-- A station in CLASH drives nothing, and FAULT is asserted (R166, R167). -/
theorem State.enterClash_pins {s : State} (h : s.isHeld = false) :
    s.enterClash.station = .clash ∧ s.enterClash.line.queue = [] ∧ s.enterClash.drivesLine = false ∧ s.enterClash.faultPin = true := by
  refine ⟨rfl, rfl, ?_, ?_⟩
  · rw [← Bool.not_eq_true]
    refine fun k => absurd ((State.drives_iff _).mp (.inl k)) ?_
    simp [State.enterClash, LineInterface.Driving, LineInterface.flying, StationState.mayDrive, State.setLine]
  · have h : s.enterClash.isHeld = false := h
    rw [State.faultPin, h]
    rfl

/-- Settles O50: a command that changes the station state is one of those of section 11.2, and shows its move and its reason. -/
theorem stationStateMovesAsItsTable : Obligations.StationStateMovesAsItsTable := by
  intro c s s' h hr hne
  rcases exec_cases h hr with rfl | ⟨level, _, rfl⟩ | ⟨_, hheld, rfl⟩
  · exact absurd rfl hne
  · exact absurd rfl hne
  have hk := ((act_follows c (s.atTime (Instr.time c))).station.resolve_left fun k => hne k.1).1
  clear h hr
  cases c with
  | setupDone t h =>
    obtain ⟨u, hu, e, hown⟩ := State.receive_station_ne (s := s.atTime t)
      (f := fun s => s.ifOwn h fun s => s.takeSetup fun s => s.enterActive.answer .accepted) hne
    obtain ⟨hst, hnum⟩ := hu.fields
    have hn : u.isOwnNumber h = true := by
      by_contra k
      exact hown (by rw [State.ifOwn, if_neg k])
    rw [State.ifOwn, if_pos hn] at hown e
    obtain ⟨hsetup, hact⟩ := State.takeSetup_station_ne hown
    have e : act (.setupDone t h) (s.atTime t) = u.enterActive.answer .accepted := e.trans hact
    refine .inr (.inl ⟨hst.symm.trans hsetup, ?_, .inl ⟨t, h, rfl, ?_⟩⟩)
    · rw [show Instr.time (.setupDone t h) = t from rfl, e, (State.answer_quietly _ _).fields.1, State.enterActive_station]
    · have hnum : u.stationNumber = s.stationNumber := hnum
      rw [State.isOwnNumber, Bool.and_eq_true, beq_iff_eq, hnum] at hn
      exact hn.2
  | setupWindowExpiry t =>
    obtain ⟨h1, h2, h3⟩ := State.judgeSetup_station_ne (s := s.atTime t) hne
    exact .inr (.inl ⟨h1, h3, .inr ⟨t, rfl, h2⟩⟩)
  | quietPeriodEnd t =>
    obtain ⟨h1, h2, h3, h4⟩ := State.endQuiet_station_ne (s := s.atTime t) hne
    exact .inl ⟨h1, h3, t, rfl, h2, h4⟩
  | presentReceived t h p =>
    obtain ⟨u, hu, e, hown⟩ := State.receive_station_ne (s := s.atTime t) (f := fun s => s.judgePresent h.source) hne
    obtain ⟨hst, hnum⟩ := hu.fields
    obtain ⟨h1, h2, h3⟩ := State.judgePresent_station_ne hown
    have hu : u.isHeld = false := (hu.line.sameBlocks.isHeld).trans hheld
    have e : act (.presentReceived t h p) (s.atTime t) = u.enterClash := e.trans h3
    obtain ⟨k1, k2, k3, k4⟩ := State.enterClash_pins hu
    have hst : u.station = s.station := hst
    rw [show Instr.time (.presentReceived t h p) = t from rfl, e]
    exact .inr (.inr ⟨hst ▸ h1, k1, k2, k3, k4, t, h, p, rfl, h2.trans (congrArg _ hnum)⟩)
  | _ => simp [Instr.control] at hk

end Sys2Proof.Machine
end

section
/-!
The alert table (section 6.3): how the operations of the alert unit change it, its law, and the order of keys that it gives (R36).
-/
namespace Sys2Proof.Machine

open Sys2Proof.Safety

/-! ## Channel masks -/

theorem inMask_slotMask (i j : Slot) : inMask (slotMask i) j = decide (j = i) := by
  have hj := j.isLt
  have hi := i.isLt
  simp only [inMask, slotMask, BitVec.getLsbD_shiftLeft, BitVec.getLsbD_one]
  by_cases h : j = i
  · subst h
    simp
  · have : j.val ≠ i.val := fun k => h (Fin.ext k)
    simp only [h, decide_false]
    by_cases hlt : j.val < i.val
    · simp [hlt]
    · have : j.val - i.val ≠ 0 := by omega
      simp [this]

theorem inMask_join (m : ChanMask) (i j : Slot) : inMask (m ||| slotMask i) j = (inMask m j || decide (j = i)) := by
  rw [← inMask_slotMask]
  exact BitVec.getLsbD_or

theorem inMask_leave (m : ChanMask) (i j : Slot) : inMask (m &&& ~~~ slotMask i) j = (inMask m j && !decide (j = i)) := by
  rw [← inMask_slotMask]
  have hj := j.isLt
  simp [inMask, hj]

/-! ## The table law -/

/-- What the alert table law says of a table. -/
structure TableLaw (l : List AlertRecord) : Prop where
  few    : l.length ≤ 8
  nodup  : (l.map (·.alertId)).Nodup
  ranked : ∀ r ∈ l, 1 ≤ r.level ∧ r.level ≤ 7
  none   : ∀ r ∈ l, r.mode = .observe → r.channelSet = 0

theorem alertTableLaw_iff (s : State) : AlertTableLaw s ↔ TableLaw s.alerts :=
  ⟨fun ⟨h1, h2, h3⟩ => ⟨h1, h2, fun r hr => ⟨(h3 r hr).1, (h3 r hr).2.1⟩, fun r hr => (h3 r hr).2.2⟩,
    fun ⟨h1, h2, h3, h4⟩ => ⟨h1, h2, fun r hr => ⟨(h3 r hr).1, (h3 r hr).2, h4 r hr⟩⟩⟩

/-- The record of this id is changed by f. -/
def changeRecord (id : Ident) (f : AlertRecord → AlertRecord) (l : List AlertRecord) : List AlertRecord :=
  l.map fun r => if r.alertId = id then f r else r

theorem State.modAlert_alerts (s : State) (id : Ident) (f : AlertRecord → AlertRecord) :
    (s.modAlert id f).alerts = changeRecord id f s.alerts := rfl

/-- A change of a record that keeps its id, its level and its mode. -/
def KeepsKey (f : AlertRecord → AlertRecord) : Prop := ∀ r, (f r).alertId = r.alertId ∧ (f r).level = r.level ∧ (f r).mode = r.mode

/-- What the order of keys needs of a table: the ids, levels and modes of its records, in order. -/
def skeleton (l : List AlertRecord) : List (Ident × Nat × AlertMode) := l.map fun r => (r.alertId, r.level, r.mode)

theorem changeRecord_skeleton {f : AlertRecord → AlertRecord} (hf : KeepsKey f) (id : Ident) (l : List AlertRecord) :
    skeleton (changeRecord id f l) = skeleton l := by
  simp only [skeleton, changeRecord, List.map_map]
  refine List.map_congr_left fun r _ => ?_
  obtain ⟨h1, h2, h3⟩ := hf r
  simp only [Function.comp_apply]
  split
  · rw [h1, h2, h3]
  · rfl

theorem skeleton_ids {l l' : List AlertRecord} (h : skeleton l' = skeleton l) : l'.map (·.alertId) = l.map (·.alertId) := by
  have := congrArg (List.map Prod.fst) h
  simpa [skeleton, List.map_map, Function.comp_def] using this

theorem mem_skeleton {l : List AlertRecord} {id : Ident} {level : Nat} {mode : AlertMode} :
    (id, level, mode) ∈ skeleton l ↔ ∃ r ∈ l, r.alertId = id ∧ r.level = level ∧ r.mode = mode := by
  simp [skeleton]

theorem TableLaw.of_skeleton {l l' : List AlertRecord} (h : TableLaw l) (k : skeleton l' = skeleton l)
    (hn : ∀ r ∈ l', r.mode = .observe → r.channelSet = 0) : TableLaw l' := by
  refine ⟨?_, skeleton_ids k ▸ h.nodup, fun r hr => ?_, hn⟩
  · have := congrArg List.length k
    simp only [skeleton, List.length_map] at this
    exact this ▸ h.few
  · have hm : (r.alertId, r.level, r.mode) ∈ skeleton l := k ▸ mem_skeleton.mpr ⟨r, hr, rfl, rfl, rfl⟩
    obtain ⟨x, hx, _, hlevel, _⟩ := mem_skeleton.mp hm
    exact hlevel ▸ h.ranked x hx

theorem mem_changeRecord {id : Ident} {f : AlertRecord → AlertRecord} {l : List AlertRecord} {r : AlertRecord} :
    r ∈ changeRecord id f l ↔ ∃ x ∈ l, (x.alertId = id ∧ r = f x) ∨ (x.alertId ≠ id ∧ r = x) := by
  simp only [changeRecord, List.mem_map]
  refine exists_congr fun x => and_congr_right fun _ => ?_
  by_cases h : x.alertId = id <;> simp [h, eq_comm]

theorem TableLaw.change {l : List AlertRecord} (h : TableLaw l) {f : AlertRecord → AlertRecord} (hf : KeepsKey f) (id : Ident)
    (hn : ∀ r ∈ l, r.alertId = id → r.mode = .observe → (f r).channelSet = 0) : TableLaw (changeRecord id f l) := by
  refine h.of_skeleton (changeRecord_skeleton hf id l) fun r hr hm => ?_
  obtain ⟨x, hx, ⟨k, rfl⟩ | ⟨_, rfl⟩⟩ := mem_changeRecord.mp hr
  · exact hn x hx k ((hf x).2.2 ▸ hm)
  · exact h.none r hx hm

/-! ## What the operations do to the table -/

theorem alertRecord_eq_none {s : State} {id : Ident} (h : s.alertRecord id = none) : ∀ r ∈ s.alerts, r.alertId ≠ id := by
  simpa [State.alertRecord] using h

theorem alertRecord_eq_some {s : State} {id : Ident} {r : AlertRecord} (h : s.alertRecord id = some r) :
    r ∈ s.alerts ∧ r.alertId = id := ⟨List.mem_of_find?_eq_some h, by simpa using List.find?_some h⟩

theorem leaveSet_keepsKey (i : Slot) : KeepsKey fun r => { r with channelSet := r.channelSet &&& ~~~ slotMask i } :=
  fun _ => ⟨rfl, rfl, rfl⟩

theorem joinSet_keepsKey (i : Slot) : KeepsKey fun r => { r with channelSet := r.channelSet ||| slotMask i } :=
  fun _ => ⟨rfl, rfl, rfl⟩

/-- The table after the record o of channel i has been shed: the channel leaves the set of the alert it refers to (R38). -/
def shedTable (i : Slot) (o : Option Record) (l : List AlertRecord) : List AlertRecord :=
  match o with
  | some (.alert a) => changeRecord a.alertId (fun r => { r with channelSet := r.channelSet &&& ~~~ slotMask i }) l
  | some (.brk _) | none => l

theorem State.shed_alerts (s : State) (i : Slot) (r : Record) : (s.shed i r).alerts = shedTable i (some r) s.alerts := by
  cases r with
  | alert a => rfl
  | brk b => exact (State.releasePort_alerts ..).trans (State.Edited.raiseBreak s i _ _ b).alerts

theorem State.place_alerts (s : State) (i : Slot) (r : Record) : ∃ o, (s.place i r).2.alerts = shedTable i o s.alerts := by
  unfold State.place
  split
  · exact ⟨none, rfl⟩
  split
  next bottom rest hh =>
    split
    · exact ⟨some bottom, State.shed_alerts ..⟩
    · exact ⟨none, rfl⟩
  next => exact ⟨none, rfl⟩

theorem State.preemptReturnWait_alerts (s : State) (i : Slot) (b : BreakRecord) : (s.preemptReturnWait i b).alerts = s.alerts := by
  simp only [State.preemptReturnWait]
  refine (State.releasePort_alerts ..).trans ?_
  split
  · exact (State.Edited.raiseBreak s i _ _ b).alerts
  · rfl

theorem State.holdBreak_alerts (s : State) (i : Slot) (b : BreakRecord) :
    (s.holdBreak i b).alerts = ((s.modChan i fun c => { c with active := none }).place i (.brk b)).2.alerts :=
  (State.Edited.raiseBreak _ i _ _ b).alerts

theorem State.setAside_alerts (s : State) (i : Slot) : ∃ o, (s.setAside i).alerts = shedTable i o s.alerts := by
  rcases s.setAside_cases i with k | ⟨e, he, k⟩ | ⟨b, hb, k⟩ | ⟨b, hb, k⟩ | ⟨x, _, k⟩ <;> rw [k]
  · exact ⟨none, rfl⟩
  · exact ⟨none, (s.missEntry_edited i (cutWaitEntry_spec he).1 _).alerts⟩
  · obtain ⟨o, h⟩ := (s.modChan i fun c => { c with active := none }).place_alerts i (.brk b)
    exact ⟨o, (s.holdBreak_alerts i b).trans h⟩
  · exact ⟨none, s.preemptReturnWait_alerts i b⟩
  · exact State.place_alerts _ i _

/-- An alert that is offered to a channel leaves the table but for what is shed and for the set that the channel joins. -/
theorem State.offerAlert_alerts (s : State) (a : AlertRef) (i : Slot) :
    ∃ o, (s.offerAlert a i).alerts = shedTable i o s.alerts ∨
      (s.offerAlert a i).alerts = changeRecord a.alertId (fun r => { r with channelSet := r.channelSet ||| slotMask i })
        (shedTable i o s.alerts) := by
  unfold State.offerAlert
  split
  · obtain ⟨o, h⟩ := s.setAside_alerts i
    have hp : (s.preempt i a).alerts = shedTable i o s.alerts := h
    exact ⟨o, .inr (by rw [← hp]; rfl)⟩
  · obtain ⟨o, h⟩ := s.place_alerts i (.alert a)
    refine ⟨o, ?_⟩
    dsimp only
    split
    · exact .inr (by rw [← h]; rfl)
    · exact .inl h

theorem State.evaluateRejoin_alerts (s : State) (i : Slot) (b : BreakRecord) : (s.evaluateRejoin i b).alerts = s.alerts := by
  simp only [State.evaluateRejoin]
  split
  · rfl
  · exact (State.releasePort_alerts _ i b.port).trans (State.Edited.raiseBreak s i .cutOut _ b).alerts

theorem State.releaseChannel_alerts (s : State) (i : Slot) : (s.releaseChannel i).alerts = s.alerts := by
  simp only [State.releaseChannel]
  split
  · rfl
  · rfl
  · exact State.evaluateRejoin_alerts _ i _

theorem State.giveUp_alerts (s : State) (id : Ident) (i : Slot) : (s.giveUp id i).alerts = s.alerts := by
  unfold State.giveUp
  split
  · exact s.releaseChannel_alerts i
  · rfl

theorem State.answerNumber_alerts (s : State) (b : Bool) (n : Nat) : (s.answerNumber b n).alerts = s.alerts :=
  (s.answerNumber_lineOnly b n).sameBlocks.alerts

theorem shedTable_skeleton (i : Slot) (o : Option Record) (l : List AlertRecord) : skeleton (shedTable i o l) = skeleton l := by
  unfold shedTable
  split
  · exact changeRecord_skeleton (leaveSet_keepsKey i) _ _
  · rfl
  · rfl

theorem TableLaw.shed {l : List AlertRecord} (h : TableLaw l) (i : Slot) (o : Option Record) : TableLaw (shedTable i o l) := by
  unfold shedTable
  split
  next a =>
    refine h.change (leaveSet_keepsKey i) a.alertId fun r hr _ hm => ?_
    simp [h.none r hr hm]
  · exact h
  · exact h

/-- Every record of this id is an OVERRIDE record. -/
def Overriding (id : Ident) (l : List AlertRecord) : Prop := ∀ r ∈ l, r.alertId = id → r.mode = .override

theorem Overriding.of_skeleton {id : Ident} {l l' : List AlertRecord} (h : Overriding id l) (k : skeleton l' = skeleton l) :
    Overriding id l' := by
  intro r hr hid
  have hm : (r.alertId, r.level, r.mode) ∈ skeleton l := k ▸ mem_skeleton.mpr ⟨r, hr, rfl, rfl, rfl⟩
  obtain ⟨x, hx, h1, _, h3⟩ := mem_skeleton.mp hm
  exact h3 ▸ h x hx (h1.trans hid)

theorem TableLaw.join {l : List AlertRecord} (h : TableLaw l) (i : Slot) {id : Ident} (ho : Overriding id l) :
    TableLaw (changeRecord id (fun r => { r with channelSet := r.channelSet ||| slotMask i }) l) :=
  h.change (joinSet_keepsKey i) id fun r hr hid hm => by simp [ho r hr hid] at hm

theorem State.offerAlert_tableLaw {s : State} {a : AlertRef} (i : Slot) (h : TableLaw s.alerts) (ho : Overriding a.alertId s.alerts) :
    TableLaw (s.offerAlert a i).alerts ∧ Overriding a.alertId (s.offerAlert a i).alerts := by
  obtain ⟨o, k⟩ := s.offerAlert_alerts a i
  have hshed := shedTable_skeleton i o s.alerts
  rcases k with k | k <;> rw [k]
  · exact ⟨h.shed i o, ho.of_skeleton hshed⟩
  · exact ⟨(h.shed i o).join i (ho.of_skeleton hshed),
      ho.of_skeleton ((changeRecord_skeleton (joinSet_keepsKey i) _ _).trans hshed)⟩

theorem TableLaw.add {l : List AlertRecord} (h : TableLaw l) (hl : l.length < 8) {r : AlertRecord} (hid : ∀ x ∈ l, x.alertId ≠ r.alertId)
    (hr : 1 ≤ r.level ∧ r.level ≤ 7) (hset : r.channelSet = 0) : TableLaw (l ++ [r]) := by
  refine ⟨by simp; omega, ?_, fun x hx => ?_, fun x hx hm => ?_⟩
  · rw [List.map_append, List.map_singleton]
    refine List.nodup_append.mpr ⟨h.nodup, by simp, fun x hx y hy => ?_⟩
    obtain ⟨z, hz, rfl⟩ := List.mem_map.mp hx
    rw [List.mem_singleton.mp hy]
    exact hid z hz
  · rcases List.mem_append.mp hx with hx | hx
    · exact h.ranked x hx
    · exact List.mem_singleton.mp hx ▸ hr
  · rcases List.mem_append.mp hx with hx | hx
    · exact h.none x hx hm
    · exact List.mem_singleton.mp hx ▸ hset

theorem TableLaw.filter {l : List AlertRecord} (h : TableLaw l) (p : AlertRecord → Bool) : TableLaw (l.filter p) :=
  ⟨(List.length_filter_le ..).trans h.few, h.nodup.sublist (List.filter_sublist.map _),
    fun r hr => h.ranked r (List.mem_of_mem_filter hr), fun r hr => h.none r (List.mem_of_mem_filter hr)⟩

/-- The table after an OVERRIDE alert has been offered to some channels (R98). -/
theorem State.offerAll_tableLaw {s : State} {a : AlertRef} (slots : List Slot) (h : TableLaw s.alerts) (ho : Overriding a.alertId s.alerts) :
    TableLaw (slots.foldl (fun s i => s.offerAlert a i) s).alerts :=
  And.left (foldl_keeps (P := fun u => TableLaw u.alerts ∧ Overriding a.alertId u.alerts) slots ⟨h, ho⟩
    fun _ hu i _ => State.offerAlert_tableLaw i hu.1 hu.2)

theorem State.giveUpAll_alerts (s : State) (id : Ident) (slots : List Slot) :
    (slots.foldl (fun s i => s.giveUp id i) s).alerts = s.alerts :=
  foldl_keeps (P := fun u => u.alerts = s.alerts) slots rfl fun u hu i _ => (u.giveUp_alerts id i).trans hu

theorem State.endAlert_alerts (s : State) (r : AlertRecord) (reason : AlertReason) :
    (s.endAlert r reason).alerts = s.alerts.filter fun x => x.alertId != r.alertId := by
  unfold State.endAlert State.raiseAlert
  refine (State.Edited.offer _ _).alerts.trans ?_
  exact congrArg (List.filter _) (s.giveUpAll_alerts r.alertId _)

theorem AlertOp.tableLaw {u v : State} (h : AlertOp u v) (k : TableLaw u.alerts) : TableLaw v.alerts := by
  cases h with
  | refresh f source =>
    rw [State.modAlert_alerts]
    refine k.change ?_ f.alertId fun r hr _ hm => k.none r hr hm
    exact fun _ => ⟨rfl, rfl, rfl⟩
  | observe f source hf hn hl => exact k.add hl (alertRecord_eq_none hn) (AlertOnFields.level_ranked hf) rfl
  | override f source w hf hn hl =>
    have hadd : TableLaw (u.addAlert (f.toRecord .override source u.timer)).alerts :=
      k.add hl (alertRecord_eq_none hn) (AlertOnFields.level_ranked hf) rfl
    have hover : Overriding f.alertId (u.addAlert (f.toRecord .override source u.timer)).alerts := by
      intro r hr hid
      rcases List.mem_append.mp hr with hr | hr
      · exact absurd hid (alertRecord_eq_none hn r hr)
      · exact List.mem_singleton.mp hr ▸ rfl
    unfold State.overrideAlert State.answerAlert State.raiseAlert
    rw [State.answerNumber_alerts, (State.Edited.offer _ _).alerts]
    exact State.offerAll_tableLaw (a := { alertId := f.alertId, level := f.level, offset := none }) _ hadd hover
  | ended r id _ reason => exact u.endAlert_alerts r reason ▸ k.filter _

theorem State.EditedLossy.alerts {u v : State} (h : u.EditedLossy v) : v.alerts = u.alerts := by
  obtain ⟨w, x, h1, h2, h3⟩ := h
  refine h3.alerts.trans (Eq.trans ?_ h1.alerts)
  rcases h2 with rfl | ⟨i, rfl⟩
  · rfl
  · exact (w.loseClock_edited i).alerts

/-- Settles O51. -/
theorem stepKeepsTheAlertTableLaw : Obligations.StepKeepsTheAlertTableLaw := by
  intro s s' hs h
  refine step_keeps (P := AlertTableLaw) (fun u v hb hu => ?_) (fun u v _ ho hu => ?_) (fun u v _ hc => ?_) (fun u v hu hr => ?_) hs h <;>
    rw [alertTableLaw_iff] at *
  · exact hb.alerts ▸ hu
  · rcases ho.cases with he | ⟨_, he, _⟩ | ⟨cell, rfl⟩ | ⟨f, _, rfl⟩ | he
    · exact he.alerts ▸ hu
    · exact he ▸ hu
    · exact hu
    · exact hu
    · exact he.tableLaw hu
  · rw [hc.alerts]
    exact ⟨by simp, by simp, by simp, by simp⟩
  · exact hr.alerts ▸ hu

end Sys2Proof.Machine
end

section
/-!
The order of keys (R36), the hold stack in that order (R37), and what the edits of a channel record keep of both (sections 3.3, 6.8).
-/
namespace Sys2Proof.Machine

open Sys2Proof.Safety

/-! ## The order of keys (R36) -/

theorem State.keyGreater_iff {s : State} {a b : Record} :
    s.keyGreater a b = true ↔ b.level < a.level ∨ (a.level = b.level ∧ s.recordAge a < s.recordAge b) := by
  simp [State.keyGreater]

theorem State.keyGreater_trans {s : State} {a b c : Record} (h : s.keyGreater a b = true) (k : s.keyGreater b c = true) :
    s.keyGreater a c = true := by
  rw [State.keyGreater_iff] at *
  omega

/-- A reference by its key, whatever its D. -/
theorem State.keyGreater_offset_left (s : State) (a : AlertRef) (d : Option Time) (r : Record) :
    s.keyGreater (.alert { a with offset := d }) r = s.keyGreater (.alert a) r := rfl

theorem State.keyGreater_alert_brk (s : State) {a : AlertRef} (h : 1 ≤ a.level) (b : BreakRecord) :
    s.keyGreater (.alert a) (.brk b) = true := State.keyGreater_iff.mpr (.inl h)

theorem State.keyGreater_congr {s u : State} (h : u.alerts.map (·.alertId) = s.alerts.map (·.alertId)) (a b : Record) :
    u.keyGreater a b = s.keyGreater a b := by
  have hage (id : Ident) : u.ageOf id = s.ageOf id := by
    have age (v : State) : v.ageOf id = (v.alerts.map (·.alertId)).findIdx (· == id) := by
      rw [List.findIdx_map]
      rfl
    rw [age, age, h]
  have hrec (r : Record) : u.recordAge r = s.recordAge r := by
    cases r with
    | brk b => rfl
    | alert a => exact hage a.alertId
  unfold State.keyGreater
  rw [hrec, hrec]

theorem State.ageOf_inj {s : State} {a b : Ident} (ha : ∃ r ∈ s.alerts, r.alertId = a) (h : s.ageOf a = s.ageOf b) : a = b := by
  obtain ⟨r, hr, hid⟩ := ha
  have hlt : s.ageOf a < s.alerts.length := List.findIdx_lt_length_of_exists ⟨r, hr, by simp [hid]⟩
  have h1 := List.findIdx_getElem (w := hlt)
  have h2 := List.findIdx_getElem (w := (h ▸ hlt : s.ageOf b < s.alerts.length))
  simp only [beq_iff_eq] at h1 h2
  rw [← h1, ← h2]
  congr 1
  exact getElem_congr_idx h

/-- Of two references to different alerts of the table one has the greater key. -/
theorem State.keyGreater_total {s : State} {a b : AlertRef} (ha : ∃ r ∈ s.alerts, r.alertId = a.alertId) (hne : a.alertId ≠ b.alertId)
    (h : s.keyGreater (.alert a) (.alert b) = false) : s.keyGreater (.alert b) (.alert a) = true := by
  have hage : s.ageOf a.alertId ≠ s.ageOf b.alertId := fun k => hne (State.ageOf_inj ha k)
  rw [← Bool.not_eq_true, State.keyGreater_iff] at h
  rw [State.keyGreater_iff]
  simp only [Record.level, State.recordAge] at *
  omega

/-! ## The keys of one channel -/

/-- What the key law says of one channel in the table of s. -/
structure KeyOk (s : State) (c : Channel) : Prop where
  sorted : c.hold.Pairwise fun lower upper => s.keyGreater upper lower = true
  top    : ∀ top ∈ c.active, ∀ r ∈ c.hold, s.keyGreater top r = true
  inTable : ∀ a, Record.alert a ∈ records c → ∃ r ∈ s.alerts, r.alertId = a.alertId ∧ r.level = a.level ∧ r.mode = .override

theorem keyLaw_iff (s : State) : KeyLaw s ↔ ∀ i, KeyOk s (s.chan i) :=
  forall_congr' fun _ => ⟨fun ⟨h1, h2, h3⟩ => ⟨h1, h2, h3⟩, fun ⟨h1, h2, h3⟩ => ⟨h1, h2, h3⟩⟩

/-- A record of the channel refers to this alert. -/
def Channel.refers (c : Channel) (id : Ident) : Bool := (records c).any (Record.refersTo id)

theorem Channel.refers_iff {c : Channel} {id : Ident} : c.refers id = true ↔ ∃ a, Record.alert a ∈ records c ∧ a.alertId = id := by
  simp only [Channel.refers, List.any_eq_true]
  constructor
  · rintro ⟨r, hr, hk⟩
    cases r with
    | brk b => simp [Record.refersTo] at hk
    | alert a => exact ⟨a, hr, by simpa [Record.refersTo] using hk⟩
  · rintro ⟨a, ha, rfl⟩
    exact ⟨_, ha, by simp [Record.refersTo]⟩

theorem KeyOk.of_skeleton {s u : State} {c : Channel} (h : KeyOk s c) (k : skeleton u.alerts = skeleton s.alerts) : KeyOk u c := by
  have hgt := State.keyGreater_congr (skeleton_ids k)
  refine ⟨by simpa only [hgt] using h.sorted, fun top ht r hr => (hgt top r).trans (h.top top ht r hr), fun a ha => ?_⟩
  obtain ⟨r, hr, h1, h2, h3⟩ := h.inTable a ha
  have hm : (a.alertId, a.level, AlertMode.override) ∈ skeleton u.alerts := k ▸ mem_skeleton.mpr ⟨r, hr, h1, h2, h3⟩
  exact mem_skeleton.mp hm

theorem KeyOk.of_same {s : State} {c c' : Channel} (h : KeyOk s c) (ha : c'.active = c.active) (hh : c'.hold = c.hold) : KeyOk s c' := by
  refine ⟨hh ▸ h.sorted, ?_, ?_⟩
  · rw [ha, hh]
    exact h.top
  · unfold records
    rw [ha, hh]
    exact h.inTable

/-- A channel that holds nothing and has no alert on air keeps the key law. -/
theorem KeyOk.of_none {s : State} {c : Channel} (ha : ∀ a, c.active ≠ some (.alert a)) (hh : c.hold = []) : KeyOk s c := by
  refine ⟨by simp [hh], by simp [hh], fun a k => ?_⟩
  simp only [records, hh, List.append_nil, Option.mem_toList] at k
  exact absurd k (ha a)

theorem Channel.refers_of_none {c : Channel} (ha : ∀ a, c.active ≠ some (.alert a)) (hh : c.hold = []) (id : Ident) :
    c.refers id = false := by
  rw [← Bool.not_eq_true, Channel.refers_iff]
  rintro ⟨a, k, _⟩
  simp only [records, hh, List.append_nil, Option.mem_toList] at k
  exact ha a k

/-- The keys of a channel, and its references, as an edit leaves them: in order, and the same. -/
structure KeepsRefs (s : State) (c c' : Channel) : Prop where
  keys   : KeyOk s c → KeyOk s c'
  refers : ∀ id, c'.refers id = c.refers id

theorem KeepsRefs.of_same {s : State} {c c' : Channel} (ha : c'.active = c.active) (hh : c'.hold = c.hold) : KeepsRefs s c c' :=
  ⟨fun h => h.of_same ha hh, fun id => by unfold Channel.refers records; rw [ha, hh]⟩

theorem KeepsRefs.of_none {s : State} {c c' : Channel} (ha : ∀ a, c.active ≠ some (.alert a)) (hh : c.hold = [])
    (ha' : ∀ a, c'.active ≠ some (.alert a)) (hh' : c'.hold = []) : KeepsRefs s c c' :=
  ⟨fun _ => .of_none ha' hh', fun id => (Channel.refers_of_none ha' hh' id).trans (Channel.refers_of_none ha hh id).symm⟩

theorem level_shift (r : Record) (j : Time) : (r.shift j).level = r.level := by cases r <;> rfl

theorem keyGreater_shift (s : State) (a b : Record) (j : Time) : s.keyGreater (a.shift j) (b.shift j) = s.keyGreater a b := by
  cases a <;> cases b <;> rfl

theorem refersTo_shift (id : Ident) (r : Record) (j : Time) : (r.shift j).refersTo id = r.refersTo id := by cases r <;> rfl

theorem KeepsRefs.shift (s : State) (c : Channel) (j : Time) : KeepsRefs s c (c.shiftReturnPoints j) := by
  have hactive : (c.shiftReturnPoints j).active = c.active.map (Record.shift j) := rfl
  have hhold : (c.shiftReturnPoints j).hold = c.hold.map (Record.shift j) := rfl
  refine ⟨fun h => ⟨?_, ?_, fun a ha => h.inTable a ?_⟩, fun id => ?_⟩
  · rw [hhold, List.pairwise_map]
    simpa only [keyGreater_shift] using h.sorted
  · rw [hactive, hhold]
    intro top ht r hr
    obtain ⟨t, hmem, rfl⟩ := Option.map_eq_some_iff.mp ht
    obtain ⟨x, hx, rfl⟩ := List.mem_map.mp hr
    rw [keyGreater_shift]
    exact h.top t hmem x hx
  · simp only [records, hactive, hhold, List.mem_append, Option.mem_toList, alert_mem_map_shift, map_shift_eq_alert] at ha ⊢
    exact ha
  · unfold Channel.refers records
    rw [hactive, hhold, List.any_append, List.any_append, List.any_map]
    congr 1
    · cases c.active with
      | none => rfl
      | some r => simp [refersTo_shift]
    · exact List.any_congr rfl fun r => refersTo_shift id r j

theorem KeepsRefs.dropHeldBreak (s : State) (c : Channel) : KeepsRefs s c c.dropHeldBreak := by
  refine ⟨fun h => ⟨h.sorted.sublist List.filter_sublist, fun top ht r hr => h.top top ht r (List.mem_of_mem_filter hr),
    fun a ha => h.inTable a ?_⟩, fun id => ?_⟩
  · rcases List.mem_append.mp ha with ha | ha
    · exact List.mem_append.mpr (.inl ha)
    · exact List.mem_append.mpr (.inr (List.mem_of_mem_filter ha))
  · unfold Channel.refers records
    rw [List.any_append, List.any_append]
    congr 1
    unfold Channel.dropHeldBreak
    rw [List.any_filter]
    refine List.any_congr rfl fun r => ?_
    cases r <;> rfl

theorem Edit.keepsRefs {ring : AlertRing} {c c' : Channel} (e : Edit ring c c') (s : State) (hl : ChannelLaw c) : KeepsRefs s c c' := by
  have onAir (h : c.state.OnAir) : (∀ a, c.active ≠ some (.alert a)) ∧ c.hold = [] := by
    obtain ⟨⟨b, hb⟩, hh, _⟩ := (channelLaw_onBreak h).mp hl
    exact ⟨by simp [hb], hh⟩
  have returning (h : c.state = .returnWait) : (∀ a, c.active ≠ some (.alert a)) ∧ c.hold = [] := by
    obtain ⟨ha, hh, _⟩ := (channelLaw_returnWait h).mp hl
    exact ⟨by rcases ha with ha | ⟨b, ha⟩ <;> simp [ha], hh⟩
  cases e with
  | same k => exact .of_same k.active k.hold
  | mature | waitPort | reserve | drop | leave | put | starve | takeRights => exact .of_same rfl rfl
  | cutIn b he hp hc =>
    obtain ⟨ha, hh, _⟩ := (channelLaw_idle (.inr hc)).mp hl
    exact .of_none (by simp [ha]) hh (by simp) hh
  | returnCut hc => exact .of_none (onAir hc).1 (onAir hc).2 (by simp) (onAir hc).2
  | wait => exact .of_same rfl rfl
  | lose hc =>
    rcases hc with hc | hc
    · exact .of_none (onAir hc).1 (onAir hc).2 (by simp [Channel.enterReturnWait]) (onAir hc).2
    · exact .of_none (returning hc).1 (returning hc).2 (by simp [Channel.enterReturnWait]) (returning hc).2
  | dropHeld => exact .dropHeldBreak s c
  | network active hc ha =>
    obtain ⟨h1, h2⟩ := returning hc
    refine .of_none h1 h2 ?_ h2
    rcases ha with rfl | ⟨rfl, _⟩
    · simp
    · exact h1
  | rejoinCut => exact .of_same rfl rfl
  | shift j => exact .shift s c j
  | alertCut d hc ha hr hcell =>
    rename_i a reader cell
    refine ⟨fun h => ⟨h.sorted, fun top ht r hr => ?_, fun x hx => ?_⟩, fun id => ?_⟩
    · obtain rfl : Record.alert { a with offset := some d } = top := by simpa using ht
      rw [State.keyGreater_offset_left]
      exact h.top _ (by simp [ha]) r hr
    · simp only [records, Option.toList_some, List.singleton_append, List.mem_cons, Record.alert.injEq] at hx
      rcases hx with rfl | hx
      · exact h.inTable a (by simp [records, ha])
      · exact h.inTable x (by simp [records, hx])
    · simp [Channel.refers, records, ha, Record.refersTo]
  | advance => exact .of_same rfl rfl
  | looseCues _ cues pending st _ _ k => subst k; exact .of_same rfl rfl
  | looseRecords hn => exact absurd hl hn

/-- A lawful channel whose keys are in order, and its references, by a chain of edits. -/
theorem Edits.keepsRefs {ring : AlertRing} {c c' : Channel} (e : Edits ring c c') (s : State) (hl : ChannelLaw c) :
    KeepsRefs s c c' := by
  induction e with
  | refl => exact .of_same rfl rfl
  | tail h e ih =>
    have k := e.keepsRefs s (Edits.channelLaw h hl)
    exact ⟨fun x => k.keys (ih.keys x), fun id => (k.refers id).trans (ih.refers id)⟩

end Sys2Proof.Machine
end

section
/-!
The end of an alert record keeps the order of the hold stacks and the channel sets (R40, R41, R105, R106).
-/
namespace Sys2Proof.Machine

open Sys2Proof.Safety

/-! ## A release (R40, R41) -/

theorem State.evaluateRejoin_edits_ne (s : State) {i j : Slot} (hj : j ≠ i) (b : BreakRecord) :
    Edits s.ring (s.chan j) ((s.evaluateRejoin i b).chan j) := by
  simp only [State.evaluateRejoin]
  split
  · rw [State.modChan_chan_ne _ _ hj]
    exact .refl
  · rw [State.modChan_chan_ne _ _ hj]
    exact ((State.Edited.raiseBreak s i .cutOut _ b).trans (State.releasePort_edited _ i b.port)).chan j

/-- A release leaves the other channels, but for the arbiter. -/
theorem State.releaseChannel_edits_ne (s : State) {i j : Slot} (hj : j ≠ i) :
    Edits s.ring (s.chan j) ((s.releaseChannel i).chan j) := by
  have hdrop : (s.modChan i Channel.dropActiveAlert).chan j = s.chan j := State.modChan_chan_ne _ _ hj
  simp only [State.releaseChannel]
  split
  · rw [State.modChan_chan_ne _ _ hj, hdrop]
    exact .refl
  · rw [State.awaitAlert, State.modChan_chan_ne _ _ hj, hdrop]
    exact .refl
  · have := (s.modChan i Channel.dropActiveAlert).evaluateRejoin_edits_ne hj ‹BreakRecord›
    rwa [hdrop] at this

theorem State.giveUp_edits_ne (s : State) (id : Ident) {i j : Slot} (hj : j ≠ i) :
    Edits s.ring (s.chan j) ((s.giveUp id i).chan j) := by
  unfold State.giveUp
  split
  · exact s.releaseChannel_edits_ne hj
  · rw [State.modChan_chan_ne _ _ hj]
    exact .refl

/-- The records of a lawful channel after a release: the top of the stack is active, unless it is a break whose time is over or there is
none (R40, R41). -/
theorem State.releaseChannel_records {s : State} {i : Slot} {x : AlertRef} (hl : ChannelLaw (s.chan i))
    (hx : (s.chan i).active = some (.alert x)) :
    ((s.releaseChannel i).chan i).hold = (s.chan i).hold.dropLast ∧
      (((s.releaseChannel i).chan i).active = (s.chan i).hold.getLast? ∨
        (((s.releaseChannel i).chan i).active = none ∧ ∀ a, (s.chan i).hold.getLast? ≠ some (.alert a))) := by
  have hheld := heldLaw_of_channelLaw hl
  simp only [State.releaseChannel]
  split
  next hh =>
    rw [State.modChan_modChan, State.modChan_chan_same]
    exact ⟨rfl, .inl hh.symm⟩
  next a hh =>
    rw [State.awaitAlert, State.modChan_modChan, State.modChan_chan_same]
    refine ⟨rfl, .inl ?_⟩
    have ho : a.offset = none := (hheld.2.2 a (List.mem_of_getLast? hh)).2.2
    rw [hh]
    simp only [Channel.enterAlertWait, ← ho]
  next b hh =>
    have hu : (s.modChan i Channel.dropActiveAlert).chan i = (s.chan i).dropActiveAlert := State.modChan_chan_same ..
    generalize s.modChan i Channel.dropActiveAlert = u at hu
    simp only [State.evaluateRejoin]
    split
    · rw [State.modChan_chan_same]
      refine ⟨?_, .inl hh.symm⟩
      exact congrArg Channel.hold (hu : (u.modPort b.port fun q => q.goLive i).chan i = _)
    · rw [State.modChan_chan_same]
      have hst : ((s.chan i).dropActiveAlert).state ≠ .network := by
        rcases alerted_of_active hl hx with hs | hs <;> simp [Channel.dropActiveAlert, hs]
      rw [State.releasePort_chan_of_ne (by rw [State.raiseBreak_chan, hu]; exact hst), State.raiseBreak_chan, hu]
      exact ⟨rfl, .inr ⟨rfl, by simp [hh]⟩⟩

/-! ## The keys of a channel that gives an alert up -/

theorem pairwise_dropLast {α : Type} {R : α → α → Prop} {l : List α} (h : l.Pairwise R) {x : α} (hx : l.getLast? = some x) :
    ∀ y ∈ l.dropLast, R y x := by
  rw [← List.dropLast_append_getLast? x hx, List.pairwise_append] at h
  exact fun y hy => h.2.2 y hy x (by simp)

/-- The record on top of the stack is active, or none is. -/
theorem KeyOk.pop {s : State} {c c' : Channel} (h : KeyOk s c) (hh : c'.hold = c.hold.dropLast)
    (ha : c'.active = c.hold.getLast? ∨ c'.active = none) : KeyOk s c' := by
  refine ⟨hh ▸ h.sorted.sublist (List.dropLast_sublist _), fun top ht r hr => ?_, fun a k => h.inTable a ?_⟩
  · rcases ha with ha | ha
    · rw [ha] at ht
      exact pairwise_dropLast h.sorted ht r (hh ▸ hr)
    · simp [ha] at ht
  · refine List.mem_append.mpr (.inr ?_)
    rcases List.mem_append.mp k with k | k
    · rcases ha with ha | ha
      · rw [ha, Option.mem_toList] at k
        exact List.mem_of_getLast? k
      · simp [ha] at k
    · exact List.mem_of_mem_dropLast (hh ▸ k)

/-- No record held beneath an active alert refers to it. -/
theorem KeyOk.not_held {s : State} {c : Channel} (h : KeyOk s c) (hn : (s.alerts.map (·.alertId)).Nodup) {x : AlertRef}
    (hx : c.active = some (.alert x)) : ∀ r ∈ c.hold, r.refersTo x.alertId = false := by
  intro r hr
  cases r with
  | brk b => rfl
  | alert a =>
    by_contra hk
    have hid : a.alertId = x.alertId := by simpa [Record.refersTo] using hk
    obtain ⟨p, hp, h1, h2, _⟩ := h.inTable x (by simp [records, hx])
    obtain ⟨q, hq, k1, k2, _⟩ := h.inTable a (by simp [records, hr])
    obtain rfl : p = q := List.inj_on_of_nodup_map hn hp hq (h1.trans (hid.symm.trans k1.symm))
    have hgt := h.top _ hx _ hr
    rw [State.keyGreater_iff] at hgt
    simp only [Record.level, State.recordAge, hid] at hgt
    omega

theorem refers_eq (c : Channel) (id : Ident) : c.refers id = (c.active.any (Record.refersTo id) || c.hold.any (Record.refersTo id)) := by
  unfold Channel.refers records
  rw [List.any_append]
  cases c.active <;> simp

/-- What a channel that gives an alert up keeps: its order, and every other reference. -/
structure GivesUp (s : State) (x : Ident) (c c' : Channel) : Prop where
  keys   : KeyOk s c'
  gone   : c'.refers x = false
  others : ∀ id, id ≠ x → c'.refers id = c.refers id

theorem State.giveUp_givesUp {s : State} {i : Slot} (hl : ChannelLaw (s.chan i)) (hn : (s.alerts.map (·.alertId)).Nodup)
    (hk : KeyOk s (s.chan i)) (x : Ident) : GivesUp s x (s.chan i) ((s.giveUp x i).chan i) := by
  unfold State.giveUp
  split
  next h =>
    obtain ⟨a, ha, rfl⟩ := active_of_refersTo h
    obtain ⟨hh, hact⟩ := State.releaseChannel_records hl ha
    have hnot := hk.not_held hn ha
    have hrefers (id : Ident) : ((s.releaseChannel i).chan i).refers id = (s.chan i).hold.any (Record.refersTo id) := by
      rw [refers_eq, hh]
      rcases hact with e | ⟨e, hlast⟩ <;> rw [e]
      · cases hg : (s.chan i).hold.getLast? with
        | none => simp [List.getLast?_eq_none_iff.mp hg]
        | some r =>
          conv_rhs => rw [← List.dropLast_append_getLast? r hg]
          simp [Bool.or_comm]
      · cases hg : (s.chan i).hold.getLast? with
        | none => simp [List.getLast?_eq_none_iff.mp hg]
        | some r =>
          conv_rhs => rw [← List.dropLast_append_getLast? r hg]
          cases r with
          | alert y => exact absurd hg (hlast y)
          | brk b => simp [Record.refersTo]
    refine ⟨hk.pop hh (hact.imp id And.left), ?_, fun id hid => ?_⟩
    · rw [hrefers, List.any_eq_false]
      exact fun r hr => by simp [hnot r hr]
    · rw [hrefers, refers_eq, ha]
      simp [Record.refersTo, hid.symm]
  next h =>
    rw [State.modChan_chan_same]
    have hhold : ((s.chan i).dropHeldAlert x).hold = (s.chan i).hold.filter fun r => !r.refersTo x := rfl
    have hactive : ((s.chan i).dropHeldAlert x).active = (s.chan i).active := rfl
    refine ⟨⟨hhold ▸ hk.sorted.sublist List.filter_sublist, fun top ht r hr => hk.top top ht r (List.mem_of_mem_filter (hhold ▸ hr)),
      fun a ha => hk.inTable a ?_⟩, ?_, fun id hid => ?_⟩
    · rcases List.mem_append.mp ha with ha | ha
      · exact List.mem_append.mpr (.inl ha)
      · exact List.mem_append.mpr (.inr (List.mem_of_mem_filter ha))
    · rw [refers_eq, hactive, hhold, List.any_filter]
      simp [h]
    · rw [refers_eq, refers_eq, hactive, hhold, List.any_filter]
      congr 1
      refine List.any_congr rfl fun r => ?_
      cases r with
      | brk b => rfl
      | alert a =>
        by_cases hx : a.alertId = x
        · simp [Record.refersTo, hx, hid.symm]
        · simp [Record.refersTo, hx]

/-! ## Every channel of the set gives it up (R106) -/

theorem channelLaw_changes {ring : AlertRing} {c c' : Channel} (e : Changes ring c c') (h : ChannelLaw c) : ChannelLaw c' :=
  (channelLaw_keptByEdits ring).changes e h

/-- The channels of a set have given an alert up: the table stands, every channel keeps its law and its order, and those of the set that
are done refer to it no more. -/
structure GivenUp (s : State) (x : Ident) (done : Slot → Prop) (u : State) : Prop where
  alerts : u.alerts = s.alerts
  law    : ChannelsLaw u
  keys   : ∀ j, KeyOk s (u.chan j)
  others : ∀ j id, id ≠ x → (u.chan j).refers id = (s.chan j).refers id
  less   : ∀ j, (u.chan j).refers x = true → (s.chan j).refers x = true
  gone   : ∀ j, done j → (u.chan j).refers x = false

theorem GivenUp.step {s u : State} {x : Ident} {done : Slot → Prop} (hn : (s.alerts.map (·.alertId)).Nodup) (h : GivenUp s x done u)
    (i : Slot) : GivenUp s x (fun j => done j ∨ j = i) (u.giveUp x i) := by
  have hskel : skeleton u.alerts = skeleton s.alerts := by rw [h.alerts]
  have hown := State.giveUp_givesUp (h.law i) (h.alerts ▸ hn) ((h.keys i).of_skeleton hskel) x
  have hne {j : Slot} (hj : j ≠ i) := (u.giveUp_edits_ne x hj).keepsRefs s (h.law j)
  refine ⟨(u.giveUp_alerts x i).trans h.alerts, fun j => channelLaw_changes ((u.giveUp_changed x i).chan j) (h.law j), fun j => ?_,
    fun j id hid => ?_, fun j hj => ?_, fun j hj => ?_⟩
  · by_cases e : j = i
    · subst e
      exact hown.keys.of_skeleton hskel.symm
    · exact (hne e).keys (h.keys j)
  · by_cases e : j = i
    · subst e
      exact (hown.others id hid).trans (h.others j id hid)
    · exact ((hne e).refers id).trans (h.others j id hid)
  · by_cases e : j = i
    · subst e
      simp [hown.gone] at hj
    · exact h.less j ((hne e).refers x ▸ hj)
  · by_cases e : j = i
    · subst e
      exact hown.gone
    · exact ((hne e).refers x).trans (h.gone j (hj.resolve_right e))

theorem GivenUp.foldl {s u : State} {x : Ident} {done : Slot → Prop} (hn : (s.alerts.map (·.alertId)).Nodup) (h : GivenUp s x done u)
    (slots : List Slot) : GivenUp s x (fun j => done j ∨ j ∈ slots) (slots.foldl (fun s i => s.giveUp x i) u) := by
  induction slots generalizing u done with
  | nil => exact ⟨h.alerts, h.law, h.keys, h.others, h.less, fun j hj => h.gone j (hj.resolve_right (by simp))⟩
  | cons i slots ih =>
    obtain ⟨h1, h2, h3, h4, h5, h6⟩ := ih (h.step hn i)
    refine ⟨h1, h2, h3, h4, h5, fun j hj => h6 j ?_⟩
    rcases hj with hj | hj
    · exact .inl (.inl hj)
    · rcases List.mem_cons.mp hj with rfl | hj
      · exact .inl (.inr rfl)
      · exact .inr hj

/-! ## The record leaves the table (R106) -/

theorem findIdx_filter_lt {l : List AlertRecord} {p : AlertRecord → Bool} {a b : Ident} (ha : ∀ r ∈ l, r.alertId = a → p r = true)
    (hb : ∀ r ∈ l, r.alertId = b → p r = true) :
    ((l.filter p).findIdx (·.alertId == a) < (l.filter p).findIdx (·.alertId == b) ↔
      l.findIdx (·.alertId == a) < l.findIdx (·.alertId == b)) := by
  induction l with
  | nil => simp
  | cons r l ih =>
    have ih := ih (fun r hr => ha r (by simp [hr])) fun r hr => hb r (by simp [hr])
    by_cases hp : p r = true
    · rw [List.filter_cons_of_pos hp]
      simp only [List.findIdx_cons]
      cases r.alertId == a <;> cases r.alertId == b <;> simp only [cond_true, cond_false] <;> omega
    · have h1 : (r.alertId == a) = false := by simpa using fun k => hp (ha r (by simp) k)
      have h2 : (r.alertId == b) = false := by simpa using fun k => hp (hb r (by simp) k)
      rw [List.filter_cons_of_neg hp]
      simp only [List.findIdx_cons, h1, h2, cond_false]
      omega

/-- The order of the references to other alerts stands when a record leaves the table. -/
theorem State.keyGreater_dropAlert {s u : State} {x : Ident} (h : u.alerts = s.alerts.filter fun r => r.alertId != x) {a b : Record}
    (ha : a.refersTo x = false) (hb : b.refersTo x = false) (hra : ∀ y, a = .alert y → 1 ≤ y.level) (hrb : ∀ y, b = .alert y → 1 ≤ y.level)
    (k : s.keyGreater a b = true) : u.keyGreater a b = true := by
  rw [State.keyGreater_iff] at k ⊢
  refine k.imp_right fun ⟨hlevel, hage⟩ => ⟨hlevel, ?_⟩
  match a, b with
  | .brk _, .brk _ => simp [State.recordAge] at hage
  | .brk _, .alert y =>
    have := hrb y rfl
    simp only [Record.level] at hlevel
    omega
  | .alert y, .brk _ =>
    have := hra y rfl
    simp only [Record.level] at hlevel
    omega
  | .alert y, .alert z =>
    have hy : y.alertId ≠ x := by simpa [Record.refersTo] using ha
    have hz : z.alertId ≠ x := by simpa [Record.refersTo] using hb
    simp only [State.recordAge, State.ageOf] at hage ⊢
    rw [h]
    exact (findIdx_filter_lt (fun r _ hr => by simpa [hr] using hy) fun r _ hr => by simpa [hr] using hz).mpr hage

theorem refersTo_of_refers {c : Channel} {x : Ident} (h : c.refers x = false) : ∀ r ∈ records c, r.refersTo x = false := by
  simpa [Channel.refers] using h

/-- A channel that does not refer to the alert keeps its order when the record leaves the table. -/
theorem KeyOk.dropAlert {s u : State} {x : Ident} {c : Channel} (hl : ChannelLaw c) (h : KeyOk s c) (hx : c.refers x = false)
    (hu : u.alerts = s.alerts.filter fun r => r.alertId != x) : KeyOk u c := by
  have hnot := refersTo_of_refers hx
  have hheld {r : Record} (hr : r ∈ c.hold) : r ∈ records c := List.mem_append.mpr (.inr hr)
  have hrank {r : Record} (hr : r ∈ records c) (y : AlertRef) (k : r = .alert y) : 1 ≤ y.level := by
    obtain ⟨_, _, _, h4, _⟩ := hl
    exact (h4 y (k ▸ hr)).1
  refine ⟨?_, fun top ht r hr => ?_, fun a ha => ?_⟩
  · refine List.Pairwise.imp_of_mem (fun ha hb k => ?_) h.sorted
    exact State.keyGreater_dropAlert hu (hnot _ (hheld hb)) (hnot _ (hheld ha)) (hrank (hheld hb)) (hrank (hheld ha)) k
  · have htop : top ∈ records c := List.mem_append.mpr (.inl (Option.mem_toList.mpr ht))
    exact State.keyGreater_dropAlert hu (hnot _ htop) (hnot _ (hheld hr)) (hrank htop) (hrank (hheld hr)) (h.top top ht r hr)
  · obtain ⟨r, hr, h1, h2⟩ := h.inTable a ha
    refine ⟨r, ?_, h1, h2⟩
    rw [hu, List.mem_filter]
    have : a.alertId ≠ x := by simpa [Record.refersTo] using hnot _ ha
    exact ⟨hr, by simpa [h1] using this⟩

/-- The table, the channel records, the keys and the channel sets keep their laws. -/
structure AlertLaws (s : State) : Prop where
  table : TableLaw s.alerts
  chans : ChannelsLaw s
  keys  : ∀ i, KeyOk s (s.chan i)
  sets  : ∀ r ∈ s.alerts, ∀ i, inMask r.channelSet i = (s.chan i).refers r.alertId

theorem AlertLaws.of_laws {s : State} (h1 : AlertTableLaw s) (h2 : ChannelsLaw s) (h3 : KeyLaw s) (h4 : ChannelSetLaw s) : AlertLaws s :=
  ⟨(alertTableLaw_iff s).mp h1, h2, (keyLaw_iff s).mp h3, h4⟩

/-- Every record and every channel as they were: the laws stand. -/
theorem AlertLaws.of_same {s u : State} (h : AlertLaws s) (ha : u.alerts = s.alerts)
    (hc : ∀ i, ChannelLaw (u.chan i) ∧ KeepsRefs s (s.chan i) (u.chan i)) : AlertLaws u := by
  refine ⟨ha ▸ h.table, fun i => (hc i).1, fun i => ((hc i).2.keys (h.keys i)).of_skeleton (by rw [ha]), fun r hr i => ?_⟩
  rw [(hc i).2.refers]
  exact h.sets r (ha ▸ hr) i

theorem State.endAlert_laws {s : State} {r : AlertRecord} (h : AlertLaws s) (hr : r ∈ s.alerts) (reason : AlertReason) :
    AlertLaws (s.endAlert r reason) := by
  have hstart : GivenUp s r.alertId (fun _ => False) s :=
    ⟨rfl, h.chans, h.keys, fun _ _ _ => rfl, fun _ k => k, fun _ k => k.elim⟩
  have hg := hstart.foldl h.table.nodup (Config.slots.filter fun i => inMask r.channelSet i)
  have hchan (j : Slot) : (s.endAlert r reason).chan j =
      ((Config.slots.filter fun i => inMask r.channelSet i).foldl (fun s i => s.giveUp r.alertId i) s).chan j := State.offer_chan ..
  have halerts := s.endAlert_alerts r reason
  generalize (Config.slots.filter fun i => inMask r.channelSet i).foldl (fun s i => s.giveUp r.alertId i) s = u at hg hchan
  have hgone (j : Slot) : (u.chan j).refers r.alertId = false := by
    by_cases hm : inMask r.channelSet j = true
    · exact hg.gone j (.inr (List.mem_filter.mpr ⟨mem_slots j, hm⟩))
    · by_contra k
      exact hm ((h.sets r hr j).trans (hg.less j (by simpa using k)))
  refine ⟨halerts ▸ h.table.filter _, fun i => hchan i ▸ hg.law i, fun i => ?_, fun x hx i => ?_⟩
  · rw [hchan]
    exact (hg.keys i).dropAlert (hg.law i) (hgone i) halerts
  · rw [halerts, List.mem_filter] at hx
    rw [hchan, hg.others i x.alertId (by simpa using hx.2)]
    exact h.sets x hx.1 i

end Sys2Proof.Machine
end

section
/-!
An OVERRIDE alert that is offered to the channels of a window keeps the order of the hold stacks and the channel sets (R37, R38, R98,
R100, R105).
-/
namespace Sys2Proof.Machine

open Sys2Proof.Safety

/-! ## Placing a record (R37, R38) -/

theorem State.insertRecord_sorted {s : State} {r : Record} {l : List Record}
    (h : l.Pairwise fun lower upper => s.keyGreater upper lower = true)
    (hr : ∀ y ∈ l, s.keyGreater r y = false → s.keyGreater y r = true) :
    (s.insertRecord r l).Pairwise fun lower upper => s.keyGreater upper lower = true := by
  induction l with
  | nil => exact List.pairwise_singleton ..
  | cons y rest ih =>
    obtain ⟨hy, hrest⟩ := List.pairwise_cons.mp h
    unfold State.insertRecord
    split
    next hk =>
      refine List.pairwise_cons.mpr ⟨fun z hz => ?_, ih hrest fun z hz => hr z (by simp [hz])⟩
      rcases State.mem_insertRecord.mp hz with rfl | hz
      · exact hk
      · exact hy z hz
    next hk =>
      have hyr := hr y (by simp) (by simpa using hk)
      refine List.pairwise_cons.mpr ⟨fun z hz => ?_, h⟩
      rcases List.mem_cons.mp hz with rfl | hz
      · exact hyr
      · exact State.keyGreater_trans (hy z hz) hyr

theorem State.insertRecord_any (s : State) (r : Record) (l : List Record) (p : Record → Bool) :
    (s.insertRecord r l).any p = (p r || l.any p) := by
  rw [Bool.eq_iff_iff]
  simp only [List.any_eq_true, Bool.or_eq_true, State.mem_insertRecord]
  constructor
  · rintro ⟨x, rfl | hx, hp⟩
    · exact .inl hp
    · exact .inr ⟨x, hx, hp⟩
  · rintro (hp | ⟨x, hx, hp⟩)
    · exact ⟨r, .inl rfl, hp⟩
    · exact ⟨x, .inr hx, hp⟩

/-- What placing a reference does to its channel, outside NETWORK, and to the table: it is inserted, in a stack with room or in place of
the bottom record, which is shed; or nothing changes (R37, R38). -/
theorem State.place_alert_cases {s : State} {i : Slot} (hs : (s.chan i).state ≠ .network) (a : AlertRef) :
    ((s.place i (.alert a)).1 = true ∧ ∃ (dropped : Option Record) (kept : List Record), (s.chan i).hold = dropped.toList ++ kept ∧
      (∀ d ∈ dropped, s.keyGreater (.alert a) d = true) ∧
      (s.place i (.alert a)).2.chan i = { s.chan i with hold := s.insertRecord (.alert a) kept } ∧
      (s.place i (.alert a)).2.alerts = shedTable i dropped s.alerts) ∨
    ((s.place i (.alert a)).1 = false ∧ (s.place i (.alert a)).2 = s ∧
      ∃ bottom ∈ (s.chan i).hold, s.keyGreater (.alert a) bottom = false) := by
  unfold State.place
  split
  next hlen => exact .inl ⟨rfl, none, (s.chan i).hold, rfl, by simp, State.modChan_chan_same .., rfl⟩
  next hlen =>
    split
    next bottom rest hh =>
      split
      next hk =>
        have hset : (s.setHold i (s.insertRecord (.alert a) rest)).chan i =
            { s.chan i with hold := s.insertRecord (.alert a) rest } := State.modChan_chan_same ..
        refine .inl ⟨rfl, some bottom, rest, hh, by simpa using hk, ?_, State.shed_alerts ..⟩
        exact (State.shed_chan_of_ne (by rw [hset]; exact hs) bottom).trans hset
      next hk => exact .inr ⟨rfl, rfl, bottom, by simp [hh], by simpa using hk⟩
    next hh => exact absurd (hh ▸ hlen) (by simp [holdLimit])

/-! ## References of one channel differ -/

theorem State.keyGreater_ne {s : State} (hn : (s.alerts.map (·.alertId)).Nodup) {a b : AlertRef}
    (ha : ∃ r ∈ s.alerts, r.alertId = a.alertId ∧ r.level = a.level ∧ r.mode = .override)
    (hb : ∃ r ∈ s.alerts, r.alertId = b.alertId ∧ r.level = b.level ∧ r.mode = .override)
    (h : s.keyGreater (.alert a) (.alert b) = true) : a.alertId ≠ b.alertId := by
  intro hid
  obtain ⟨p, hp, h1, h2, _⟩ := ha
  obtain ⟨q, hq, k1, k2, _⟩ := hb
  obtain rfl : p = q := List.inj_on_of_nodup_map hn hp hq (h1.trans (hid.trans k1.symm))
  rw [State.keyGreater_iff] at h
  simp only [Record.level, State.recordAge, hid] at h
  omega

/-- The bottom record of a stack refers to an alert that the rest of the stack does not refer to. -/
theorem KeyOk.dropped_apart {s : State} {c : Channel} (h : KeyOk s c) (hn : (s.alerts.map (·.alertId)).Nodup) {dropped : Option Record}
    {kept : List Record} (hh : c.hold = dropped.toList ++ kept) {id : Ident} (hd : dropped.any (Record.refersTo id) = true) :
    kept.any (Record.refersTo id) = false := by
  obtain ⟨d, hd, hid⟩ := Option.any_eq_true _ _ |>.mp hd
  obtain rfl := hd
  rw [List.any_eq_false]
  intro r hr k
  have hsorted := h.sorted
  rw [hh, Option.toList_some, List.singleton_append, List.pairwise_cons] at hsorted
  have hgt := hsorted.1 r hr
  match d, r with
  | .brk _, _ => simp [Record.refersTo] at hid
  | .alert _, .brk _ => simp [Record.refersTo] at k
  | .alert x, .alert y =>
    have hx := h.inTable x (by simp [records, hh])
    have hy := h.inTable y (by simp [records, hh, hr])
    have hx' : x.alertId = id := by simpa [Record.refersTo] using hid
    have hy' : y.alertId = id := by simpa [Record.refersTo] using k
    exact State.keyGreater_ne hn hy hx hgt (hy'.trans hx'.symm)

/-! ## A channel that takes an alert -/

/-- A channel takes a new reference to the alert x, active or held, and may shed a record: its keys stay in order, and its references are
those it had but for the shed one, and the new one. -/
structure TakesUp (s : State) (x : Ident) (dropped : Option Record) (c c' : Channel) : Prop where
  keys   : KeyOk s c'
  refers : ∀ id, c'.refers id = (c.refers id && !dropped.any (Record.refersTo id) || id == x)

/-- What a pre-emption leaves beneath the alert (R100). -/
structure SetAside (s : State) (dropped : Option Record) (c : Channel) (hold : List Record) : Prop where
  sorted  : hold.Pairwise fun lower upper => s.keyGreater upper lower = true
  below   : ∀ r ∈ hold, (∃ b, r = .brk b) ∨ (∃ top ∈ c.active, s.keyGreater top r = true ∨
    ∃ y : AlertRef, top = .alert y ∧ r = .alert { y with offset := none })
  inTable : ∀ y, .alert y ∈ hold → ∃ r ∈ s.alerts, r.alertId = y.alertId ∧ r.level = y.level ∧ r.mode = .override
  refers  : ∀ id, hold.any (Record.refersTo id) = (c.refers id && !dropped.any (Record.refersTo id))

theorem SetAside.of_nil {s : State} {c : Channel} (ha : ∀ a, c.active ≠ some (.alert a)) (hh : c.hold = []) :
    SetAside s none c [] :=
  ⟨List.Pairwise.nil, by simp, by simp, fun id => by rw [Channel.refers_of_none ha hh]; rfl⟩

/-- An alert on air or awaited goes beneath (R100). -/
theorem SetAside.of_alert {s : State} {c : Channel} (h : KeyOk s c) (hn : (s.alerts.map (·.alertId)).Nodup) {x : AlertRef}
    (hx : c.active = some (.alert x)) {dropped : Option Record} {kept : List Record} (hh : c.hold = dropped.toList ++ kept) :
    SetAside s dropped c (s.insertRecord (.alert { x with offset := none }) kept) := by
  have htop (r : Record) (hr : r ∈ c.hold) : s.keyGreater (.alert x) r = true := h.top _ hx r hr
  have hkept {r : Record} (hr : r ∈ kept) : r ∈ c.hold := by simp [hh, hr]
  refine ⟨State.insertRecord_sorted (h.sorted.sublist (by rw [hh]; exact List.sublist_append_right ..)) fun y hy k => ?_, fun r hr => ?_,
    fun y hy => ?_, fun id => ?_⟩
  · rw [State.keyGreater_offset_left, htop y (hkept hy)] at k
    simp at k
  · rcases State.mem_insertRecord.mp hr with rfl | hr
    · exact .inr ⟨_, hx, .inr ⟨x, rfl, rfl⟩⟩
    · exact .inr ⟨_, hx, .inl (htop r (hkept hr))⟩
  · rcases State.mem_insertRecord.mp hy with e | hy
    · obtain rfl := Record.alert.inj e
      exact h.inTable x (by simp [records, hx])
    · exact h.inTable y (by simp [records, hkept hy])
  · have hapart := h.dropped_apart hn hh (id := id)
    have hnot := h.not_held hn hx
    rw [State.insertRecord_any, refers_eq, hx, hh, List.any_append]
    cases hd : dropped.any (Record.refersTo id) with
    | false =>
      have : dropped.toList.any (Record.refersTo id) = false := by
        cases dropped with
        | none => rfl
        | some d => simpa using hd
      simp [this, Record.refersTo]
    | true =>
      have hxid : (x.alertId == id) = false := by
        obtain ⟨d, hd, hid⟩ := Option.any_eq_true _ _ |>.mp hd
        by_contra k
        have k : x.alertId = id := by simpa using k
        have := hnot d (by simp [hh, show dropped = some d from hd])
        rw [k, hid] at this
        simp at this
      simp [hapart hd, Record.refersTo, hxid]

/-- What a pre-emption sets aside of a lawful channel, and what it sheds (R38, R100). -/
theorem State.setAside_spec {s : State} {i : Slot} (hl : ChannelLaw (s.chan i)) (hn : (s.alerts.map (·.alertId)).Nodup)
    (hk : KeyOk s (s.chan i)) : ∃ dropped, (s.setAside i).alerts = shedTable i dropped s.alerts ∧
      SetAside s dropped (s.chan i) ((s.setAside i).chan i).hold := by
  rcases (s.chan i).state.cases with (hs | hs) | hs | hs | hs
  · obtain ⟨ha, hh, _⟩ := (channelLaw_idle (.inl hs)).mp hl
    have e : s.setAside i = s := by simp [State.setAside, hs]
    rw [e, hh]
    exact ⟨none, rfl, .of_nil (by simp [ha]) hh⟩
  · obtain ⟨ha, hh, _⟩ := (channelLaw_idle (.inr hs)).mp hl
    cases he : (s.chan i).cutWaitEntry with
    | none =>
      have e : s.setAside i = s := by simp [State.setAside, hs, he]
      rw [e, hh]
      exact ⟨none, rfl, .of_nil (by simp [ha]) hh⟩
    | some x =>
      rw [State.setAside_cutWait hs he]
      have hrec : records ((s.missEntry i .preempted x).chan i) = records (s.chan i) := by
        unfold State.missEntry
        rw [State.modChan_chan_same]
        exact s.leaveEntry_records i i x _ _
      have hhold : ((s.missEntry i .preempted x).chan i).hold = [] := by
        simp only [records, ha, hh, Option.toList_none, List.nil_append, List.append_eq_nil_iff] at hrec
        exact hrec.2
      rw [hhold]
      exact ⟨none, (s.missEntry_edited i (cutWaitEntry_spec he).1 _).alerts, .of_nil (by simp [ha]) hh⟩
  · obtain ⟨⟨b, hb⟩, hh, _⟩ := (channelLaw_onBreak hs).mp hl
    have hu : ((s.modChan i fun c => { c with active := none }).chan i).hold = [] := by rw [State.modChan_chan_same]; exact hh
    rw [State.setAside_onAir hs hb, State.holdBreak_chan, State.holdBreak_alerts, place_brk_of_nil hu, State.setHold,
      State.modChan_chan_same]
    refine ⟨none, rfl, List.pairwise_singleton .., by simp, by simp, fun id => ?_⟩
    rw [Channel.refers_of_none (by simp [hb]) hh]
    rfl
  · obtain ⟨ha, hh, _⟩ := (channelLaw_returnWait hs).mp hl
    have hno : ∀ a, (s.chan i).active ≠ some (.alert a) := by rcases ha with ha | ⟨b, ha⟩ <;> simp [ha]
    cases hb : (s.chan i).activeBreak with
    | none =>
      have e : s.setAside i = s := by simp [State.setAside, hs, hb]
      rw [e, hh]
      exact ⟨none, rfl, .of_nil hno hh⟩
    | some b =>
      rw [State.setAside_returnWait hs (activeBreak_eq_some.mp hb), State.preemptReturnWait_chan hs]
      exact ⟨none, s.preemptReturnWait_alerts i b, hh ▸ .of_nil hno hh⟩
  · obtain ⟨⟨x, hx, _⟩, _⟩ := (channelLaw_alerted hs).mp hl
    rw [State.setAside_alerted hs hx, State.setAlertAside]
    have hu : (s.modChan i fun c => { c with active := none, reader := none }).chan i =
        { s.chan i with active := none, reader := none } := State.modChan_chan_same ..
    have hua : (s.modChan i fun c => { c with active := none, reader := none }).alerts = s.alerts := rfl
    have hgt := State.keyGreater_congr (s := s) (u := s.modChan i fun c => { c with active := none, reader := none }) rfl
    generalize (s.modChan i fun c => { c with active := none, reader := none }) = u at hu hua hgt
    have hne : (u.chan i).state ≠ .network := by
      rw [hu]
      rcases hs with hs | hs <;> simp [hs]
    have hins (l : List Record) : u.insertRecord (.alert { x with offset := none }) l =
        s.insertRecord (.alert { x with offset := none }) l := by
      induction l with
      | nil => rfl
      | cons y l ih => simp only [State.insertRecord, hgt, ih]
    rcases State.place_alert_cases hne { x with offset := none } with ⟨_, dropped, kept, hh, _, hc, ha⟩ | ⟨_, _, bottom, hm, hk'⟩
    · rw [hu] at hh
      rw [hc, hins, ha, hua]
      exact ⟨dropped, rfl, .of_alert hk hn hx hh⟩
    · rw [hu] at hm
      rw [hgt, State.keyGreater_offset_left, hk.top _ hx bottom hm] at hk'
      simp at hk'

/-- A channel that an alert pre-empts takes it up (R100, R101). -/
theorem SetAside.takesUp {s : State} {dropped : Option Record} {c c' : Channel} {hold : List Record} (h : SetAside s dropped c hold)
    {a : AlertRef} (hr : 1 ≤ a.level) (hout : ∀ top ∈ c.active, s.keyGreater (.alert a) top = true)
    (hin : ∃ r ∈ s.alerts, r.alertId = a.alertId ∧ r.level = a.level ∧ r.mode = .override)
    (ha : c'.active = some (.alert { a with offset := none })) (hh : c'.hold = hold) : TakesUp s a.alertId dropped c c' := by
  refine ⟨⟨hh ▸ h.sorted, fun top ht r hm => ?_, fun y hy => ?_⟩, fun id => ?_⟩
  · obtain rfl : Record.alert { a with offset := none } = top := by simpa [ha] using ht
    rw [State.keyGreater_offset_left]
    rcases h.below r (hh ▸ hm) with ⟨b, rfl⟩ | ⟨top, ht, hk | ⟨y, rfl, rfl⟩⟩
    · exact s.keyGreater_alert_brk hr b
    · exact State.keyGreater_trans (hout top ht) hk
    · exact (hout (.alert y) ht :)
  · simp only [records, ha, hh, Option.toList_some, List.singleton_append, List.mem_cons, Record.alert.injEq] at hy
    rcases hy with rfl | hy
    · exact hin
    · exact h.inTable y hy
  · rw [refers_eq, ha, hh, h.refers, Bool.or_comm]
    congr 1
    simp [Record.refersTo, Bool.beq_comm]

/-- A channel under an alert of greater key holds the new one beneath (R98). -/
theorem KeyOk.takesUp {s : State} {c c' : Channel} (h : KeyOk s c) (hn : (s.alerts.map (·.alertId)).Nodup) {a x : AlertRef}
    (hr : 1 ≤ a.level) (hnew : c.refers a.alertId = false) (hx : c.active = some (.alert x))
    (hout : s.keyGreater (.alert a) (.alert x) = false)
    (hin : ∃ r ∈ s.alerts, r.alertId = a.alertId ∧ r.level = a.level ∧ r.mode = .override) {dropped : Option Record} {kept : List Record}
    (hh : c.hold = dropped.toList ++ kept) (hd : ∀ d ∈ dropped, s.keyGreater (.alert a) d = true) (ha : c'.active = c.active)
    (hhold : c'.hold = s.insertRecord (.alert a) kept) : TakesUp s a.alertId dropped c c' := by
  have hkept {r : Record} (hr : r ∈ kept) : r ∈ c.hold := by simp [hh, hr]
  have hapart (y : AlertRef) (hy : .alert y ∈ records c) : a.alertId ≠ y.alertId := fun k => by
    have := refersTo_of_refers hnew _ hy
    simp [Record.refersTo, k] at this
  have hina : ∃ r ∈ s.alerts, r.alertId = a.alertId := by
    obtain ⟨r, hr, h1, _⟩ := hin
    exact ⟨r, hr, h1⟩
  have hxa : s.keyGreater (.alert x) (.alert a) = true :=
    State.keyGreater_total hina (hapart x (by simp [records, hx])) hout
  refine ⟨⟨?_, fun top ht r hm => ?_, fun y hy => ?_⟩, fun id => ?_⟩
  · rw [hhold]
    refine State.insertRecord_sorted (h.sorted.sublist (by rw [hh]; exact List.sublist_append_right ..)) fun y hy k => ?_
    cases y with
    | brk b => rw [s.keyGreater_alert_brk hr b] at k; simp at k
    | alert y => exact State.keyGreater_total hina (hapart y (by simp [records, hkept hy])) k
  · rw [ha, hx] at ht
    obtain rfl : Record.alert x = top := by simpa using ht
    rcases State.mem_insertRecord.mp (hhold ▸ hm) with rfl | hm
    · exact hxa
    · exact h.top _ hx r (hkept hm)
  · rcases List.mem_append.mp hy with hy | hy
    · exact h.inTable y (List.mem_append.mpr (.inl (ha ▸ hy)))
    · rcases State.mem_insertRecord.mp (hhold ▸ hy) with e | hy
      · obtain rfl := Record.alert.inj e
        exact hin
      · exact h.inTable y (by simp [records, hkept hy])
  · have hdrop := h.dropped_apart hn hh (id := id)
    have hnot := h.not_held hn hx
    rw [refers_eq, refers_eq, ha, hx, hhold, State.insertRecord_any, hh, List.any_append]
    cases hd : dropped.any (Record.refersTo id) with
    | false =>
      have : dropped.toList.any (Record.refersTo id) = false := by
        cases dropped with
        | none => rfl
        | some d => simpa using hd
      simp only [Option.any_some, this, Bool.false_or, Bool.not_false, Bool.and_true, Record.refersTo, Bool.beq_comm (a := a.alertId)]
      cases x.alertId == id <;> cases id == a.alertId <;> simp
    | true =>
      have hxid : (x.alertId == id) = false := by
        obtain ⟨d, hd, hid⟩ := Option.any_eq_true _ _ |>.mp hd
        by_contra k
        have k : x.alertId = id := by simpa using k
        have := hnot d (by simp [hh, show dropped = some d from hd])
        rw [k, hid] at this
        simp at this
      simp [hdrop hd, Record.refersTo, hxid, Bool.beq_comm (a := a.alertId)]

end Sys2Proof.Machine
end

section
/-!
Every operation keeps the key law and the channel set law, where the table and the channels keep theirs (sections 3.3, 6.8).
-/
namespace Sys2Proof.Machine

open Sys2Proof.Safety

/-! ## One channel takes an alert -/

/-- The sets of a table after channel i has shed a record. -/
theorem inMask_shedTable {i : Slot} {o : Option Record} {l : List AlertRecord} {r : AlertRecord} (hr : r ∈ shedTable i o l) :
    ∃ x ∈ l, x.alertId = r.alertId ∧
      ∀ j, inMask r.channelSet j = (inMask x.channelSet j && !(decide (j = i) && o.any (Record.refersTo r.alertId))) := by
  match o with
  | none => exact ⟨r, hr, rfl, fun j => by simp⟩
  | some (.brk b) => exact ⟨r, hr, rfl, fun j => by simp [Record.refersTo]⟩
  | some (.alert a) =>
    obtain ⟨x, hx, ⟨k, rfl⟩ | ⟨k, rfl⟩⟩ := mem_changeRecord.mp hr
    · exact ⟨x, hx, rfl, fun j => by simp [inMask_leave, Record.refersTo, k]⟩
    · exact ⟨r, hx, rfl, fun j => by simp [Record.refersTo, Ne.symm k]⟩

/-- The sets of a table after channel i has joined the set of the alert x. -/
theorem inMask_joinTable {i : Slot} {x : Ident} {l : List AlertRecord} {r : AlertRecord}
    (hr : r ∈ changeRecord x (fun r => { r with channelSet := r.channelSet ||| slotMask i }) l) :
    ∃ y ∈ l, y.alertId = r.alertId ∧ ∀ j, inMask r.channelSet j = (inMask y.channelSet j || (decide (j = i) && r.alertId == x)) := by
  obtain ⟨y, hy, ⟨k, rfl⟩ | ⟨k, rfl⟩⟩ := mem_changeRecord.mp hr
  · exact ⟨y, hy, rfl, fun j => by simp [inMask_join, k]⟩
  · exact ⟨r, hy, rfl, fun j => by simp [k]⟩

/-- A channel takes up the alert x, and joins its set (R98, R105). -/
structure Joins (s : State) (x : Ident) (i : Slot) (u : State) : Prop where
  law    : ∀ j, ChannelLaw (u.chan j)
  others : ∀ j, j ≠ i → KeepsRefs s (s.chan j) (u.chan j)
  taken  : ∃ dropped, u.alerts = changeRecord x (fun r => { r with channelSet := r.channelSet ||| slotMask i })
    (shedTable i dropped s.alerts) ∧ TakesUp s x dropped (s.chan i) (u.chan i)

theorem Joins.skeleton {s u : State} {x : Ident} {i : Slot} (h : Joins s x i u) : skeleton u.alerts = skeleton s.alerts := by
  obtain ⟨dropped, ha, _⟩ := h.taken
  rw [ha]
  exact (changeRecord_skeleton (joinSet_keepsKey i) _ _).trans (shedTable_skeleton i dropped s.alerts)

theorem Joins.laws {s u : State} {x : Ident} {i : Slot} (h : Joins s x i u) (hs : AlertLaws s) (ho : Overriding x s.alerts) :
    AlertLaws u := by
  have hskel := h.skeleton
  obtain ⟨dropped, ha, ht⟩ := h.taken
  refine ⟨?_, h.law, fun j => ?_, fun r hr j => ?_⟩
  · rw [ha]
    exact (hs.table.shed i dropped).join i (ho.of_skeleton (shedTable_skeleton i dropped s.alerts))
  · by_cases e : j = i
    · subst e
      exact ht.keys.of_skeleton hskel
    · exact ((h.others j e).keys (hs.keys j)).of_skeleton hskel
  · obtain ⟨y, hy, hid, hjoin⟩ := inMask_joinTable (ha ▸ hr)
    obtain ⟨z, hz, hid', hshed⟩ := inMask_shedTable hy
    rw [hjoin, hshed, hs.sets z hz, hid', hid]
    by_cases e : j = i
    · subst e
      simp [ht.refers]
    · simp [e, (h.others j e).refers]

/-- An alert that is offered to a channel that does not know it is taken up, or changes nothing (R98). -/
theorem State.offerAlert_joins {s : State} {a : AlertRef} {i : Slot} (hs : AlertLaws s) (hr : 1 ≤ a.level ∧ a.level ≤ 7) (ho : a.offset = none)
    (hin : ∃ r ∈ s.alerts, r.alertId = a.alertId ∧ r.level = a.level ∧ r.mode = .override)
    (hnew : (s.chan i).refers a.alertId = false) : s.offerAlert a i = s ∨ Joins s a.alertId i (s.offerAlert a i) := by
  have hlaw (j : Slot) : ChannelLaw ((s.offerAlert a i).chan j) :=
    channelLaw_changes ((s.offerAlert_changed hr ho i).chan j) (hs.chans j)
  unfold State.offerAlert at hlaw ⊢
  split at hlaw
  next hrank =>
    rw [if_pos hrank]
    obtain ⟨dropped, ha, hset⟩ := State.setAside_spec (hs.chans i) hs.table.nodup (hs.keys i)
    have hchan : ((s.preempt i a).joinSet i a.alertId).chan i = _ := s.preempt_chan i a
    refine .inr ⟨hlaw, fun j hj => ?_, dropped, by rw [← ha]; rfl, ?_⟩
    · have e : ((s.preempt i a).joinSet i a.alertId).chan j = (s.setAside i).chan j :=
        State.modChan_chan_ne (s.setAside i) (fun c => c.enterAlertWait a (s.setAside i).ring.newReader (s.setAside i).timer) hj
      rw [e]
      exact (s.setAside_edits_ne i hj).keepsRefs s (hs.chans j)
    · refine hset.takesUp hr.1 (fun top ht => ?_) hin (by rw [hchan]; rfl) (by rw [hchan]; rfl)
      simpa [State.outranks, show (s.chan i).active = some top from ht] using hrank
  next hrank =>
    rw [if_neg hrank]
    obtain ⟨x, hx⟩ := active_of_not_outranks hr.1 (by simpa using hrank)
    have hout : s.keyGreater (.alert a) (.alert x) = false := by simpa [State.outranks, hx] using hrank
    have hne : (s.chan i).state ≠ .network := by rcases alerted_of_active (hs.chans i) hx with hst | hst <;> simp [hst]
    dsimp only at hlaw ⊢
    rcases State.place_alert_cases hne a with ⟨h1, dropped, kept, hh, hd, hc, ha⟩ | ⟨h1, h2, _⟩
    · rw [h1, if_pos rfl] at hlaw ⊢
      have hchan : ((s.place i (.alert a)).2.joinSet i a.alertId).chan i = _ := hc
      refine .inr ⟨hlaw, fun j hj => (s.place_edits_ne i (.alert a) hj).keepsRefs s (hs.chans j), dropped, by rw [← ha]; rfl, ?_⟩
      exact (hs.keys i).takesUp hs.table.nodup hr.1 hnew hx hout hin hh hd (by rw [hchan]) (by rw [hchan])
    · rw [h1, h2]
      exact .inl rfl

/-- An OVERRIDE alert that is offered to channels that do not know it (R98). -/
theorem State.offerAll_laws {s : State} {a : AlertRef} (hs : AlertLaws s) (hr : 1 ≤ a.level ∧ a.level ≤ 7) (ho : a.offset = none)
    (hin : ∃ r ∈ s.alerts, r.alertId = a.alertId ∧ r.level = a.level ∧ r.mode = .override) (hover : Overriding a.alertId s.alerts)
    {slots : List Slot} (hd : slots.Nodup) (hnew : ∀ j ∈ slots, (s.chan j).refers a.alertId = false) :
    AlertLaws (slots.foldl (fun s i => s.offerAlert a i) s) := by
  induction slots generalizing s with
  | nil => exact hs
  | cons i slots ih =>
    obtain ⟨hi, hd⟩ := List.nodup_cons.mp hd
    have hrest {j : Slot} (hj : j ∈ slots) : (s.chan j).refers a.alertId = false := hnew j (by simp [hj])
    rw [List.foldl_cons]
    rcases State.offerAlert_joins hs hr ho hin (hnew i (by simp)) with e | hj
    · rw [e]
      exact ih hs hin hover hd fun j hj => hrest hj
    · refine ih (hj.laws hs hover) ?_ (hover.of_skeleton hj.skeleton) hd fun j hm => ?_
      · rw [← mem_skeleton, hj.skeleton]
        exact mem_skeleton.mpr hin
      · rw [(hj.others j fun k => hi (k ▸ hm)).refers]
        exact hrest hm

/-! ## A new record -/

/-- An alert that the table does not hold is known to no channel. -/
theorem AlertLaws.unknown {s : State} (h : AlertLaws s) {id : Ident} (hid : ∀ r ∈ s.alerts, r.alertId ≠ id) (i : Slot) :
    (s.chan i).refers id = false := by
  rw [← Bool.not_eq_true, Channel.refers_iff]
  rintro ⟨a, ha, rfl⟩
  obtain ⟨r, hr, h1, _⟩ := (h.keys i).inTable a ha
  exact hid r hr h1

/-- The order of references to alerts of the table stands when a record is added to it (R93). -/
theorem State.ageOf_addAlert {s : State} {id : Ident} (h : ∃ r ∈ s.alerts, r.alertId = id) (r : AlertRecord) :
    (s.addAlert r).ageOf id = s.ageOf id := by
  obtain ⟨x, hx, hid⟩ := h
  have hlt : s.alerts.findIdx (fun r => r.alertId == id) < s.alerts.length :=
    List.findIdx_lt_length_of_exists ⟨x, hx, by simp [hid]⟩
  unfold State.ageOf State.addAlert
  rw [List.findIdx_append, if_pos hlt]

theorem State.keyGreater_addAlert {s : State} {c : Channel} (h : KeyOk s c) (r : AlertRecord) {a b : Record} (ha : a ∈ records c)
    (hb : b ∈ records c) : (s.addAlert r).keyGreater a b = s.keyGreater a b := by
  have hage {x : Record} (hx : x ∈ records c) : (s.addAlert r).recordAge x = s.recordAge x := by
    cases x with
    | brk b => rfl
    | alert y =>
      obtain ⟨z, hz, hid, _⟩ := h.inTable y hx
      exact State.ageOf_addAlert ⟨z, hz, hid⟩ r
  unfold State.keyGreater
  rw [hage ha, hage hb]

theorem KeyOk.addAlert {s : State} {c : Channel} (h : KeyOk s c) (r : AlertRecord) : KeyOk (s.addAlert r) c := by
  have hheld {x : Record} (hx : x ∈ c.hold) : x ∈ records c := List.mem_append.mpr (.inr hx)
  refine ⟨?_, fun top ht x hx => ?_, fun a ha => ?_⟩
  · refine h.sorted.imp_of_mem fun ha hb k => ?_
    rwa [State.keyGreater_addAlert h r (hheld hb) (hheld ha)]
  · rw [State.keyGreater_addAlert h r (List.mem_append.mpr (.inl (Option.mem_toList.mpr ht))) (hheld hx)]
    exact h.top top ht x hx
  · obtain ⟨x, hx, k⟩ := h.inTable a ha
    exact ⟨x, List.mem_append.mpr (.inl hx), k⟩

theorem State.addAlert_laws {s : State} (h : AlertLaws s) {r : AlertRecord} (hid : ∀ x ∈ s.alerts, x.alertId ≠ r.alertId)
    (hl : s.alerts.length < 8) (hr : 1 ≤ r.level ∧ r.level ≤ 7) (hset : r.channelSet = 0) : AlertLaws (s.addAlert r) := by
  refine ⟨h.table.add hl hid hr hset, h.chans, fun i => (h.keys i).addAlert r, fun x hx i => ?_⟩
  rcases List.mem_append.mp hx with hx | hx
  · exact h.sets x hx i
  · rw [List.mem_singleton.mp hx, hset]
    exact (show inMask 0 i = false by simp [inMask]).trans (h.unknown hid i).symm

/-! ## The operations -/

theorem AlertLaws.of_modAlert {s : State} (h : AlertLaws s) {f : AlertRecord → AlertRecord} (id : Ident) (hf : KeepsKey f)
    (hset : ∀ r, (f r).channelSet = r.channelSet) : AlertLaws (s.modAlert id f) := by
  have hskel : skeleton (s.modAlert id f).alerts = skeleton s.alerts := changeRecord_skeleton hf id s.alerts
  refine ⟨h.table.change hf id fun r hr _ hm => (hset r).trans (h.table.none r hr hm), h.chans, fun i => (h.keys i).of_skeleton hskel,
    fun r hr i => ?_⟩
  obtain ⟨x, hx, ⟨_, rfl⟩ | ⟨_, rfl⟩⟩ := mem_changeRecord.mp hr
  · rw [hset, (hf x).1]
    exact h.sets x hx i
  · exact h.sets r hx i

theorem AlertOp.laws {u v : State} (h : AlertOp u v) (k : AlertLaws u) : AlertLaws v := by
  cases h with
  | refresh f source => exact k.of_modAlert f.alertId (fun _ => ⟨rfl, rfl, rfl⟩) fun _ => rfl
  | observe f source hf hn hl => exact State.addAlert_laws k (alertRecord_eq_none hn) hl (AlertOnFields.level_ranked hf) rfl
  | override f source w hf hn hl =>
    have hid := alertRecord_eq_none hn
    have hadd : AlertLaws (u.addAlert (f.toRecord .override source u.timer)) :=
      State.addAlert_laws k hid hl (AlertOnFields.level_ranked hf) rfl
    have hover : Overriding f.alertId (u.addAlert (f.toRecord .override source u.timer)).alerts := by
      intro r hr h
      rcases List.mem_append.mp hr with hr | hr
      · exact absurd h (hid r hr)
      · exact List.mem_singleton.mp hr ▸ rfl
    have hin : ∃ r ∈ (u.addAlert (f.toRecord .override source u.timer)).alerts, r.alertId = f.alertId ∧ r.level = f.level ∧
        r.mode = .override := ⟨f.toRecord .override source u.timer, by simp [State.addAlert], rfl, rfl, rfl⟩
    have hall := State.offerAll_laws (a := { alertId := f.alertId, level := f.level, offset := none }) hadd
      (AlertOnFields.level_ranked hf) rfl hin hover (slots := Config.slots.filter fun i => inMask w.channelSet i)
      (slots_nodup.filter _) fun j _ => k.unknown hid j
    unfold State.overrideAlert State.answerAlert State.raiseAlert
    refine hall.of_same (by rw [State.answerNumber_alerts, (State.Edited.offer _ _).alerts]) fun i => ?_
    rw [(State.answerNumber_lineOnly _ _ _).sameBlocks.chan, State.offer_chan]
    exact ⟨hall.chans i, .of_same rfl rfl⟩
  | ended r id hr reason => exact State.endAlert_laws k (alertRecord_eq_some hr).1 reason

theorem State.Edited.alertLaws {u v : State} (h : u.Edited v) (k : AlertLaws u) : AlertLaws v :=
  k.of_same h.alerts fun i => ⟨channelLaw_changes (h.changed.chan i) (k.chans i), (h.chan i).keepsRefs u (k.chans i)⟩

theorem State.EditedLossy.alertLaws {u v : State} (h : u.EditedLossy v) (k : AlertLaws u) : AlertLaws v := by
  obtain ⟨w, x, h1, h2, h3⟩ := h
  have hw := h1.alertLaws k
  refine h3.alertLaws ?_
  rcases h2 with rfl | ⟨i, rfl⟩
  · exact hw
  · refine (w.loseClock_edited i).alertLaws (hw.of_same rfl fun j => ?_)
    rw [State.dropClock, State.modChan_chan]
    split
    next e => exact ⟨e ▸ hw.chans j, .of_same (e ▸ rfl) (e ▸ rfl)⟩
    next => exact ⟨hw.chans j, .of_same rfl rfl⟩

theorem BlockOp.alertLaws {u v : State} (h : BlockOp u v) (k : AlertLaws u) : AlertLaws v := by
  rcases h.cases with h | ⟨_, ha, hc⟩ | ⟨cell, rfl⟩ | ⟨f, _, rfl⟩ | h
  · exact h.alertLaws k
  · exact k.of_same ha fun i => ⟨hc i ▸ k.chans i, .of_same (by rw [hc]) (by rw [hc])⟩
  · refine k.of_same rfl fun i => ?_
    obtain ⟨r, n, d, e, hr⟩ := (u.chan i).afterRingWrite_fields (u.ring.write cell) u.ring.writer cell
    rw [State.writeRing_chan, e]
    exact ⟨channelLaw_reader hr (k.chans i), .of_same rfl rfl⟩
  · refine k.of_same rfl fun i => ?_
    rw [State.modChan_chan]
    split
    next e => exact ⟨e ▸ k.chans i, .of_same (e ▸ rfl) (e ▸ rfl)⟩
    next => exact ⟨k.chans i, .of_same rfl rfl⟩
  · exact h.laws k

/-- Settles O60. -/
theorem stepKeepsTheKeyAndChannelSetLaws : Obligations.StepKeepsTheKeyAndChannelSetLaws := by
  intro s s' htable hchans hkeys hsets h
  have k : AlertLaws s' := by
    refine step_keeps (P := AlertLaws) (fun u v hb hu => ?_) (fun u v _ ho hu => ho.alertLaws hu) (fun u v _ hc => ?_) (fun u v hu hr => ?_)
      (AlertLaws.of_laws htable hchans hkeys hsets) h
    · exact hu.of_same hb.alerts fun i => ⟨hb.chan i ▸ hu.chans i, .of_same (by rw [hb.chan]) (by rw [hb.chan])⟩
    · have hreset (i : Slot) : ChannelLaw (v.chan i) ∧ (∀ a, (v.chan i).active ≠ some (.alert a)) ∧ (v.chan i).hold = [] := by
        obtain ⟨c, e⟩ := hc.chan i
        exact ⟨e ▸ channel_reset_law, by rw [e]; simp [Channel.afterRstn, Channel.reset], by rw [e]; rfl⟩
      refine ⟨?_, fun i => (hreset i).1, fun i => .of_none (hreset i).2.1 (hreset i).2.2, by simp [hc.alerts]⟩
      rw [hc.alerts]
      exact ⟨by simp, by simp, by simp, by simp⟩
    · exact hu.of_same hr.alerts fun i => ⟨hr.chan i ▸ hu.chans i, .of_same (by rw [hr.chan]) (by rw [hr.chan])⟩
  exact ⟨(keyLaw_iff s').mpr k.keys, k.sets⟩

end Sys2Proof.Machine
end

section
/-!
The binding of the insert ports to the channels that own them (sections 1.3, 3.2): what each request to a port and each change of a
channel record does to it.
-/
namespace Sys2Proof.Machine

open Sys2Proof.Safety

/-! ## The port that a channel record binds -/

/-- A port, its mode and its seeking flag, as the state of a channel binds them to it. -/
abbrev Binding := PortId × PortMode × Bool

theorem boundPort_network {c : Channel} (h : c.state = .network) : boundPort c = none := by
  unfold boundPort
  rw [h]

theorem boundPort_onBreak {c : Channel} (h : c.state = .onBreak) {b : BreakRecord} (ha : c.active = some (.brk b)) :
    boundPort c = some (b.port, .live, false) := by
  unfold boundPort
  rw [h, activeBreak_eq_some.mpr ha]
  rfl

theorem boundPort_rejoinWait {c : Channel} (h : c.state = .rejoinWait) {b : BreakRecord} (ha : c.active = some (.brk b)) :
    boundPort c = some (b.port, .live, true) := by
  unfold boundPort
  rw [h, activeBreak_eq_some.mpr ha]
  rfl

theorem boundPort_onAir {c : Channel} (h : c.state.OnAir) {b : BreakRecord} (ha : c.active = some (.brk b)) :
    ∃ k, boundPort c = some (b.port, .live, k) := by
  rcases h with h | h
  · exact ⟨_, boundPort_onBreak h ha⟩
  · exact ⟨_, boundPort_rejoinWait h ha⟩

theorem boundPort_returnWait {c : Channel} (h : c.state = .returnWait) {b : BreakRecord} (ha : c.active = some (.brk b)) :
    boundPort c = some (b.port, .drain, false) := by
  unfold boundPort
  rw [h, activeBreak_eq_some.mpr ha]
  rfl

theorem boundPort_returnWait_none {c : Channel} (h : c.state = .returnWait) (ha : c.active = none) : boundPort c = none := by
  unfold boundPort
  rw [h, activeBreak_of_not_brk (by simp [ha])]
  rfl

theorem boundPort_alerted {c : Channel} (h : c.state.Alerted) : boundPort c = c.heldBreak.map fun b => (b.port, .drain, false) := by
  unfold boundPort
  rcases h with h | h <;> rw [h]

theorem entry_of_mem {c : Channel} (h : CueFacts c) {e : CueEntry} (he : e ∈ c.cues) : c.entry e.cueId = some e := by
  cases hx : c.entry e.cueId with
  | none => simpa [hx] using entry_isSome.mpr ⟨e, he, rfl⟩
  | some x =>
    obtain ⟨hm, hid⟩ := entry_eq_some hx
    rw [h.unique hm he hid]

theorem boundPort_cutWait {c : Channel} (h : CueFacts c) {e : CueEntry} (he : e ∈ c.cues) (hp : c.pendingEntry = some e.cueId) :
    boundPort c = some (e.port, .reserved, true) := by
  have hs : c.state = .cutWait := h.pending_iff.mp (by simp [hp])
  unfold boundPort
  rw [hs]
  simp [Channel.cutWaitEntry, hp, entry_of_mem h he]

theorem entry_modEntry {c : Channel} {f : CueEntry → CueEntry} (hf : ∀ e, (f e).cueId = e.cueId) (id x : Ident) :
    (c.modEntry id f).entry x = (c.entry x).map fun e => if e.cueId = id then f e else e := by
  have hp : (fun e : CueEntry => e.cueId == x) ∘ (fun e => if e.cueId = id then f e else e) = fun e => e.cueId == x := by
    funext e
    simp only [Function.comp_apply]
    split
    · rw [hf]
    · rfl
  simp only [Channel.entry, Channel.modEntry, List.find?_map, hp]

theorem boundPort_enterCutWait {c : Channel} (h : CueFacts c) {e : CueEntry} (he : e ∈ c.cues) :
    boundPort (c.enterCutWait e.cueId) = some (e.port, .reserved, true) := by
  have hentry : (c.enterCutWait e.cueId).entry e.cueId = some { e with state := .cutWait } := by
    have := entry_modEntry (c := c) (f := fun e => { e with state := .cutWait }) (fun _ => rfl) e.cueId e.cueId
    rw [entry_of_mem h he, Option.map_some, if_pos rfl] at this
    exact this
  have hc : (c.enterCutWait e.cueId).cutWaitEntry = some { e with state := .cutWait } := hentry
  have hs : (c.enterCutWait e.cueId).state = .cutWait := rfl
  unfold boundPort
  rw [hs]
  simp only [hc, Option.map_some]

theorem map_congr_of_map {α β γ : Type} {a b : Option α} {p : α → β} (f : β → γ) (h : a.map p = b.map p) :
    (a.map fun x => f (p x)) = b.map fun x => f (p x) := by
  have := congrArg (Option.map f) h
  simpa [Option.map_map, Function.comp_def] using this

/-- What a channel binds depends on its state and on the ports of its CUT_WAIT entry and of its break records. -/
theorem boundPort_congr {c c' : Channel} (hs : c'.state = c.state)
    (he : c'.cutWaitEntry.map (·.port) = c.cutWaitEntry.map (·.port)) (ha : c'.activeBreak.map (·.port) = c.activeBreak.map (·.port))
    (hh : c'.heldBreak.map (·.port) = c.heldBreak.map (·.port)) : boundPort c' = boundPort c := by
  unfold boundPort
  rw [hs]
  split
  · rfl
  · exact map_congr_of_map (fun p => (p, PortMode.reserved, true)) he
  · exact map_congr_of_map (fun p => (p, PortMode.live, false)) ha
  · exact map_congr_of_map (fun p => (p, PortMode.live, true)) ha
  · exact map_congr_of_map (fun p => (p, PortMode.drain, false)) ha
  all_goals exact map_congr_of_map (fun p => (p, PortMode.drain, false)) hh

/-- The fields that bind a port stand. -/
theorem boundPort_of_same {c c' : Channel} (hs : c'.state = c.state) (hp : c'.pendingEntry = c.pendingEntry) (hc : c'.cues = c.cues)
    (ha : c'.active = c.active) (hh : c'.hold = c.hold) : boundPort c' = boundPort c := by
  have he : c'.cutWaitEntry = c.cutWaitEntry := by
    unfold Channel.cutWaitEntry Channel.entry
    rw [hp, hc]
  have ha : c'.activeBreak = c.activeBreak := by
    unfold Channel.activeBreak
    rw [ha]
  have hh : c'.heldBreak = c.heldBreak := by
    unfold Channel.heldBreak
    rw [hh]
  exact boundPort_congr hs (by rw [he]) (by rw [ha]) (by rw [hh])

theorem boundPort_modEntry {c : Channel} {f : CueEntry → CueEntry} (hf : ∀ e, (f e).cueId = e.cueId ∧ (f e).port = e.port) (id : Ident) :
    boundPort (c.modEntry id f) = boundPort c := by
  refine boundPort_congr rfl ?_ rfl rfl
  unfold Channel.cutWaitEntry
  have hp : (c.modEntry id f).pendingEntry = c.pendingEntry := rfl
  rw [hp]
  cases c.pendingEntry with
  | none => rfl
  | some x =>
    simp only [Option.bind_some, entry_modEntry fun e => (hf e).1, Option.map_map]
    refine congrArg (fun g => Option.map g (c.entry x)) (funext fun e => ?_)
    simp only [Function.comp_apply]
    split
    · exact (hf e).2
    · rfl

theorem entry_dropEntry_ne {c : Channel} {id x : Ident} (h : x ≠ id) : (c.dropEntry id).entry x = c.entry x := by
  unfold Channel.entry Channel.dropEntry
  rw [List.find?_filter]
  congr 1
  funext e
  by_cases he : e.cueId = x
  · simp [he, h]
  · simp [he]

theorem boundPort_dropEntry {c : Channel} {id : Ident} (h : c.pendingEntry ≠ some id) : boundPort (c.dropEntry id) = boundPort c := by
  refine boundPort_congr rfl ?_ rfl rfl
  unfold Channel.cutWaitEntry
  have hp : (c.dropEntry id).pendingEntry = c.pendingEntry := rfl
  rw [hp]
  cases hx : c.pendingEntry with
  | none => rfl
  | some x => rw [Option.bind_some, Option.bind_some, entry_dropEntry_ne fun k => h (hx.trans (congrArg some k))]

theorem boundPort_putEntry {c : Channel} (h : CueFacts c) {e : CueEntry} (h' : CueFacts (c.putEntry e)) (hp : c.pendingEntry ≠ some e.cueId) :
    boundPort (c.putEntry e) = boundPort c := by
  refine boundPort_congr rfl ?_ rfl rfl
  unfold Channel.cutWaitEntry
  have hpend : (c.putEntry e).pendingEntry = c.pendingEntry := rfl
  rw [hpend]
  cases hx : c.pendingEntry with
  | none => rfl
  | some x =>
    obtain ⟨y, hy, rfl⟩ := h.pending_mem x hx
    have hne : y.cueId ≠ e.cueId := fun k => hp (k ▸ hx)
    rw [Option.bind_some, Option.bind_some, entry_of_mem h hy, entry_of_mem h' (mem_putEntry.mpr (.inr ⟨hy, hne⟩))]

/-- A channel in no CUT_WAIT binds the port of its break record, if it has one. -/
theorem boundPort_of_breakRecord {c : Channel} (h : ChannelLaw c) (hs : c.state ≠ .cutWait) :
    boundPort c = none ∧ c.breakRecord = none ∨
      ∃ b m k, c.breakRecord = some b ∧ boundPort c = some (b.port, m, k) ∧ m ≠ .free := by
  rcases c.state.cases with (hst | hst) | hst | hst | hst
  · exact .inl ⟨boundPort_network hst, breakRecord_of_breakless (breakless_of_idle h (.inl hst))⟩
  · exact absurd hst hs
  · obtain ⟨⟨b, hb⟩, _⟩ := (channelLaw_onBreak hst).mp h
    obtain ⟨k, hk⟩ := boundPort_onAir hst hb
    exact .inr ⟨b, _, k, breakRecord_of_active (activeBreak_eq_some.mpr hb), hk, by simp⟩
  · obtain ⟨ha | ⟨b, hb⟩, hh, _⟩ := (channelLaw_returnWait hst).mp h
    · refine .inl ⟨boundPort_returnWait_none hst ha, breakRecord_of_breakless (breakless_iff.mpr ⟨by simp [ha], by simp [hh]⟩)⟩
    · exact .inr ⟨b, _, _, breakRecord_of_active (activeBreak_eq_some.mpr hb), boundPort_returnWait hst hb, by simp⟩
  · obtain ⟨⟨a, ha, _⟩, _⟩ := (channelLaw_alerted hst).mp h
    rw [boundPort_alerted hst, breakRecord_of_held (activeBreak_of_not_brk (by simp [ha]))]
    cases c.heldBreak with
    | none => exact .inl ⟨rfl, rfl⟩
    | some b => exact .inr ⟨b, _, _, rfl, rfl, by simp⟩

theorem boundPort_mode (c : Channel) : ∀ p m k, boundPort c = some (p, m, k) → m ≠ .free := by
  intro p m k h
  unfold boundPort at h
  split at h <;> simp only [Option.map_eq_some_iff, Prod.mk.injEq, reduceCtorEq] at h
  all_goals
    obtain ⟨_, _, _, rfl, _⟩ := h
    simp

/-! ## The ports as they are bound -/

/-- Every port is owned as the channels are bound: a channel owns the port bound to it, in the mode bound, and no other. -/
structure Bound (s : State) (B : Slot → Option Binding) : Prop where
  owner : ∀ i p, (s.port p).owner = some i → B i = some (p, (s.port p).mode, (s.port p).seeking)
  bound : ∀ i p m k, B i = some (p, m, k) → (s.port p).owner = some i

/-- A port takes a new content, owned by channel i or by none. -/
theorem Bound.setPort {s : State} {B : Slot → Option Binding} (h : Bound s B) {i : Slot} {p : PortId} {q : InsertPort}
    (hp : ∀ j, (s.port p).owner = some j → j = i) (hB : ∀ x, B i = some x → x.1 = p) (ho : q.owner = none ∨ q.owner = some i) :
    Bound (s.setPort p q) (Function.update B i (q.owner.map fun _ => (p, q.mode, q.seeking))) := by
  have hport (r : PortId) : (s.setPort p q).port r = if r = p then q else s.port r := by
    have := s.modPort_port p r fun _ => q
    simpa [State.modPort] using this
  constructor
  · intro j r hj
    rw [hport] at hj ⊢
    by_cases hr : r = p
    · rw [if_pos hr] at hj ⊢
      obtain rfl : j = i := by
        rcases ho with ho | ho <;> rw [ho] at hj
        · simp at hj
        · simpa using hj.symm
      rw [Function.update_self, hj, hr]
      rfl
    · rw [if_neg hr] at hj ⊢
      have hb := h.owner j r hj
      have hji : j ≠ i := fun k => hr (hB _ (k ▸ hb))
      rw [Function.update_of_ne hji, hb]
  · intro j r m k hj
    rw [hport]
    by_cases hji : j = i
    · subst hji
      rw [Function.update_self, Option.map_eq_some_iff] at hj
      obtain ⟨x, hx, e⟩ := hj
      obtain rfl : p = r := congrArg Prod.fst e
      rw [if_pos rfl]
      rcases ho with ho | ho
      · simp [ho] at hx
      · exact ho
    · rw [Function.update_of_ne hji] at hj
      have hb := h.bound j r m k hj
      have hr : r ≠ p := fun k => hji (hp j (k ▸ hb))
      rw [if_neg hr, hb]

/-- Every channel is bound as its record says. -/
def Tied (s : State) : Prop := Bound s fun i => boundPort (s.chan i)

/-- Every channel but i is bound as its record says, channel i as b; and the others are lawful. -/
structure Ties (s : State) (i : Slot) (b : Option Binding) : Prop where
  bound : Bound s (Function.update (fun j => boundPort (s.chan j)) i b)
  law   : ∀ j, j ≠ i → (s.chan j).Lawful

theorem Tied.ties {s : State} (h : Tied s) (hc : ∀ j, (s.chan j).Lawful) (i : Slot) : Ties s i (boundPort (s.chan i)) :=
  ⟨by rw [Function.update_eq_self]; exact h, fun j _ => hc j⟩

theorem Ties.tied {s : State} {i : Slot} {b : Option Binding} (h : Ties s i b) (hb : boundPort (s.chan i) = b) : Tied s := by
  have := h.bound
  rw [← hb, Function.update_eq_self] at this
  exact this

/-- The ports stand, and what each channel binds. -/
theorem Tied.of_same {s u : State} (h : Tied s) (hp : ∀ p, (u.port p).owner = (s.port p).owner ∧ (u.port p).mode = (s.port p).mode ∧
    (u.port p).seeking = (s.port p).seeking) (hc : ∀ j, boundPort (u.chan j) = boundPort (s.chan j)) : Tied u := by
  constructor
  · intro i p hi
    rw [hc, (hp p).2.1, (hp p).2.2]
    exact h.owner i p ((hp p).1 ▸ hi)
  · intro i p m k hi
    rw [(hp p).1]
    exact h.bound i p m k (hc i ▸ hi)

theorem Tied.modChan {s : State} (h : Tied s) {i : Slot} {f : Channel → Channel} (hf : boundPort (f (s.chan i)) = boundPort (s.chan i)) :
    Tied (s.modChan i f) := by
  refine h.of_same (fun _ => ⟨rfl, rfl, rfl⟩) fun j => ?_
  rw [State.modChan_chan]
  split
  next e => exact e ▸ hf
  next => rfl

theorem State.offer_port (s : State) (r : Report) (p : PortId) : (s.offer r).port p = s.port p :=
  (s.offer_lineOnly r).sameBlocks.port p

theorem Tied.offer {s : State} (h : Tied s) (r : Report) : Tied (s.offer r) :=
  h.of_same (fun p => by rw [State.offer_port]; exact ⟨rfl, rfl, rfl⟩) fun j => by rw [State.offer_chan]

namespace Ties

variable {s u : State} {i : Slot} {b : Option Binding}

/-- The ports and the other channels stand. -/
theorem of_same (h : Ties s i b) (hp : ∀ p, u.port p = s.port p) (hc : ∀ j, j ≠ i → u.chan j = s.chan j) : Ties u i b := by
  have hB : Function.update (fun j => boundPort (u.chan j)) i b = Function.update (fun j => boundPort (s.chan j)) i b := by
    funext j
    by_cases hj : j = i
    · subst hj
      simp
    · rw [Function.update_of_ne hj, Function.update_of_ne hj, hc j hj]
  refine ⟨?_, fun j hj => hc j hj ▸ h.law j hj⟩
  rw [hB]
  exact ⟨fun j p hj => by rw [hp] at hj ⊢; exact h.bound.owner j p hj, fun j p m k hj => by rw [hp]; exact h.bound.bound j p m k hj⟩

theorem modChan (h : Ties s i b) (f : Channel → Channel) : Ties (s.modChan i f) i b :=
  h.of_same (fun _ => rfl) fun _ hj => State.modChan_chan_ne _ _ hj

theorem offer (h : Ties s i b) (r : Report) : Ties (s.offer r) i b :=
  h.of_same (State.offer_port s r) fun _ _ => State.offer_chan ..

theorem send (h : Ties s i b) (c : StreamCell) : Ties (s.send i c) i b :=
  h.of_same (fun _ => rfl) fun _ hj => State.send_chan_ne _ _ hj

theorem sendFill (h : Ties s i b) : Ties (s.sendFill i) i b := (h.modChan _).send _

theorem owner (h : Ties s i b) {p : PortId} (ho : (s.port p).owner = some i) : b = some (p, (s.port p).mode, (s.port p).seeking) := by
  have := h.bound.owner i p ho
  rwa [Function.update_self] at this

theorem owned {p : PortId} {m : PortMode} {k : Bool} (h : Ties s i (some (p, m, k))) :
    (s.port p).owner = some i ∧ (s.port p).mode = m ∧ (s.port p).seeking = k := by
  have ho := h.bound.bound i p m k (by rw [Function.update_self])
  have := h.owner ho
  simp only [Option.some.injEq, Prod.mk.injEq, true_and] at this
  exact ⟨ho, this.1.symm, this.2.symm⟩

/-- The port of channel i takes a new content, owned by it or by none. -/
theorem modPort {p : PortId} {m : PortMode} {k : Bool} (h : Ties s i (some (p, m, k))) {f : InsertPort → InsertPort}
    (ho : (f (s.port p)).owner = none ∨ (f (s.port p)).owner = some i) :
    Ties (s.modPort p f) i ((f (s.port p)).owner.map fun _ => (p, (f (s.port p)).mode, (f (s.port p)).seeking)) := by
  have hb := h.bound.setPort (i := i) (p := p) (q := f (s.port p)) (fun j hj => by simpa [h.owned.1] using hj.symm)
    (fun x hx => by rw [Function.update_self] at hx; exact (Option.some.inj hx) ▸ rfl) ho
  rw [Function.update_idem] at hb
  exact ⟨hb, h.law⟩

/-- The owner keeps its port, whose mode and seeking flag become others. -/
theorem keepPort {p : PortId} {m m' : PortMode} {k k' : Bool} (h : Ties s i (some (p, m, k))) {f : InsertPort → InsertPort}
    (hf : ∀ q : InsertPort, q.owner = some i → q.mode = m → q.seeking = k →
      (f q).owner = some i ∧ (f q).mode = m' ∧ (f q).seeking = k') : Ties (s.modPort p f) i (some (p, m', k')) := by
  obtain ⟨h1, h2, h3⟩ := h.owned
  obtain ⟨k1, k2, k3⟩ := hf _ h1 h2 h3
  have := h.modPort (f := f) (.inr k1)
  rwa [k1, k2, k3] at this

theorem take {p : PortId} {m : PortMode} {k : Bool} (h : Ties s i (some (p, m, k))) :
    Ties (s.modPort p InsertPort.take) i (some (p, m, k)) := by
  refine h.keepPort fun q h1 h2 h3 => ?_
  unfold InsertPort.take
  rcases (q.setQueue q.queue.tail).inspect_spec with ⟨_, e⟩ | ⟨hs, _, e1, e2, e3, _⟩
  · rw [e]
    exact ⟨h1, h2, h3⟩
  · exact ⟨e2.trans h1, e1.trans h2, e3.trans (hs.symm.trans h3)⟩

theorem takeAtCut {p : PortId} {m : PortMode} {k : Bool} (h : Ties s i (some (p, m, k))) :
    Ties (s.modPort p InsertPort.takeAtCut) i (some (p, m, false)) :=
  h.keepPort fun _ h1 h2 _ => ⟨h1, h2, rfl⟩

theorem goLiveAtCut {p : PortId} {k : Bool} (h : Ties s i (some (p, .reserved, k))) :
    Ties (s.modPort p fun q => q.goLive i) i (some (p, .live, false)) := by
  refine h.keepPort fun q h1 h2 _ => ?_
  rw [InsertPort.goLive, if_pos h1, h2]
  exact ⟨h1, rfl, rfl⟩

theorem goLiveFromDrain {p : PortId} {k : Bool} (h : Ties s i (some (p, .drain, k))) :
    Ties (s.modPort p fun q => q.goLive i) i (some (p, .live, true)) := by
  refine h.keepPort fun q h1 h2 _ => ?_
  rw [InsertPort.goLive, if_pos h1, h2]
  exact ⟨h1, rfl, rfl⟩

theorem drainPort {p : PortId} {k : Bool} (h : Ties s i (some (p, .live, k))) : Ties (s.drainPort i p) i (some (p, .drain, false)) := by
  refine h.keepPort fun q h1 h2 _ => ?_
  rw [InsertPort.drain, if_pos (by simp [InsertPort.drains, h1, h2])]
  exact ⟨h1, rfl, rfl⟩

theorem drainTruncating {p : PortId} {k : Bool} (h : Ties s i (some (p, .live, k))) :
    Ties (s.drainTruncating i p) i (some (p, .drain, false)) := h.drainPort.modChan _

theorem freed {p : PortId} {m : PortMode} {k : Bool} (h : Ties s i (some (p, m, k))) : Ties (s.modPort p InsertPort.freed) i none :=
  h.modPort (f := InsertPort.freed) (.inl rfl)

theorem grant_fields (q : InsertPort) (j : Slot) :
    (q.grant j).owner = some j ∧ (q.grant j).mode = .reserved ∧ (q.grant j).seeking = true := by
  simp [InsertPort.grant, InsertPort.inspect, InsertPort.setQueue]

/-- The arbiter grants a port that no channel owns to an entry of another channel, or to none (R10). -/
theorem arbitrate {p : PortId} (h : Ties s i none) (ho : (s.port p).owner = none) (hi : (s.chan i).candidate p = none) :
    Ties (s.arbitrate p) i none := by
  unfold State.arbitrate
  split
  next j e hw =>
    have hcand := arbiterWinner_spec hw
    obtain ⟨hs, hm, _, hport⟩ := candidate_spec hcand
    have hj : j ≠ i := fun k => by simp [k ▸ hcand] at hi
    have hb := h.bound.setPort (i := j) (p := p) (q := (s.port p).grant j) (fun x hx => by simp [ho] at hx)
      (fun x hx => by rw [Function.update_of_ne hj, boundPort_network hs] at hx; simp at hx) (.inr (grant_fields _ _).1)
    obtain ⟨g1, g2, g3⟩ := grant_fields (s.port p) j
    rw [g1, g2, g3, Option.map_some] at hb
    have hchan (x : Slot) : (((s.modPort p fun q => q.grant j).modChan j fun c => c.enterCutWait e.cueId).chan x) =
        if x = j then (s.chan j).enterCutWait e.cueId else s.chan x := by
      rw [State.modChan_chan]
      split
      next k => subst k; rfl
      next => rfl
    have hB : Function.update (fun x => boundPort (((s.modPort p fun q => q.grant j).modChan j fun c => c.enterCutWait e.cueId).chan x)) i
        none = Function.update (Function.update (fun x => boundPort (s.chan x)) i none) j (some (p, .reserved, true)) := by
      funext x
      by_cases hx : x = j
      · subst hx
        rw [Function.update_of_ne hj, Function.update_self, hchan, if_pos rfl, boundPort_enterCutWait (h.law x hj).cues hm, hport]
      · rw [Function.update_of_ne hx]
        by_cases hxi : x = i
        · subst hxi
          rw [Function.update_self, Function.update_self]
        · rw [Function.update_of_ne hxi, Function.update_of_ne hxi, hchan, if_neg hx]
    refine ⟨?_, fun x hx => ?_⟩
    · rw [hB]
      exact ⟨hb.owner, hb.bound⟩
    · rw [hchan]
      split
      next k =>
        subst k
        exact Edit.lawful (ring := s.ring) (.reserve hm (.inl (candidate_spec hcand).2.2.1) hs) (h.law x hj)
      next => exact h.law x hx
  next => exact h

/-- Channel i releases the port bound to it (R10). -/
theorem release {p : PortId} {m : PortMode} {k : Bool} (h : Ties s i (some (p, m, k))) (hm : m ≠ .free)
    (hi : (s.chan i).candidate p = none) : Ties (s.releasePort i p) i none := by
  obtain ⟨h1, h2, _⟩ := h.owned
  have hr : (s.port p).releases i = true := by simp [InsertPort.releases, h1, h2, hm]
  unfold State.releasePort
  rw [if_pos hr]
  refine h.freed.arbitrate ?_ hi
  rw [State.modPort_port, if_pos rfl]
  rfl

/-- Channel i releases its port, in a state that asks for none (R10). -/
theorem release_of_ne {p : PortId} {m : PortMode} {k : Bool} (h : Ties s i (some (p, m, k))) (hm : m ≠ .free)
    (hs : (s.chan i).state ≠ .network) : Ties (s.releasePort i p) i none :=
  h.release hm (if_neg hs)

end Ties

end Sys2Proof.Machine
end

section
/-!
The operations of the cue entries, the clocks and the breaks keep the ports as the channels bind them (chapters 2, 5).
-/
namespace Sys2Proof.Machine

open Sys2Proof.Safety

/-- The ports are bound as the channels say, and every channel is lawful. -/
structure Wired (s : State) : Prop where
  tied : Tied s
  law  : ∀ j, (s.chan j).Lawful

theorem State.Edited.lawful {s u : State} (e : s.Edited u) (h : ∀ j, (s.chan j).Lawful) (j : Slot) : (u.chan j).Lawful :=
  (lawful_keptByEdits s.ring).edits (e.chan j) (h j)

theorem State.Edited.wired {s u : State} (e : s.Edited u) (h : Wired s) (t : Tied u) : Wired u := ⟨t, e.lawful h.law⟩

theorem Wired.ties {s : State} (h : Wired s) (i : Slot) : Ties s i (boundPort (s.chan i)) := h.tied.ties h.law i

theorem Wired.ties_of {s : State} (h : Wired s) {i : Slot} {b : Option Binding} (hb : boundPort (s.chan i) = b) : Ties s i b :=
  hb ▸ h.ties i

/-- Operations done one after the other keep the ports bound, when each does. -/
theorem Wired.foldl {α : Type} {f : State → α → State} (l : List α) {s : State} (h : Wired s)
    (hf : ∀ s, Wired s → ∀ a, Wired (f s a)) : Wired (l.foldl f s) := by
  induction l generalizing s with
  | nil => exact h
  | cons a l ih => exact ih (hf s h a)

/-! ## Entries that leave the list (R76) -/

theorem candidate_eq_none {c : Channel} (h : ∀ e ∈ c.cues, e.state ≠ .portWait) (p : PortId) : c.candidate p = none := by
  cases hc : c.candidate p with
  | none => rfl
  | some e =>
    obtain ⟨_, hm, hs, _⟩ := candidate_spec hc
    exact absurd hs (h e hm)

theorem Wired.leaveEntry {s : State} (h : Wired s) {i : Slot} {e : CueEntry} (he : e ∈ (s.chan i).cues) (k : CutKind) (r : CutReason) :
    Wired (s.leaveEntry i e k r) := by
  refine (s.leaveEntry_edited i he k r).wired h ?_
  unfold State.leaveEntry
  refine Tied.offer ?_ _
  have hc := (h.law i).cues
  by_cases hs : e.state = .cutWait
  · have hp := (hc.cutWait_iff e he).mp hs
    have hst := hc.pending_iff.mp (by simp [hp])
    have hnone : ∀ x ∈ ((s.modChan i Channel.leaveCutWait).chan i).cues, x.state ≠ .portWait := by
      rw [State.modChan_chan_same]
      exact hc.none_waits hst
    rw [if_pos hs]
    have ht := ((h.ties_of (boundPort_cutWait hc he hp)).modChan Channel.leaveCutWait).release (by simp) (candidate_eq_none hnone _)
    refine (ht.modChan _).tied ?_
    rw [State.modChan_chan_same, State.releasePort_chan_of_none hnone, State.modChan_chan_same]
    exact boundPort_network (if_pos hst)
  · rw [if_neg hs]
    exact h.tied.modChan (boundPort_dropEntry (mt (hc.cutWait_iff e he).mpr hs))

theorem Wired.count {s : State} (h : Wired s) {i : Slot} {f : Channel → Channel} (hf : ∀ c : Channel, c.SameCore (f c)) :
    Wired (s.modChan i f) := by
  refine (State.Edited.count hf).wired h (h.tied.modChan ?_)
  have k := hf (s.chan i)
  exact boundPort_of_same k.state k.pendingEntry k.cues k.active k.hold

theorem Wired.offer {s : State} (h : Wired s) (r : Report) : Wired (s.offer r) := (State.Edited.offer s r).wired h (h.tied.offer r)

theorem Wired.send {s : State} (h : Wired s) (i : Slot) (c : StreamCell) : Wired (s.send i c) := by
  refine (State.Edited.send s i c).wired h (((h.ties i).send c).tied ?_)
  rw [State.send_chan_same]
  exact boundPort_of_same rfl rfl rfl rfl rfl

theorem Wired.sendFill {s : State} (h : Wired s) (i : Slot) : Wired (s.sendFill i) :=
  (h.count (f := fun c => { c with fillCount := countUp c.fillCount })
    fun _ => ⟨rfl, rfl, rfl, rfl, rfl, rfl, rfl, rfl, rfl, rfl, id⟩).send i _

theorem Wired.missEntry {s : State} (h : Wired s) {i : Slot} {e : CueEntry} (he : e ∈ (s.chan i).cues) (r : CutReason) :
    Wired (s.missEntry i r e) :=
  (h.leaveEntry he _ r).count (f := fun c => { c with missCount := countUp c.missCount })
    fun _ => ⟨rfl, rfl, rfl, rfl, rfl, rfl, rfl, rfl, rfl, rfl, id⟩

theorem Wired.withdrawById {s : State} (h : Wired s) (i : Slot) (r : CutReason) (id : Ident) : Wired (s.withdrawById i r id) := by
  unfold State.withdrawById
  split
  next e he => exact h.leaveEntry (entry_eq_some he).1 _ r
  next => exact h

theorem Wired.withdrawEntries {s : State} (h : Wired s) (i : Slot) (which : CueEntry → Bool) (r : CutReason) :
    Wired (s.withdrawEntries i which r) := h.foldl _ fun _ k id => k.withdrawById i r id

/-! ## The clocks (chapter 2) -/

theorem Wired.dropClock {s : State} (h : Wired s) (i : Slot) : Wired (s.dropClock i) := by
  refine ⟨h.tied.modChan (boundPort_of_same rfl rfl rfl rfl rfl), fun j => ?_⟩
  rw [State.dropClock, State.modChan_chan]
  split
  next e => exact e ▸ (h.law j).of_clock _
  next => exact h.law j

theorem boundPort_afterLoss {c : Channel} (h : c.Breakless) (hs : c.state ≠ .cutWait) : boundPort c.afterLoss = none := by
  obtain ⟨h1, h2⟩ := breakless_iff.mp h
  have ha : c.afterLoss.activeBreak = none := by
    refine activeBreak_of_not_brk ?_
    unfold Channel.afterLoss
    split <;> exact h1
  have hh : c.afterLoss.heldBreak = none := by
    rw [← breakRecord_of_held ha]
    refine breakRecord_of_breakless ?_
    unfold Channel.Breakless
    rw [c.afterLoss_fields.1]
    exact h
  rcases c.state.cases with (hst | hst) | hst | hst | hst
  · rw [afterLoss_of_stay (.inl (.inl hst))]
    exact boundPort_network hst
  · exact absurd hst hs
  · rw [afterLoss_of_return (.inl hst)] at ha ⊢
    unfold boundPort
    simp only [Channel.enterReturnWait] at ha ⊢
    rw [ha]
    rfl
  · rw [afterLoss_of_return (.inr hst)] at ha ⊢
    unfold boundPort
    simp only [Channel.enterReturnWait] at ha ⊢
    rw [ha]
    rfl
  · rw [afterLoss_of_stay (.inr hst)] at hh ⊢
    rw [boundPort_alerted hst, hh]
    rfl

theorem Wired.loseBreak {s : State} (h : Wired s) (i : Slot) : Wired (s.loseBreak i) := by
  refine (s.loseBreak_edited i).wired h ?_
  have hl := (h.law i).records
  by_cases hs : (s.chan i).state = .cutWait
  · have hb := breakRecord_of_breakless (breakless_of_idle hl (.inr hs))
    rw [State.loseBreak_of_none hb]
    exact h.tied.modChan (congrArg boundPort (afterLoss_of_stay (.inl (.inr hs))))
  · have hafter : boundPort ((s.loseBreak i).chan i) = none := by
      rw [State.loseBreak_chan hl]
      exact boundPort_afterLoss (dropBreak_breakless hl) (by rw [Channel.dropBreak_state]; exact hs)
    rcases boundPort_of_breakRecord hl hs with ⟨hb, hr⟩ | ⟨b, m, k, hr, hb, hm⟩
    · rw [State.loseBreak_of_none hr] at hafter ⊢
      exact ((h.ties_of hb).modChan _).tied hafter
    · rw [State.loseBreak_of_some hr] at hafter ⊢
      have hne : (s.chan i).state ≠ .network := fun e => by simp [breakRecord_of_breakless (breakless_of_idle hl (.inl e))] at hr
      have ht := ((h.ties_of hb).offer (.cut (s.tagOf i) .cutOut b.cueId .clockLost b.cutStamp 0)).modChan Channel.dropBreak
      refine ((ht.release_of_ne hm ?_).modChan _).tied hafter
      rw [State.modChan_chan_same, Channel.dropBreak_state, State.offer_chan]
      exact hne

theorem Wired.loseClock {s : State} (h : Wired s) (i : Slot) : Wired (s.loseClock i) :=
  ((h.dropClock i).withdrawEntries i _ _).loseBreak i

theorem Wired.judgeSilence {s : State} (h : Wired s) (i : Slot) (t : Time) : Wired (s.judgeSilence i t) := by
  rcases s.judgeSilence_cases i t with e | ⟨e, _⟩ <;> rw [e]
  · exact h
  · exact h.loseClock i

theorem break?_shift_port (j : Time) (r : Record) : (r.shift j).break?.map (·.port) = r.break?.map (·.port) := by cases r <;> rfl

theorem filterMap_break?_shift (j : Time) (l : List Record) :
    ((l.map (Record.shift j)).filterMap Record.break?).head?.map (·.port) = (l.filterMap Record.break?).head?.map (·.port) := by
  induction l with
  | nil => rfl
  | cons r l ih =>
    cases r with
    | alert a => exact ih
    | brk b => rfl

theorem boundPort_shift (c : Channel) (j : Time) : boundPort (c.shiftReturnPoints j) = boundPort c := by
  refine boundPort_congr rfl rfl ?_ (filterMap_break?_shift j c.hold)
  unfold Channel.activeBreak Channel.shiftReturnPoints
  cases c.active with
  | none => rfl
  | some r => exact break?_shift_port j r

theorem Wired.takeStamp {s : State} (h : Wired s) (i : Slot) {k : ClockState} (hk : k ≠ .noClock) (x t : Time) :
    Wired (s.modChan i fun c => c.takeStamp k x t) :=
  (State.Edited.takeStamp s i hk x t).wired h (h.tied.modChan (boundPort_of_same rfl rfl rfl rfl rfl))

theorem Wired.jump {s : State} (h : Wired s) (i : Slot) (x t : Time) : Wired (s.jump i x t) :=
  (s.jump_edited i x t).wired h ((h.withdrawEntries i _ _).tied.modChan (boundPort_shift ..))

theorem Wired.stampArrival {s : State} (h : Wired s) (i : Slot) (x t : Time) (disc : Bool) : Wired (s.stampArrival i x t disc) := by
  simp only [State.stampArrival]
  split
  · exact h.takeStamp i (by simp) x t
  · exact h.takeStamp i (by split <;> simp) x t
  · split
    · exact h.takeStamp i (by simp) x t
    · exact (h.jump i x t).takeStamp i (by simp) x t

theorem alerted_of_heldBreak {c : Channel} (h : ChannelLaw c) {b : BreakRecord} (hb : c.heldBreak = some b) : c.state.Alerted := by
  rcases c.state.cases with hs | hs | hs | hs
  · simp [heldBreak_nil ((channelLaw_idle hs).mp h).2.1] at hb
  · simp [heldBreak_nil ((channelLaw_onBreak hs).mp h).2.1] at hb
  · simp [heldBreak_nil ((channelLaw_returnWait hs).mp h).2.1] at hb
  · exact hs

theorem heldBreak_dropHeldBreak (c : Channel) : c.dropHeldBreak.heldBreak = none := by
  unfold Channel.heldBreak Channel.dropHeldBreak
  rw [List.head?_eq_none_iff, List.filterMap_eq_nil_iff]
  intro r hr
  simpa using (List.mem_filter.mp hr).2

theorem Wired.removeHeldBreak {s : State} (h : Wired s) {i : Slot} {b : BreakRecord} (hb : (s.chan i).heldBreak = some b) :
    Wired (s.removeHeldBreak i b) := by
  refine (s.removeHeldBreak_edited i b).wired h ?_
  have hs := alerted_of_heldBreak (h.law i).records hb
  have hbound : boundPort (s.chan i) = some (b.port, .drain, false) := by
    rw [boundPort_alerted hs, hb]
    rfl
  have hne : ((s.modChan i Channel.dropHeldBreak).chan i).state ≠ .network := by
    rw [State.modChan_chan_same]
    rcases hs with hs | hs <;> simp [Channel.dropHeldBreak, hs]
  refine (((h.ties_of hbound).modChan _).release_of_ne (by simp) hne).tied ?_
  rw [State.releasePort_chan_of_ne hne, State.modChan_chan_same, boundPort_alerted (c := (s.chan i).dropHeldBreak) hs, heldBreak_dropHeldBreak]
  rfl

theorem Wired.judgeStale {s : State} (h : Wired s) (i : Slot) (t : Time) : Wired (s.judgeStale i t) := by
  simp only [State.judgeStale]
  split
  next b hb =>
    split
    · refine (h.offer _).removeHeldBreak ?_
      rw [State.offer_chan]
      exact hb
    · exact h
  next => exact h

theorem Wired.clockStep {s : State} (h : Wired s) (i : Slot) (t : Time) (cell : StreamCell) : Wired (s.clockStep i t cell) := by
  simp only [State.clockStep]
  split
  · exact (((h.judgeSilence i t).stampArrival i _ t _).judgeStale i t)
  · exact (h.judgeSilence i t).judgeStale i t

/-! ## The entries at a slot event (R73 to R75) -/

theorem boundPort_restate (c : Channel) (id : Ident) (st : EntryState) : boundPort (c.restate id st) = boundPort c :=
  boundPort_modEntry (f := fun e => { e with state := st }) (by intro e; exact ⟨rfl, rfl⟩) id

theorem Wired.matureFirst {s : State} (h : Wired s) (i : Slot) (x : Time) : Wired (s.matureFirst i x) := by
  refine (s.matureFirst_edited i x).wired h ?_
  unfold State.matureFirst
  split
  · split
    · exact h.tied.modChan (boundPort_restate ..)
    · exact h.tied
  · exact h.tied

theorem Wired.judgeMiss {s : State} (h : Wired s) (i : Slot) (x : Time) (id : Ident) : Wired (s.judgeMiss i x id) := by
  unfold State.judgeMiss
  split
  next e he =>
    split
    · exact h.missEntry (entry_eq_some he).1 _
    · exact h
  next => exact h

/-- A FREE port has no owner, as no channel binds it. -/
theorem Tied.owner_of_free {s : State} (h : Tied s) {p : PortId} (hp : (s.port p).mode = .free) : (s.port p).owner = none := by
  cases ho : (s.port p).owner with
  | none => rfl
  | some j => exact absurd hp (boundPort_mode _ _ _ _ (h.owner j p ho))

theorem Ties.grant {s : State} {i : Slot} (h : Ties s i none) {p : PortId} (hp : (s.port p).owner = none) :
    Ties (s.modPort p fun q => q.grant i) i (some (p, .reserved, true)) := by
  obtain ⟨g1, g2, g3⟩ := Ties.grant_fields (s.port p) i
  have hb := h.bound.setPort (i := i) (p := p) (q := (s.port p).grant i) (by simp [hp]) (by simp) (.inr g1)
  rw [Function.update_idem, g1, g2, g3] at hb
  exact ⟨hb, h.law⟩

theorem Wired.proceed {s : State} (h : Wired s) (i : Slot) : Wired (s.proceed i) := by
  refine (s.proceed_edited i).wired h ?_
  unfold State.proceed
  split
  next hs =>
    split
    next e he =>
      have hm := List.mem_of_find?_eq_some he
      have hnone := boundPort_network hs.1
      unfold State.reserve
      split
      next hf =>
        refine (((h.ties_of hnone).grant (h.tied.owner_of_free hf)).modChan _).tied ?_
        rw [State.modChan_chan_same]
        exact boundPort_enterCutWait (h.law i).cues hm
      next => exact h.tied.modChan (boundPort_restate ..)
    next => exact h.tied
  next => exact h.tied

theorem Wired.cueStep {s : State} (h : Wired s) (i : Slot) (t : Time) : Wired (s.cueStep i t) := by
  simp only [State.cueStep]
  split
  · exact h
  · exact ((h.matureFirst i _).foldl _ fun _ k id => k.judgeMiss i _ id).proceed i

end Sys2Proof.Machine
end

section
/-!
The output of a slot event and the cue commands keep the ports as the channels bind them (chapter 5).
-/
namespace Sys2Proof.Machine

open Sys2Proof.Safety

@[simp] theorem State.sendFill_chan_active (s : State) (i : Slot) : ((s.sendFill i).chan i).active = (s.chan i).active := by
  simp [State.sendFill, Channel.afterSend]

@[simp] theorem State.drainTruncating_chan_active (s : State) (i : Slot) (p : PortId) :
    ((s.drainTruncating i p).chan i).active = (s.chan i).active := by
  rw [State.drainTruncating, State.modChan_chan_same]
  rfl

/-! ## Cut-in, the break on air, the returns (R77 to R83, R88) -/

theorem Wired.cutIn {s : State} (h : Wired s) {i : Slot} {e : CueEntry} (sp u : Time) (head : StreamCell) (he : e ∈ (s.chan i).cues)
    (hp : (s.chan i).pendingEntry = some e.cueId) (hs : (s.chan i).state = .cutWait) : Wired (s.cutIn i e sp u head) := by
  refine (s.cutIn_edited i sp u head he hp hs).wired h ?_
  refine Tied.offer ?_ _
  refine ((((h.ties_of (boundPort_cutWait (h.law i).cues he hp)).goLiveAtCut).modChan _).send _).tied ?_
  rw [State.send_chan_same, State.modChan_chan_same]
  exact boundPort_onBreak (b := e.toBreak u head.time) rfl rfl

theorem Wired.outputCutWait {s : State} (h : Wired s) {i : Slot} (cell : StreamCell) (hs : (s.chan i).state = .cutWait) :
    Wired (s.outputCutWait i cell) := by
  unfold State.outputCutWait
  split
  · exact h.send i cell
  next e he =>
    obtain ⟨hm, hp⟩ := cutWaitEntry_spec he
    split
    · exact h.send i cell
    split
    · exact h.send i cell
    split
    · exact (h.missEntry hm _).send i cell
    split
    · exact h.send i cell
    split
    · exact h.cutIn _ _ _ hm hp hs
    · exact h.send i cell

theorem Wired.returnCut {s : State} (h : Wired s) {i : Slot} {b : BreakRecord} (cell : StreamCell) (hs : (s.chan i).state.OnAir)
    (hb : (s.chan i).active = some (.brk b)) : Wired (s.returnCut i b cell) := by
  refine (s.returnCut_edited i b cell hs).wired h ?_
  obtain ⟨k, hk⟩ := boundPort_onAir hs hb
  have hne : (((s.modChan i Channel.markCut).send i cell).chan i).state ≠ .network := by
    rw [State.send_chan_same, State.modChan_chan_same]
    exact hs.ne_network
  refine Tied.offer ((((((h.ties_of hk).modChan Channel.markCut).send cell).release_of_ne (by simp) hne).modChan _).tied ?_) _
  rw [State.modChan_chan_same]
  exact boundPort_network rfl

theorem Wired.truncate {s : State} (h : Wired s) {i : Slot} {b : BreakRecord} (hs : (s.chan i).state.OnAir)
    (hb : (s.chan i).active = some (.brk b)) : Wired (s.truncate i b) := by
  refine (s.truncate_edited i b hs).wired h ?_
  obtain ⟨k, hk⟩ := boundPort_onAir hs hb
  refine ((h.ties_of hk).sendFill.drainTruncating.modChan _).tied ?_
  rw [State.modChan_chan_same]
  exact boundPort_returnWait rfl (by simp [Channel.enterReturnWait, hb])

theorem Wired.endMark {s : State} (h : Wired s) {i : Slot} {b : BreakRecord} (hs : (s.chan i).state.OnAir)
    (hb : (s.chan i).active = some (.brk b)) : Wired (s.endMark i b) := by
  refine (s.endMark_edited i b hs).wired h ?_
  obtain ⟨k, hk⟩ := boundPort_onAir hs hb
  simp only [State.endMark]
  refine ((h.ties_of hk).take.sendFill.drainTruncating.modChan _).tied ?_
  rw [State.modChan_chan_same]
  exact boundPort_returnWait rfl (by simp [Channel.enterReturnWait, hb])

/-- The owner of a port takes its head cell and sends a cell (R11). -/
theorem Wired.takeAndSend {s : State} (h : Wired s) {i : Slot} {p : PortId} {m : PortMode} {k : Bool}
    (hb : boundPort (s.chan i) = some (p, m, k)) (c : StreamCell) : Wired ((s.modPort p InsertPort.take).send i c) :=
  Wired.send ((State.Edited.modPort s p _).wired h ((h.ties_of hb).take.tied hb)) i c

theorem Wired.outputBreak {s : State} (h : Wired s) {i : Slot} (cell : StreamCell) (hs : (s.chan i).state.OnAir) :
    Wired (s.outputBreak i cell) := by
  unfold State.outputBreak
  split
  · exact h.sendFill i
  next b hb =>
    have hb := activeBreak_eq_some.mp hb
    obtain ⟨k, hk⟩ := boundPort_onAir hs hb
    split
    · exact h.returnCut cell hs hb
    split
    · exact (h.count (f := fun c => { c with underrunCount := countUp c.underrunCount })
        fun _ => ⟨rfl, rfl, rfl, rfl, rfl, rfl, rfl, rfl, rfl, rfl, id⟩).sendFill i
    split
    · exact h.endMark hs hb
    split
    · exact h.truncate hs hb
    · exact h.takeAndSend hk _

theorem State.raiseDue_port (s : State) (i : Slot) (b : BreakRecord) (due : Option ReturnReport) (p : PortId) :
    (s.raiseDue i b due).port p = s.port p := by
  unfold State.raiseDue
  split
  · exact State.offer_port ..
  · rfl

theorem Wired.returnFromWait {s : State} (h : Wired s) {i : Slot} (cell : StreamCell) (hs : (s.chan i).state = .returnWait) :
    Wired (s.returnFromWait i cell) := by
  refine (s.returnFromWait_edited i cell hs).wired h ?_
  have hsent : ((s.modChan i Channel.markCut).send i cell).chan i = (s.chan i).markCut.afterSend := by
    rw [State.send_chan_same, State.modChan_chan_same]
  have hties := ((h.ties i).modChan Channel.markCut).send cell
  simp only [State.returnFromWait]
  generalize (s.modChan i Channel.markCut).send i cell = u at hsent hties
  have hstate : (u.chan i).state ≠ .network := by
    rw [hsent]
    simp [Channel.markCut, Channel.afterSend, hs]
  split
  next b hb =>
    rw [boundPort_returnWait hs (activeBreak_eq_some.mp hb)] at hties
    have hfree := (hties.release_of_ne (by simp) hstate).modChan fun c => { c with active := none }
    refine ((hfree.of_same (State.raiseDue_port _ i b _) fun j _ => State.raiseDue_chan_eq ..).modChan _).tied ?_
    rw [State.modChan_chan_same]
    exact boundPort_network rfl
  next hb =>
    have hnone : boundPort (s.chan i) = none := by
      unfold boundPort
      rw [hs, hb]
      rfl
    rw [hnone] at hties
    refine (hties.modChan _).tied ?_
    rw [State.modChan_chan_same]
    exact boundPort_network rfl

theorem Wired.rejoinCut {s : State} (h : Wired s) {i : Slot} {b : BreakRecord} (head : StreamCell) (hs : (s.chan i).state = .rejoinWait)
    (hb : (s.chan i).active = some (.brk b)) : Wired (s.rejoinCut i b head) := by
  refine (s.rejoinCut_edited i b head hs).wired h (Tied.offer ?_ _)
  refine (((h.ties_of (boundPort_rejoinWait hs hb)).takeAtCut.modChan _).send _).tied ?_
  rw [State.send_chan_same, State.modChan_chan_same]
  exact boundPort_onBreak rfl hb

theorem Wired.outputRejoinWait {s : State} (h : Wired s) {i : Slot} (cell : StreamCell) (hs : (s.chan i).state = .rejoinWait) :
    Wired (s.outputRejoinWait i cell) := by
  unfold State.outputRejoinWait
  split
  · exact h.sendFill i
  next b hb =>
    have hb := activeBreak_eq_some.mp hb
    split
    · exact h.returnCut cell (.inr hs) hb
    split
    · exact h.sendFill i
    split
    · split
      · exact h.truncate (.inr hs) hb
      · exact h.rejoinCut _ hs hb
    · exact h.sendFill i

/-! ## The limits and the alert on air (R89, R102 to R104) -/

theorem Wired.judgeRejoinLimit {s : State} (h : Wired s) (i : Slot) (t : Time) : Wired (s.judgeRejoinLimit i t) := by
  simp only [State.judgeRejoinLimit]
  split
  next b hb =>
    split
    next hs =>
      have hb := activeBreak_eq_some.mp hb
      refine (s.rejoinLimitEnd_edited i b hs.1).wired h ?_
      refine ((((h.ties_of (boundPort_rejoinWait hs.1 hb)).offer _).drainPort).modChan _).tied ?_
      rw [State.modChan_chan_same]
      refine boundPort_returnWait rfl ?_
      exact (congrArg Channel.active (State.raiseBreak_chan ..)).trans hb
    next => exact h
  next => exact h

theorem Wired.judgeStarvation {s : State} (h : Wired s) (i : Slot) (t : Time) : Wired (s.judgeStarvation i t) := by
  refine (s.judgeStarvation_edited i t).wired h ?_
  unfold State.judgeStarvation
  split
  · exact h.tied.modChan (boundPort_of_same rfl rfl rfl rfl rfl)
  · exact h.tied

theorem Wired.outputWaiting {s : State} (h : Wired s) (i : Slot) (cell : StreamCell) : Wired (s.outputWaiting i cell) := by
  unfold State.outputWaiting
  split
  · exact h.send i cell
  · exact h.sendFill i

theorem Wired.outputAlertWait {s : State} (h : Wired s) {i : Slot} (cell : StreamCell) (hs : (s.chan i).state = .alertWait) :
    Wired (s.outputAlertWait i cell) := by
  refine (s.outputAlertWait_edited i cell hs).wired h ?_
  simp only [State.outputAlertWait]
  split
  next a reader ha hr =>
    split
    next x hx =>
      refine (((h.ties_of (boundPort_alerted (.inl hs))).modChan _).send _).tied ?_
      rw [State.send_chan_same, State.modChan_chan_same]
      exact boundPort_alerted (.inr rfl)
    next => exact (h.outputWaiting i cell).tied
  next => exact (h.outputWaiting i cell).tied

theorem Wired.outputAlert {s : State} (h : Wired s) {i : Slot} (hs : (s.chan i).state = .alert) : Wired (s.outputAlert i) := by
  refine (s.outputAlert_edited i hs).wired h ?_
  simp only [State.outputAlert]
  split
  · split
    · refine (((h.ties i).modChan _).send _).tied ?_
      rw [State.send_chan_same, State.modChan_chan_same]
      exact boundPort_of_same rfl rfl rfl rfl rfl
    · exact (h.sendFill i).tied
  · exact (h.sendFill i).tied

theorem Wired.output {s : State} (h : Wired s) (i : Slot) (cell : StreamCell) : Wired (s.output i cell) := by
  unfold State.output
  split
  · exact h.send i cell
  next hs => exact h.outputCutWait cell hs
  next hs => exact h.outputBreak cell (.inl hs)
  next hs =>
    unfold State.outputReturnWait
    split
    · exact h.returnFromWait cell hs
    · exact h.sendFill i
  next hs => exact h.outputRejoinWait cell hs
  next hs => exact h.outputAlertWait cell hs
  next hs => exact h.outputAlert hs

theorem Wired.slotEvent {s : State} (h : Wired s) (i : Slot) (t : Time) (cell : StreamCell) : Wired (s.slotEvent i t cell) :=
  ((((h.clockStep i t cell).judgeRejoinLimit i t).judgeStarvation i t).cueStep i t).output i cell

/-! ## The cue commands (R70, R71, R84 to R86) -/

theorem breakRecord_cases {c : Channel} {b : BreakRecord} (h : c.breakRecord = some b) :
    c.activeBreak = some b ∨ (c.activeBreak = none ∧ c.heldBreak = some b) := by
  cases ha : c.activeBreak with
  | none => exact .inr ⟨rfl, breakRecord_of_held ha ▸ h⟩
  | some x => exact .inl ((breakRecord_of_active ha).symm.trans h)

theorem Wired.cancelBreak {s : State} (h : Wired s) {i : Slot} {b : BreakRecord} (hb : (s.chan i).breakRecord = some b) :
    Wired (s.cancelBreak i b) := by
  refine (s.cancelBreak_edited i b).wired h ?_
  unfold State.cancelBreak
  rcases breakRecord_cases hb with hb | ⟨ha, hb⟩
  · rw [if_pos (by simp [hb])]
    have hb := activeBreak_eq_some.mp hb
    simp only [State.cancelActive]
    split
    next hs =>
      refine ((h.ties_of (boundPort_onBreak hs hb)).drainTruncating.modChan _).tied ?_
      rw [State.modChan_chan_same]
      exact boundPort_returnWait rfl (by simp [Channel.enterReturnWait, hb])
    next hs =>
      refine ((h.ties_of (boundPort_rejoinWait hs hb)).drainPort.modChan _).tied ?_
      rw [State.modChan_chan_same]
      exact boundPort_returnWait rfl hb
    next hs => exact h.tied.modChan (boundPort_of_same hs.symm rfl rfl rfl rfl)
    all_goals exact h.tied
  · rw [if_neg (by simp [ha])]
    exact (h.removeHeldBreak hb).tied.offer _

theorem Wired.reactToCut {s : State} (h : Wired s) {i : Slot} (kind : Option CutKind) (x : Time) {e : CueEntry}
    (he : e ∈ (s.chan i).cues) (hw : ∃ since wait, e.state = .waitPeer since wait) : Wired (s.reactToCut i kind x e) := by
  have hedit := s.reactToCut_edited i kind x he hw
  refine hedit.wired h ?_
  obtain ⟨since, wait, hw⟩ := hw
  unfold State.reactToCut at hedit ⊢
  split at hedit
  · simp only [State.peerCutIn] at hedit ⊢
    split at hedit
    next hj =>
      refine h.tied.modChan (boundPort_putEntry (h.law i).cues ?_ (mt ((h.law i).cues.cutWait_iff e he).mpr (by simp [hw])))
      have := (hedit.lawful h.law i).cues
      rwa [State.modChan_chan_same] at this
    next hj =>
      exact (h.leaveEntry he _ _).tied
  all_goals first | exact (h.leaveEntry he _ _).tied | exact h.tied

theorem Wired.matchCut {s : State} (h : Wired s) (src : Byte) (id : Ident) (kind : Option CutKind) (x : Time) :
    Wired (s.matchCut src id kind x) := by
  refine h.foldl _ fun s h i => h.foldl _ fun s h own => ?_
  unfold State.reactById
  split
  next e he =>
    obtain ⟨he, ha⟩ := Option.filter_eq_some_iff.mp he
    exact h.reactToCut kind x (entry_eq_some he).1 (awaits_spec ha)
  next => exact h

theorem CueAdmitted.wired {s : State} {f : CueFields} (ha : CueAdmitted s f) (h : Wired s) (t : Time) :
    Wired (s.modChan f.slot fun c => c.putEntry (f.toEntry t)) := by
  have hput := ha.lawful (h.law f.slot) t
  have hin := (inProgress_eq_false (h.law f.slot).cues ha.inProgress).1
  refine ⟨h.tied.modChan (boundPort_putEntry (h.law f.slot).cues hput.cues ?_), fun j => ?_⟩
  · exact hin
  · rw [State.modChan_chan]
    split
    next k => exact k ▸ hput
    next => exact h.law j

/-! ## Rights (R113 to R117) -/

theorem Wired.giveRights {s : State} (h : Wired s) (asked : Rights) (i : Slot)
    (hb : asked = .guarded → (s.chan i).Breakless) : Wired (s.giveRights asked i) := by
  refine (s.giveRights_edited asked i hb).wired h ?_
  unfold State.giveRights
  refine Tied.modChan ?_ (boundPort_of_same rfl rfl rfl rfl rfl)
  split
  · exact h.tied
  · exact (h.withdrawEntries i _ _).tied

theorem Wired.applyRights {s : State} (h : Wired s) {m : ChanMask} {asked : Rights} (hj : s.judgeRights m (some asked) = .accepted) :
    Wired (s.applyRights m asked) := by
  refine ⟨?_, (State.applyRights_edited hj).lawful h.law⟩
  obtain ⟨_, _, hlive⟩ := judgeRights_accepted hj
  have hstart (k : asked = .guarded) (i : Slot) (hi : i ∈ maskSlots m) : (s.chan i).Breakless := by
    have := List.any_eq_false.mp (hlive k) i hi
    simp only [Channel.breakLive, Bool.or_eq_true, not_or, Option.not_isSome_iff_eq_none] at this
    exact breakless_of_breakRecord this.1
  have hall := foldl_keeps (P := fun u => Wired u ∧ (asked = .guarded → ∀ i ∈ maskSlots m, (u.chan i).Breakless)) (maskSlots m)
    (f := fun s i => s.giveRights asked i) ⟨h, hstart⟩ fun u hu i hi => ?_
  · exact hall.1.tied
  · refine ⟨hu.1.giveRights asked i fun k => hu.2 k i hi, fun k j hj => ?_⟩
    unfold Channel.Breakless
    rw [State.giveRights_records]
    exact hu.2 k j hj

end Sys2Proof.Machine
end

section
/-!
The operations of the alert unit keep the ports as the channels bind them (chapter 6); and every step keeps the laws of the ports
(sections 1.3, 1.5, 3.2).
-/
namespace Sys2Proof.Machine

open Sys2Proof.Safety

theorem State.Changed.wired {s u : State} (e : s.Changed u) (h : Wired s) (t : Tied u) : Wired u :=
  ⟨t, fun j => (lawful_keptByEdits s.ring).changes (e.chan j) (h.law j)⟩

/-! ## The hold stack (R37, R38) -/

/-- The port that the held break of a channel binds, as it does in the alert states. -/
def heldPort (c : Channel) : Option Binding := c.heldBreak.map fun b => (b.port, .drain, false)

theorem heldPort_nil {c : Channel} (h : c.hold = []) : heldPort c = none := by
  unfold heldPort
  rw [heldBreak_nil h]
  rfl

theorem filterMap_break?_insert (s : State) (a : AlertRef) (l : List Record) :
    (s.insertRecord (.alert a) l).filterMap Record.break? = l.filterMap Record.break? := by
  induction l with
  | nil => rfl
  | cons x rest ih =>
    unfold State.insertRecord
    split
    · simp only [List.filterMap_cons, ih]
    · rfl

theorem heldPort_congr {c c' : Channel} (h : c'.hold.filterMap Record.break? = c.hold.filterMap Record.break?) : heldPort c' = heldPort c := by
  unfold heldPort Channel.heldBreak
  rw [h]

/-- A reference is placed on the hold stack of a channel: the port of a break that is shed is released (R37, R38). -/
theorem Ties.placeAlert {s : State} {i : Slot} (h : Ties s i (heldPort (s.chan i))) (hs : (s.chan i).state ≠ .network)
    (hl : HeldLaw (s.chan i).hold) (a : AlertRef) :
    Ties (s.place i (.alert a)).2 i (heldPort ((s.place i (.alert a)).2.chan i)) := by
  have hset (l : List Record) : (s.setHold i l).chan i = { s.chan i with hold := l } := State.modChan_chan_same ..
  unfold State.place
  split
  · rw [hset, heldPort_congr (c := s.chan i) (filterMap_break?_insert s a _)]
    exact h.modChan fun c => { c with hold := s.insertRecord (.alert a) (s.chan i).hold }
  split
  next bottom rest hh =>
    split
    · rw [State.shed_chan_of_ne (by rw [hset]; exact hs), hset]
      have hrest : (s.insertRecord (.alert a) rest).filterMap Record.break? = rest.filterMap Record.break? := filterMap_break?_insert s a rest
      cases bottom with
      | alert x =>
        rw [heldPort_congr (c := s.chan i) (by rw [hh]; exact hrest)]
        exact (h.modChan fun c => { c with hold := s.insertRecord (.alert a) rest }).of_same (u := (s.setHold i _).leaveSet i x.alertId)
          (fun _ => rfl) fun _ _ => rfl
      | brk b =>
        have hnone : rest.filterMap Record.break? = [] := List.filterMap_eq_nil_iff.mpr (by simpa [hh] using hl.2.1)
        have hb : heldPort (s.chan i) = some (b.port, .drain, false) := by
          unfold heldPort Channel.heldBreak
          rw [hh]
          rfl
        have hb' : heldPort { s.chan i with hold := s.insertRecord (.alert a) rest } = none := by
          unfold heldPort Channel.heldBreak
          dsimp only
          rw [hrest, hnone]
          rfl
        rw [hb] at h
        rw [hb']
        refine ((h.modChan _).offer _).release_of_ne (by simp) ?_
        rw [State.offer_chan, State.modChan_chan_same]
        exact hs
    · exact h
  next => exact h

/-! ## Pre-emption (R100, R101) -/

/-- What a pre-emption sets aside leaves the channel the port of its held break (R100). -/
theorem Wired.setAside {s : State} (h : Wired s) (i : Slot) : Ties (s.setAside i) i (heldPort ((s.setAside i).chan i)) := by
  have hl := (h.law i).records
  rcases (s.chan i).state.cases with (hs | hs) | hs | hs | hs
  · obtain ⟨_, hh, _⟩ := (channelLaw_idle (.inl hs)).mp hl
    have e : s.setAside i = s := by simp [State.setAside, hs]
    rw [e, heldPort_nil hh]
    exact h.ties_of (boundPort_network hs)
  · obtain ⟨_, hh, _⟩ := (channelLaw_idle (.inr hs)).mp hl
    cases he : (s.chan i).cutWaitEntry with
    | none =>
      have e : s.setAside i = s := by simp [State.setAside, hs, he]
      rw [e, heldPort_nil hh]
      refine h.ties_of ?_
      unfold boundPort
      rw [hs, he]
      rfl
    | some x =>
      rw [State.setAside_cutWait hs he]
      obtain ⟨hm, hp⟩ := cutWaitEntry_spec he
      have hchan : (s.missEntry i .preempted x).chan i =
          { (s.chan i).without [x.cueId] with missCount := countUp ((s.chan i).without [x.cueId]).missCount } := by
        rw [State.missEntry, State.modChan_chan_same, State.leaveEntry_chan (h.law i).cues hm]
      have hnet : ((s.missEntry i .preempted x).chan i).state = .network := by
        rw [hchan]
        simp [Channel.without, hp]
      have hw := h.missEntry hm .preempted
      rw [heldPort_nil ((channelLaw_idle (.inl hnet)).mp (hw.law i).records).2.1]
      exact hw.ties_of (boundPort_network hnet)
  · obtain ⟨⟨b, hb⟩, hh, _⟩ := (channelLaw_onBreak hs).mp hl
    obtain ⟨k, hk⟩ := boundPort_onAir hs hb
    have hu : ((s.modChan i fun c => { c with active := none }).chan i).hold = [] := by rw [State.modChan_chan_same]; exact hh
    rw [State.setAside_onAir hs hb, State.holdBreak_chan, place_brk_of_nil hu, State.setHold, State.modChan_chan_same]
    unfold State.holdBreak
    dsimp only
    rw [place_brk_of_nil hu]
    exact ((((h.ties_of hk).modChan _).modChan _).drainPort).offer _
  · obtain ⟨ha, hh, _⟩ := (channelLaw_returnWait hs).mp hl
    rcases ha with ha | ⟨b, hb⟩
    · have e : s.setAside i = s := by simp [State.setAside, hs, activeBreak_of_not_brk (c := s.chan i) (by simp [ha])]
      rw [e, heldPort_nil hh]
      exact h.ties_of (boundPort_returnWait_none hs ha)
    · rw [State.setAside_returnWait hs hb, heldPort_nil (by rw [State.preemptReturnWait_chan hs]; exact hh)]
      have ht := h.ties_of (boundPort_returnWait hs hb)
      have hne : (s.chan i).state ≠ .network := by simp [hs]
      simp only [State.preemptReturnWait]
      split
      · exact ((ht.offer _).release_of_ne (by simp) (by rw [State.offer_chan]; exact hne)).modChan _
      · exact (ht.release_of_ne (by simp) hne).modChan _
  · obtain ⟨⟨x, hx, _⟩, hheld, _⟩ := (channelLaw_alerted hs).mp hl
    rw [State.setAside_alerted hs hx, State.setAlertAside]
    refine Ties.placeAlert (Ties.modChan ?_ _) ?_ ?_ _ <;> rw [State.modChan_chan_same]
    · exact h.ties_of (boundPort_alerted hs)
    · rcases hs with hs | hs <;> simp [hs]
    · exact hheld

theorem Wired.offerAlert {s : State} (h : Wired s) {a : AlertRef} (ha : a.Ranked) (ho : a.offset = none) (i : Slot) :
    Wired (s.offerAlert a i) := by
  refine (s.offerAlert_changed ha ho i).wired h ?_
  have joined {u : State} (k : Tied u) : Tied (u.joinSet i a.alertId) := k.of_same (fun _ => ⟨rfl, rfl, rfl⟩) fun _ => rfl
  unfold State.offerAlert
  split
  · refine joined (((h.setAside i).modChan fun c => c.enterAlertWait a (s.setAside i).ring.newReader (s.setAside i).timer).tied ?_)
    rw [State.modChan_chan_same]
    exact boundPort_alerted (.inl rfl)
  next hrank =>
    obtain ⟨x, hx⟩ := active_of_not_outranks ha.1 (by simpa using hrank)
    have hl := (h.law i).records
    have hs := alerted_of_active hl hx
    have hne : (s.chan i).state ≠ .network := by rcases hs with hs | hs <;> simp [hs]
    have ht := (h.ties_of (boundPort_alerted hs)).placeAlert hne ((channelLaw_alerted hs).mp hl).2.1 a
    have hstate : ((s.place i (.alert a)).2.chan i).state = (s.chan i).state := by
      rcases State.place_alert_cases hne a with ⟨_, _, _, _, _, hc, _⟩ | ⟨_, hc, _⟩ <;> rw [hc]
    have htied := ht.tied (boundPort_alerted (hstate ▸ hs))
    dsimp only
    split
    · exact joined htied
    · exact htied

/-! ## Release (R40, R41, R106) -/

theorem filterMap_break?_dropLast {l : List Record} {a : AlertRef} (h : l.getLast? = some (.alert a)) :
    l.dropLast.filterMap Record.break? = l.filterMap Record.break? := by
  conv_rhs => rw [← List.dropLast_append_getLast? (l := l) (.alert a) h]
  simp [Record.break?]

theorem Wired.releaseChannel {s : State} (h : Wired s) {i : Slot} {x : AlertRef} (hx : (s.chan i).active = some (.alert x)) :
    Wired (s.releaseChannel i) := by
  refine (State.releaseChannel_changed hx).wired h ?_
  have hl := (h.law i).records
  have hs := alerted_of_active hl hx
  have hheld := ((channelLaw_alerted hs).mp hl).2.1
  have ht := (h.ties_of (boundPort_alerted hs)).modChan Channel.dropActiveAlert
  have hu : (s.modChan i Channel.dropActiveAlert).chan i = (s.chan i).dropActiveAlert := State.modChan_chan_same ..
  simp only [State.releaseChannel]
  generalize s.modChan i Channel.dropActiveAlert = u at ht hu
  split
  next hh =>
    have hnil := List.getLast?_eq_none_iff.mp hh
    rw [show (s.chan i).heldBreak = none from heldBreak_nil hnil] at ht
    refine (ht.modChan _).tied ?_
    rw [State.modChan_chan_same, hu]
    exact boundPort_returnWait_none rfl rfl
  next a hh =>
    refine (ht.modChan _).tied ?_
    rw [State.modChan_chan_same, hu]
    refine (boundPort_alerted (.inl rfl)).trans ?_
    exact heldPort_congr (c := s.chan i) (filterMap_break?_dropLast hh)
  next b hh =>
    have hb : (s.chan i).heldBreak = some b := by
      unfold Channel.heldBreak
      rw [hheld.eq_singleton hh]
      rfl
    rw [hb, Option.map_some] at ht
    simp only [State.evaluateRejoin]
    split
    · refine (ht.goLiveFromDrain.modChan _).tied ?_
      rw [State.modChan_chan_same]
      exact boundPort_rejoinWait (b := b) rfl rfl
    · refine (((ht.offer _).release_of_ne (by simp) ?_).modChan _).tied ?_
      · rw [State.offer_chan, hu]
        rcases hs with hs | hs <;> simp [Channel.dropActiveAlert, hs]
      · rw [State.modChan_chan_same]
        exact boundPort_returnWait_none rfl rfl

theorem Wired.giveUp {s : State} (h : Wired s) (id : Ident) (i : Slot) : Wired (s.giveUp id i) := by
  refine (s.giveUp_changed id i).wired h ?_
  unfold State.giveUp
  split
  next hr =>
    obtain ⟨x, hx, _⟩ := active_of_refersTo hr
    exact (h.releaseChannel hx).tied
  next =>
    refine h.tied.modChan (boundPort_congr rfl rfl rfl ?_)
    unfold Channel.heldBreak Channel.dropHeldAlert
    rw [List.filterMap_filter]
    refine congrArg (fun l => Option.map _ (List.head? l)) (List.filterMap_congr fun r _ => ?_)
    cases r <;> simp [Record.break?, Record.refersTo]

theorem Wired.endAlert {s : State} (h : Wired s) (r : AlertRecord) (reason : AlertReason) : Wired (s.endAlert r reason) := by
  unfold State.endAlert
  have hall := h.foldl (f := fun s i => s.giveUp r.alertId i) (Config.slots.filter fun i => inMask r.channelSet i)
    fun s k i => k.giveUp r.alertId i
  dsimp only
  generalize List.foldl _ s _ = u at hall
  exact Wired.offer (s := u.dropAlert r.alertId) ⟨hall.tied.of_same (fun _ => ⟨rfl, rfl, rfl⟩) fun _ => rfl, hall.law⟩ _

/-! ## The operations of the blocks -/

theorem State.SameBlocks.wired {s u : State} (e : s.SameBlocks u) (h : Wired s) : Wired u :=
  ⟨h.tied.of_same (fun p => by rw [e.port]; exact ⟨rfl, rfl, rfl⟩) fun j => by rw [e.chan], fun j => e.chan j ▸ h.law j⟩

theorem Wired.overrideAlert {s : State} (h : Wired s) {f : AlertOnFields} (hf : f.intact = true) (source : Byte) (w : RegionWindow) :
    Wired (s.overrideAlert f source w) := by
  have hadd : Wired (s.addAlert (f.toRecord .override source s.timer)) := ⟨h.tied.of_same (fun _ => ⟨rfl, rfl, rfl⟩) fun _ => rfl, h.law⟩
  have hall := hadd.foldl (f := fun s i => s.offerAlert { alertId := f.alertId, level := f.level, offset := none } i)
    (Config.slots.filter fun i => inMask w.channelSet i)
    fun s k i => k.offerAlert (a := { alertId := f.alertId, level := f.level, offset := none }) (AlertOnFields.level_ranked hf) rfl i
  exact (State.answerNumber_lineOnly _ _ _).sameBlocks.wired (hall.offer _)

theorem InsertPort.arrive_fields (q : InsertPort) (c : StreamCell) :
    (q.arrive c).owner = q.owner ∧ (q.arrive c).mode = q.mode ∧ (q.arrive c).seeking = q.seeking := by
  unfold InsertPort.arrive InsertPort.inspect InsertPort.setQueue
  repeat' split
  all_goals exact ⟨rfl, rfl, rfl⟩

theorem findBreak_spec {s : State} {id : Ident} {i : Slot} {b : BreakRecord} (h : s.findBreak id = some (i, b)) :
    (s.chan i).breakRecord = some b := by
  obtain ⟨j, _, hj⟩ := List.exists_of_findSome?_eq_some h
  obtain ⟨x, hx, hk⟩ := Option.map_eq_some_iff.mp hj
  obtain ⟨rfl, rfl⟩ := Prod.mk.inj hk
  exact (Option.filter_eq_some_iff.mp hx).1

theorem BlockOp.wired {u v : State} (ho : BlockOp u v) (h : Wired u) : Wired v := by
  have same {v : State} (hp : ∀ p, v.port p = u.port p) (hc : ∀ j, v.chan j = u.chan j) : Wired v :=
    ⟨h.tied.of_same (fun p => by rw [hp]; exact ⟨rfl, rfl, rfl⟩) fun j => by rw [hc], fun j => hc j ▸ h.law j⟩
  cases ho with
  | slotEvent i t cell hg =>
    exact Wired.slotEvent (h.count (f := fun c => { c with gateOpen := true })
      fun _ => ⟨rfl, rfl, rfl, rfl, rfl, rfl, rfl, rfl, rfl, rfl, id⟩) i t cell
  | silence i t => exact h.judgeSilence i t
  | rejoinLimit i t => exact h.judgeRejoinLimit i t
  | starvation i t => exact h.judgeStarvation i t
  | insertCell p cell =>
    refine (State.Edited.modPort u p _).wired h (h.tied.of_same (fun r => ?_) fun _ => rfl)
    rw [State.modPort_port]
    split
    next e => exact e ▸ InsertPort.arrive_fields _ cell
    next => exact ⟨rfl, rfl, rfl⟩
  | ringCount => exact same (fun _ => rfl) fun _ => rfl
  | ringCell cell =>
    refine ⟨h.tied.of_same (fun _ => ⟨rfl, rfl, rfl⟩) fun j => ?_, fun j => writeRing_lawful (h.law j) cell⟩
    obtain ⟨r, n, d, e, _⟩ := (u.chan j).afterRingWrite_fields (u.ring.write cell) u.ring.writer cell
    rw [State.writeRing_chan, e]
    exact boundPort_of_same rfl rfl rfl rfl rfl
  | cue f ha => exact (judgeCue_admits ha).wired h _
  | withdrawCue i e id he r => exact h.leaveEntry (entry_eq_some (findEntry_spec he)).1 _ r
  | cancelBreak i b id hb => exact h.cancelBreak (findBreak_spec hb)
  | refresh f src r hr => exact same (fun _ => rfl) fun _ => rfl
  | observe f src hf hn hl => exact same (fun _ => rfl) fun _ => rfl
  | override f src w hf hn hl => exact h.overrideAlert hf src w
  | endAlert r id hr reason => exact h.endAlert r reason
  | rights m asked hj => exact h.applyRights hj
  | fix m =>
    exact h.foldl (f := fun s i => s.modChan i fun c => { c with fixed := true }) _
      fun s k i => k.count fun _ => ⟨rfl, rfl, rfl, rfl, rfl, rfl, rfl, rfl, rfl, rfl, id⟩
  | latches m =>
    exact h.foldl (f := fun s i => s.modChan i fun c => { c with activity := false }) _
      fun s k i => k.count fun _ => ⟨rfl, rfl, rfl, rfl, rfl, rfl, rfl, rfl, rfl, rfl, id⟩
  | matchCut src id kind x => exact h.matchCut src id kind x

end Sys2Proof.Machine
end

section
/-!
Every step keeps the laws of the insert ports, of HOLD and of the binding of ports to channels (sections 1.3, 1.5, 3.2).
-/
namespace Sys2Proof.Machine

open Sys2Proof.Safety

/-! ## The ports and HOLD (R5 to R7) -/

/-- The law of one port and of its HOLD. -/
structure PortOk (q : InsertPort) : Prop where
  law  : PortLaw q
  hold : HoldPinLaw q

theorem portOk_reset : PortOk InsertPort.reset := by
  constructor
  · simp [PortLaw, InsertPort.reset]
  · simp [HoldPinLaw, InsertPort.reset]

/-- The port and its queue stand but for its counts. -/
theorem PortOk.of_counts {q q' : InsertPort} (h : PortOk q) (ho : q'.owner = q.owner) (hm : q'.mode = q.mode) (hs : q'.seeking = q.seeking)
    (hq : q'.queue = q.queue) (hh : q'.hold = q.hold) : PortOk q' := by
  obtain ⟨h1, h2⟩ := h
  constructor
  · unfold PortLaw at *
    rw [ho, hm, hs, hq]
    exact h1
  · unfold HoldPinLaw at *
    rw [hq, hh]
    exact h2

/-- A port that accepts a cell has room for it, is not in DRAIN, and keeps a head that it has (R5, R7). -/
theorem PortOk.accept {q : InsertPort} (h : PortOk q) (hm : q.mode ≠ .drain) (hl : q.queue.length < 48) (c : StreamCell) :
    PortOk (if q.seeking && q.queue.isEmpty then (q.setQueue [c]).inspect else q.setQueue (q.queue ++ [c])) := by
  obtain ⟨⟨h1, h2, h3, h4, h5⟩, h6⟩ := h
  split
  next hs =>
    simp only [Bool.and_eq_true] at hs
    rcases (q.setQueue [c]).inspect_spec with ⟨k, _⟩ | ⟨_, e1, e2, e3, e4, _⟩
    · exact absurd hs.1 (by simpa [InsertPort.setQueue] using k)
    · refine ⟨⟨by rw [e2, e3]; exact h1, ?_, fun k => absurd (e2.symm.trans k) hm, fun _ => by rw [e2]; exact h4 hs.1, fun _ => ?_⟩,
        InsertPort.inspect_holdPin (q.setQueue_holdPin _)⟩
      · rw [e1]
        exact (seekHead_length _).trans (by simp [InsertPort.setQueue])
      · rw [e1]
        exact seekHead_head _
  next hs =>
    refine ⟨⟨h1, ?_, fun k => absurd k hm, h4, fun k => ?_⟩, q.setQueue_holdPin _⟩
    · rw [InsertPort.setQueue_queue, List.length_append]
      simpa using hl
    · have hs : q.queue ≠ [] := fun e => hs (by simp [e, show q.seeking = true from k])
      rw [InsertPort.setQueue_queue, List.head?_append_of_ne_nil _ hs]
      exact h5 k

theorem PortOk.arrive {q : InsertPort} (h : PortOk q) (c : StreamCell) : PortOk (q.arrive c) := by
  unfold InsertPort.arrive
  split
  · exact h.of_counts rfl rfl rfl rfl rfl
  split
  · exact h.of_counts rfl rfl rfl rfl rfl
  all_goals
    rename_i hm
    split
    next hl => exact h.accept (by simp [hm]) hl c
    next => exact h.of_counts rfl rfl rfl rfl rfl

theorem Moves.portOk {s s' : State} (m : Moves s s') (h : ∀ p, PortOk (s.port p)) (p : PortId) : PortOk (s'.port p) := by
  induction m with
  | start => exact h p
  | chan _ i f _ ih => exact ih
  | @port u _ r f hf ih =>
    rw [State.modPort_port]
    split
    next e =>
      subst e
      exact ⟨(hf _).keeps_law ih.law, (hf _).keeps_holdPin ih.hold⟩
    next => exact ih
  | offer _ r ih => exact (State.offer_port ..).symm ▸ ih
  | table _ a ih => exact ih
  | decide _ d ih =>
    simp only [State.setDecision]
    split <;> exact ih
  | send _ i c ih => exact ih

theorem BlockOp.portOk {u v : State} (ho : BlockOp u v) (h : ∀ p, PortOk (u.port p)) : ∀ p, PortOk (v.port p) := by
  cases ho with
  | slotEvent j t cell hg => exact (State.slotEvent_moves _ j t cell).portOk h
  | silence j t => exact (u.judgeSilence_moves j t).portOk h
  | rejoinLimit j t => exact (u.judgeRejoinLimit_moves j t).portOk h
  | starvation j t => exact (u.judgeStarvation_moves j t).portOk h
  | insertCell p cell =>
    intro r
    rw [State.modPort_port]
    split
    · exact (h _).arrive cell
    · exact h r
  | withdrawCue j e id he r => exact (u.withdrawEntry_moves j r e).portOk h
  | cancelBreak j b id hb => exact (u.cancelBreak_moves j b).portOk h
  | override f src w hf hn hl => exact (u.overrideAlert_moves f src w).portOk h
  | endAlert r id hr reason => exact (u.endAlert_moves r reason).portOk h
  | matchCut src id kind x => exact (u.matchCut_moves src id kind x).portOk h
  | rights m asked hj =>
    refine foldl_keeps (P := fun s => ∀ p, PortOk (s.port p)) _ h fun s hs j _ => ?_
    cases asked with
    | opened => exact hs
    | guarded => exact (s.withdrawEntries_moves j (fun _ => true) .guarded).portOk hs
  | fix m => exact foldl_keeps (P := fun s => ∀ p, PortOk (s.port p)) _ h fun s hs j _ => hs
  | latches m => exact foldl_keeps (P := fun s => ∀ p, PortOk (s.port p)) _ h fun s hs j _ => hs
  | ringCount | ringCell | cue | refresh | observe => exact h

theorem step_keeps_portsLaw {s s' : State} (hs : PortsLaw s) (h : step s = .next s') : PortsLaw s' := by
  have reset {u : State} (hu : ∀ p, u.port p = InsertPort.reset) : PortsLaw u :=
    fun p => hu p ▸ ⟨portOk_reset.law, fun _ => portOk_reset.hold⟩
  refine step_keeps (fun u v e hu p => ?_) (fun u v hheld ho hu p => ?_) (fun u v _ hc p => ?_) (fun u v _ hr => reset hr.port) hs h
  · rw [e.port, e.rstAsserted]
    exact hu p
  · have hrst : u.rstAsserted = false := by
      unfold State.isHeld at hheld
      simpa using (Bool.or_eq_false_iff.mp hheld).2
    have hv := ho.portOk (fun p => ⟨(hu p).1, (hu p).2 hrst⟩) p
    exact ⟨hv.law, fun _ => hv.hold⟩
  · rcases hc.port p with e | ⟨e, hrst⟩ <;> rw [e]
    · exact ⟨portOk_reset.law, fun _ => portOk_reset.hold⟩
    · exact ⟨portOk_reset.law, fun k => by simp [hrst] at k⟩

/-! ## The binding (R35) -/

/-- The binding law, with a held part that owns no port, and every channel lawful. -/
structure BindingKept (s : State) : Prop where
  held  : s.isHeld = true → ∀ p, (s.port p).owner = none
  wired : Wired s

/-- Ports without owners are bound where no channel binds one. -/
theorem wired_of_unbound {u : State} (hp : ∀ p, (u.port p).owner = none) (hb : ∀ j, boundPort (u.chan j) = none)
    (hl : ∀ j, (u.chan j).Lawful) : Wired u :=
  ⟨⟨fun i p h => by simp [hp] at h, fun i p m k h => by simp [hb] at h⟩, hl⟩

theorem step_keeps_binding {s s' : State} (hs : BindingKept s) (h : step s = .next s') : BindingKept s' := by
  refine step_keeps (P := BindingKept) (fun u v e hu => ⟨fun hv p => ?_, e.wired hu.wired⟩) (fun u v hheld ho hu => ⟨fun hv => ?_, ho.wired hu.wired⟩)
    (fun u v _ hc => ?_) (fun u v hu hr => ?_) hs h
  · rw [e.port]
    exact hu.held (e.isHeld ▸ hv) p
  · rw [ho.isHeld, hheld] at hv
    exact absurd hv (by decide)
  · have hport (p : PortId) : (v.port p).owner = none := by
      rcases hc.port p with e | ⟨e, _⟩ <;> rw [e] <;> rfl
    refine ⟨fun _ => hport, wired_of_unbound hport (fun j => ?_) hc.lawful⟩
    obtain ⟨c, e⟩ := hc.chan j
    exact e ▸ boundPort_network rfl
  · have hport (p : PortId) : (v.port p).owner = none := by
      rw [hr.port]
      rfl
    have hnone := hu.held (by simp [State.isHeld, hr.before])
    refine ⟨fun _ => hport, wired_of_unbound hport (fun j => ?_) fun j => hr.chan j ▸ hu.wired.law j⟩
    rw [hr.chan]
    cases hb : boundPort (u.chan j) with
    | none => rfl
    | some x => simpa [hnone] using hu.wired.tied.bound j x.1 x.2.1 x.2.2 hb

/-- Settles O53. -/
theorem stepKeepsThePortLaws : Obligations.StepKeepsThePortLaws := by
  intro s s' h
  refine ⟨fun hs => step_keeps_portsLaw hs h, fun hr hc ⟨hheld, hb⟩ => ?_⟩
  have htied : Tied s := ⟨fun i p ho => (hb i p).1 ho, fun i p m k hk => (hb i p).2 m k hk⟩
  obtain ⟨h1, h2⟩ := step_keeps_binding ⟨hheld, htied, lawful_of_laws hr hc⟩ h
  exact ⟨h1, fun i p => ⟨fun ho => h2.tied.owner i p ho, fun m k hk => h2.tied.bound i p m k hk⟩⟩

end Sys2Proof.Machine
end

section
/-!
The disturbances of the line and the frames that do not pass (sections 8.1 to 8.6, 11.2).
-/
namespace Sys2Proof.Machine

open Sys2Proof.Safety

/-! ## What was measured (R125, R126, R134) -/

theorem isStartMark_iff (us : Nat) : isStartMark us = true ↔ 40 ≤ us ∧ us ≤ 56 := by simp [isStartMark]

/-- An observation that shows no run: an error of a bit slot as its limits say (R126). -/
def SlotError (o : LineObservation) : Prop :=
  (∃ us, o = .earlyEdge us ∧ us < 7) ∨ (∃ k ago, o = .pause k ago ∧ k < 8) ∨ (∃ a b, o = .lateEdge a b ∧ 9 < a ∧ b < 24) ∨ o = .extraByte

theorem isSlotError_iff (o : LineObservation) :
    isSlotError o = true ↔ (∃ us, o = .run us ∧ 7 < us ∧ us < 160) ∨ SlotError o := by
  unfold SlotError
  cases o <;> simp [isSlotError, breakRun, responseGap] <;> exact fun _ => decide_eq_true_iff

theorem isLineError_quiet_iff (o : LineObservation) :
    isLineError o .quiet = true ↔ (∃ us, o = .run us ∧ 2 ≤ us ∧ us < 160 ∧ ¬ (40 ≤ us ∧ us ≤ 56)) ∨ SlotError o := by
  cases o with
  | run us =>
    unfold SlotError
    simp only [isLineError, Bool.and_eq_true, decide_eq_true_eq, Bool.not_eq_true', ← Bool.not_eq_true, isStartMark_iff]
    simp [breakRun, and_assoc]
  | _ =>
    rw [isLineError, isSlotError_iff]
    simp

theorem Window.closedAt_iff (w : Window) (b : Nat) : w.closedAt b = true ↔ 32 < b ∨ w.type.limit ≤ w.seen := by
  simp only [Window.closedAt, Bool.or_eq_true, decide_eq_true_eq]
  rfl

theorem isLineError_window_iff (o : LineObservation) (w : Window) :
    isLineError o (.window w) = true ↔ isSlotError o = true ∨ ∃ a b, o = .lateEdge a b ∧ 9 < a ∧ w.closedAt b = true := by
  cases o <;> simp [isLineError]

/-- What the receiver does after what was no error, by the run it saw (R125, R133). -/
theorem State.followRun_run (s : State) (us : Nat) :
    (160 ≤ us → s.followRun (.run us) = s.setLine s.line.disturb) ∧
    (us < 160 → isStartMark us = true → s.line.rx = .quiet → s.followRun (.run us) = s.setRx .frame) ∧
    (us < 160 → isStartMark us = false ∨ s.line.rx ≠ .quiet → s.followRun (.run us) = s) := by
  refine ⟨fun h => if_pos h, fun h hm hq => ?_, fun h hm => ?_⟩
  · have hlong : ¬ breakRun ≤ us := Nat.not_le.mpr h
    simp [State.followRun, hlong, hm, hq]
  · have hlong : ¬ breakRun ≤ us := Nat.not_le.mpr h
    have hno : (isStartMark us && s.line.rx == .quiet) = false := by
      rcases hm with hm | hm <;> simp [hm]
    simp [State.followRun, hlong, hno]

theorem State.followRun_other {o : LineObservation} (h : ∀ us, o ≠ .run us) (s : State) : s.followRun o = s := by
  cases o with
  | run us => exact absurd rfl (h us)
  | _ => rfl

/-! ## The judgement of a frame (R129) -/

/-- A kind with this value, which is the one that the value names. -/
theorem FrameKind.ofValue_eq_some_iff {v : BitVec 5} {k : FrameKind} : FrameKind.ofValue v = some k ↔ k.value = v := by
  constructor
  · intro h
    simpa using List.find?_some h
  · rintro rfl
    exact FrameKind.ofValue_value k

theorem judgeFrame_cases (bytes : List Byte) :
    (checkByte bytes.dropLast ≠ bytes.getLastD 0 ∧ judgeFrame bytes = .checkError) ∨
    (checkByte bytes.dropLast = bytes.getLastD 0 ∧
      (((∀ k : FrameKind, k.value ≠ (bytes.headD 0).extractLsb' 0 5) ∧ judgeFrame bytes = .unknownKind) ∨
       ∃ k : FrameKind, k.value = (bytes.headD 0).extractLsb' 0 5 ∧
        judgeFrame bytes = if bytes.length = k.payloadBytes + 4 then .intact else .lengthError)) := by
  by_cases hc : checkByte bytes.dropLast = bytes.getLastD 0
  · refine .inr ⟨hc, ?_⟩
    unfold judgeFrame
    rw [if_neg (not_not_intro hc)]
    split
    next hn => exact .inl ⟨fun k hk => absurd (hn.symm.trans (FrameKind.ofValue_eq_some_iff.mpr hk)) (by simp), rfl⟩
    next k hk => exact .inr ⟨k, FrameKind.ofValue_eq_some_iff.mp hk, rfl⟩
  · exact .inl ⟨hc, if_pos hc⟩

theorem FrameKind.value_injective {k l : FrameKind} (h : k.value = l.value) : k = l :=
  Option.some.inj ((FrameKind.ofValue_value k).symm.trans ((congrArg FrameKind.ofValue h).trans (FrameKind.ofValue_value l)))

theorem State.readsFrame_iff (s : State) : s.readsFrame = true ↔ s.line.rx = .quiet ∨ s.line.rx = .frame := by
  unfold State.readsFrame
  cases s.line.rx <;> simp

/-- Settles O39: the line break and the noise pulse, then what was measured by the receive state, then the bytes of a frame by their
judgement. -/
theorem disturbancesCountAndLeadToRecover : Obligations.DisturbancesCountAndLeadToRecover := by
  intro t o bytes s hheld quiet landed seen startMark noMark slot long beyond isError reading known checked fits unknown ended
  have hobserved : exec (.receiveError t o) s = .next ((s.atTime t).receiveError t o) := exec_running rfl hheld
  have hbytes : exec (.checkError t bytes) s = .next ((s.atTime t).judgeBytes bytes) := exec_running rfl hheld
  have hcases := (s.atTime t).receiveError_cases t o
  have herror : isError ↔ isLineError o (s.atTime t).line.rx = true := by
    show isError ↔ isLineError o s.line.rx = true
    cases hrx : s.line.rx with
    | quiet =>
      rw [isLineError_quiet_iff]
      simp only [isError, hrx, reduceCtorEq, true_and, false_and, exists_false, or_false]
      exact Iff.rfl
    | frame =>
      rw [show isLineError o .frame = isSlotError o from rfl, isSlotError_iff]
      simp only [isError, hrx, reduceCtorEq, true_and, false_and, exists_false, or_false, false_or]
      exact Iff.rfl
    | recover => simp [isError, hrx, isLineError]
    | window w =>
      have hbeyond : beyond w ↔ ∃ a b, o = .lateEdge a b ∧ 9 < a ∧ w.closedAt b = true := by
        simp only [Window.closedAt_iff]
        obtain ⟨type, seen, d⟩ := w
        cases type <;> exact Iff.rfl
      rw [isLineError_window_iff, isSlotError_iff, ← hbeyond, or_assoc]
      simp only [isError, hrx, reduceCtorEq, false_and, RxState.window.injEq, exists_eq_left', false_or]
      exact Iff.rfl
  have hseen (rx : RxState) (queue : List TxFrame) (errors : Count) : seen rx queue errors =
      ((s.atTime t).noteObserved t o).setLine
        { ((s.atTime t).noteObserved t o).line with rx := rx, queue := queue, receiveErrors := errors } := by
    cases o with
    | run us =>
      simp only [seen, State.noteObserved]
      split
      · rfl
      · rw [State.noteRest_eq]
        rfl
    | pause k ago =>
      simp only [seen, State.noteObserved, State.noteRest_eq]
      rfl
    | _ => rfl
  have hrx : ((s.atTime t).noteObserved t o).line = { s.line with
      recessiveSince := ((s.atTime t).noteObserved t o).line.recessiveSince
      dominant := ((s.atTime t).noteObserved t o).line.dominant } := (s.atTime t).noteObserved_line t o
  refine ⟨?lineBreak, ?noise, fun h => ?counted, fun h => ?followed, fun h => ?intact, fun hr h => ?rejected, fun hr hc hu => ?unknownKind,
    fun hr h => ?unread⟩
  case lineBreak =>
    refine (exec_running (c := .lineBreak t) rfl hheld).trans (congrArg _ ?_)
    rw [← countUp_eq_bumped]
    rfl
  case noise =>
    refine (exec_running (c := .noisePulse t) rfl hheld).trans (congrArg _ ?_)
    rw [← countUp_eq_bumped]
    rfl
  case counted =>
    obtain ⟨_, e⟩ := hcases.resolve_right fun k => Bool.false_ne_true (k.1.symm.trans (herror.mp h))
    rw [hobserved, e, hseen, ← countUp_eq_bumped, State.countReceiveError, LineInterface.disturb, LineInterface.land, hrx]
  case followed =>
    obtain ⟨_, e⟩ := hcases.resolve_left fun k => h (herror.mpr k.1)
    rw [hobserved, e]
    have hquiet : ((s.atTime t).noteObserved t o).line.rx = s.line.rx := by rw [hrx]
    refine ⟨?_, ?_, fun hno => ?_⟩
    · rintro ⟨us, rfl, hus⟩
      rw [(State.followRun_run _ us).1 hus, hseen, LineInterface.disturb, LineInterface.land, hrx]
    · rintro ⟨us, rfl, hmark⟩ hq
      have hlt : us < 160 := lt_of_le_of_lt hmark.2 (by norm_num)
      rw [(State.followRun_run _ us).2.1 hlt ((isStartMark_iff us).mpr hmark) (hquiet.trans hq), hseen, State.setRx, hrx]
    · have hsame : ((s.atTime t).noteObserved t o).followRun o = (s.atTime t).noteObserved t o := by
        by_cases hrun : ∃ us, o = .run us
        · obtain ⟨us, rfl⟩ := hrun
          obtain ⟨hlt, hm⟩ := hno us rfl
          refine (State.followRun_run _ us).2.2 hlt (hm.imp (fun k => ?_) fun k => hquiet.symm ▸ k)
          rw [← Bool.not_eq_true, isStartMark_iff]
          exact k
        · exact State.followRun_other (fun us k => hrun ⟨us, k⟩) _
      have hline : { ((s.atTime t).noteObserved t o).line with
          rx := s.line.rx, queue := s.line.queue, receiveErrors := s.line.receiveErrors } = ((s.atTime t).noteObserved t o).line := by
        rw [hrx]
      rw [hsame, hseen, hline]
      rfl
  all_goals
    have hnote : (s.atTime t).noteFrame (bytes.getLastD 0) = ended s.line.rx s.line.queue s.line.receiveErrors :=
      State.noteRest_eq ..
    have hreads := State.readsFrame_iff (s.atTime t)
    rw [hbytes, State.judgeBytes, hnote]
  case intact =>
    obtain ⟨hc, k, hk, hlen⟩ := h
    rcases judgeFrame_cases bytes with ⟨hn, _⟩ | ⟨_, ⟨hn, _⟩ | ⟨l, hl, e⟩⟩
    · exact absurd hc hn
    · exact absurd hk (hn k)
    · obtain rfl := FrameKind.value_injective (hl.trans hk.symm)
      rw [e, if_pos hlen]
      rfl
  case rejected =>
    have hcount : (ended s.line.rx s.line.queue s.line.receiveErrors).countReceiveError =
        ended .recover landed (bumped s.line.receiveErrors) := by
      rw [← countUp_eq_bumped]
      rfl
    rcases judgeFrame_cases bytes with ⟨_, e⟩ | ⟨hc, ⟨hn, _⟩ | ⟨l, hl, e⟩⟩
    · rw [e, if_pos (hreads.mpr hr), hcount]
    · rcases h with h | ⟨h, _⟩
      · exact absurd hc h
      · exact absurd hn h
    · have hlen : bytes.length ≠ l.payloadBytes + 4 := fun k => by
        rcases h with h | ⟨_, h⟩
        · exact h hc
        · exact h ⟨l, hl, k⟩
      rw [e, if_neg hlen]
      dsimp only
      rw [if_pos (hreads.mpr hr), hcount]
  case unknownKind =>
    rcases judgeFrame_cases bytes with ⟨hn, _⟩ | ⟨_, ⟨_, e⟩ | ⟨l, hl, _⟩⟩
    · exact absurd hc hn
    · rw [e]
      dsimp only
      rw [if_pos (hreads.mpr hr)]
      rfl
    · exact absurd hl (hu l)
  case unread =>
    have hno : (s.atTime t).readsFrame ≠ true := mt hreads.mp hr
    rcases judgeFrame_cases bytes with ⟨_, e⟩ | ⟨hc, ⟨_, e⟩ | ⟨l, hl, e⟩⟩
    · rw [e, if_neg hno]
    · rw [e]
      dsimp only
      rw [if_neg hno]
    · rw [e, if_neg fun k => h ⟨hc, l, hl, k⟩]
      dsimp only
      rw [if_neg hno]

end Sys2Proof.Machine
end

section
/-!
The cue list in the words of the statements: the checks on a splice time (R56, R57, R69), the place of an entry (R70), the entry that
leaves the list without a cut (R76), and the one entry that a CUT frame finds (R71).
-/
namespace Sys2Proof.Machine

open Sys2Proof.Safety

/-! ## The checks on a splice time (R56, R57, R69) -/

theorem State.lateLimit_eq (s : State) : s.lateLimit = 10000 * (s.lateLimitByte.toNat : Int) := by
  rw [State.lateLimit, Nat.mul_comm]
  exact Int.natCast_mul ..

theorem breakLength_eq (ms : Nat) : breakLength ms = 1000 * ms := Nat.mul_comm ..

/-- The interval of a splice time meets another entry's or the break's. -/
theorem overlapsInterval_iff (c : Channel) (id : Ident) (sp : Time) (len : Nat) : c.overlapsInterval id sp len = true ↔
    (∃ x ∈ c.cues.filter (fun x => x.cueId != id), ∃ se, x.splice = some se ∧ intervalsOverlap sp len se (1000 * x.duration) = true) ∨
    (∃ b, c.breakRecord = some b ∧ intervalsOverlap sp len (b.returnPoint - BitVec.ofNat 36 (1000 * b.duration)) (1000 * b.duration) = true) := by
  unfold Channel.overlapsInterval CueEntry.overlaps BreakRecord.start
  rw [Bool.or_eq_true, List.any_eq_true, Option.any_eq_true]
  refine or_congr (exists_congr fun x => ?_) (exists_congr fun b => by rw [breakLength_eq])
  simp only [Bool.and_eq_true, Option.any_eq_true, List.mem_filter, breakLength_eq, and_assoc]

/-- Checks 5 to 8 of R69, in their order. -/
theorem State.judgeSplice_eq (s : State) (i : Slot) (id : Ident) (sp : Time) (len : Nat) :
    let c := s.chan i
    let d := signed sp (c.clock.lastStamp + (s.timer - c.clock.lastTime))
    s.judgeSplice i id sp len =
      if c.clock.state ≠ .locked then some .noClock
      else if d < -(10000 * s.lateLimitByte.toNat : Int) then some .tooLate
      else if 14400000000 < d then some .tooFar
      else if c.overlapsInterval id sp len = true then some .overlap else none := by
  intro c d
  unfold State.judgeSplice
  rw [State.lateLimit_eq]
  rfl

/-! ## The place of an entry (R70) -/

theorem insertTimed_eq (e : CueEntry) (sp : Time) (l : List CueEntry) :
    insertTimed e sp l = l.takeWhile (fun x => x.splice.any fun sx => atOrAfter sp sx) ++ [e] ++
      l.dropWhile fun x => x.splice.any fun sx => atOrAfter sp sx := by
  induction l with
  | nil => rfl
  | cons x rest ih =>
    unfold insertTimed
    by_cases h : (x.splice.any fun sx => atOrAfter sp sx) = true
    · simp [h, ih]
    · simp [h]

theorem putEntry_eq (c : Channel) (e : CueEntry) : c.putEntry e = { c with cues := cuePlaced c e } := by
  refine congrArg (fun l => ({ c with cues := l } : Channel)) ?_
  cases hs : e.splice with
  | none =>
    rw [placeEntry, cuePlaced, hs]
    rfl
  | some sp =>
    rw [placeEntry, cuePlaced, hs]
    exact insertTimed_eq e sp _

/-! ## An entry that leaves the list (R76) -/

theorem State.raiseCut_eq (s : State) (i : Slot) (k : CutKind) (r : CutReason) (id : Ident) (x : Time) (late : Byte) :
    s.raiseCut i k r id x late = { s with line := (s.offer (.cut (s.tagOf i) k id r x late)).line } := State.offer_eq s _

/-- An entry that is not in CUT_WAIT leaves the list, and its report is raised. -/
theorem State.leaveEntry_of_ne {s : State} {i : Slot} {e : CueEntry} (h : e.state ≠ .cutWait) (k : CutKind) (r : CutReason) :
    s.leaveEntry i e k r =
      { s.setChan i { s.chan i with cues := (s.chan i).cues.filter fun x => x.cueId != e.cueId } with
        line := (s.offer (.cut (s.tagOf i) k e.cueId r 0 0)).line } := by
  unfold State.leaveEntry
  rw [if_neg h, State.raiseCut_eq]
  have hline := State.offer_line_congr (s := s) (u := s.modChan i fun c => c.dropEntry e.cueId)
    (.cut (s.tagOf i) k e.cueId r 0 0) rfl rfl
  rw [show (s.modChan i fun c => c.dropEntry e.cueId).tagOf i = s.tagOf i from rfl, hline]
  rfl

/-! ## The one entry that a CUT frame finds (R71) -/

/-- Operations slot by slot of which one does something. -/
theorem foldl_at_one {f : State → Slot → State} {s u : State} {i : Slot} {l : List Slot} (hn : l.Nodup) (hi : i ∈ l)
    (before : ∀ j, j ≠ i → f s j = s) (at_i : f s i = u) (after : ∀ j, j ≠ i → f u j = u) : l.foldl f s = u := by
  have rest {l : List Slot} (h : i ∉ l) : l.foldl f u = u :=
    foldl_keeps (P := fun v => v = u) l rfl fun v hv j hj => by
      rw [hv]
      exact after j fun k => h (k ▸ hj)
  induction l with
  | nil => simp at hi
  | cons j l ih =>
    obtain ⟨hj, hn⟩ := List.nodup_cons.mp hn
    rw [List.foldl_cons]
    by_cases e : j = i
    · subst e
      rw [at_i]
      exact rest hj
    · rw [before j e]
      exact ih hn ((List.mem_cons.mp hi).resolve_left (Ne.symm e))

theorem State.matchCutOn_of_none {s : State} {i : Slot} {src : Byte} {id : Ident} (h : ∀ x ∈ (s.chan i).cues, x.awaits src id = false)
    (kind : Option CutKind) (x : Time) : s.matchCutOn src id kind x i = s := by
  have hnil : (s.chan i).cueIds (fun e => e.awaits src id) = [] := by
    rw [Channel.cueIds, List.filter_eq_nil_iff.mpr fun e he => by simp [h e he]]
    rfl
  rw [State.matchCutOn, hnil]
  rfl

theorem State.matchCut_of_none {s : State} {src : Byte} {id : Ident} (h : ∀ j, ∀ x ∈ (s.chan j).cues, x.awaits src id = false)
    (kind : Option CutKind) (x : Time) : s.matchCut src id kind x = s :=
  foldl_keeps (P := fun u => u = s) _ rfl fun u hu i _ => by
    rw [hu]
    exact State.matchCutOn_of_none (h i) kind x

theorem filter_eq_singleton {l : List CueEntry} (hn : (l.map (·.cueId)).Nodup) {e : CueEntry} (he : e ∈ l) {p : CueEntry → Bool}
    (hp : p e = true) (hone : ∀ x ∈ l, x.cueId ≠ e.cueId → p x = false) : l.filter p = [e] := by
  have heq : l.filter p = l.filter fun x => x == e := by
    refine List.filter_congr fun x hx => ?_
    by_cases hid : x.cueId = e.cueId
    · obtain rfl := List.inj_on_of_nodup_map hn hx he hid
      simp [hp]
    · rw [hone x hx hid]
      exact (beq_eq_false_iff_ne.mpr fun k => hid (congrArg CueEntry.cueId k)).symm
  rw [heq, List.filter_beq, List.count_eq_one_of_mem (hn.of_map _) he]
  rfl

theorem entry_of_nodup {c : Channel} (hn : (c.cues.map (·.cueId)).Nodup) {e : CueEntry} (he : e ∈ c.cues) : c.entry e.cueId = some e := by
  obtain ⟨x, hx⟩ := Option.isSome_iff_exists.mp (entry_isSome.mpr ⟨e, he, rfl⟩)
  obtain ⟨hm, hid⟩ := entry_eq_some hx
  rw [hx, List.inj_on_of_nodup_map hn hm he hid]

/-- What an entry in WAIT_PEER makes of a CUT frame leaves the other channels. -/
theorem State.reactToCut_chan_ne {s : State} {i j : Slot} (hj : j ≠ i) {e : CueEntry} (hw : e.state ≠ .cutWait)
    (kind : Option CutKind) (x : Time) : (s.reactToCut i kind x e).chan j = s.chan j := by
  have hleave (r : CutReason) : (s.withdrawEntry i r e).chan j = s.chan j := by
    rw [State.withdrawEntry, State.leaveEntry_of_ne hw]
    exact State.modChan_chan_ne s (fun _ => { s.chan i with cues := (s.chan i).cues.filter fun x => x.cueId != e.cueId }) hj
  unfold State.reactToCut
  split
  · simp only [State.peerCutIn]
    split
    · exact State.modChan_chan_ne _ _ hj
    · exact hleave _
  · exact hleave _
  · exact hleave _
  · exact hleave _
  all_goals rfl

theorem State.matchCut_of_one {s : State} {i : Slot} {e : CueEntry} {src : Byte} {id : Ident} (hn : ((s.chan i).cues.map (·.cueId)).Nodup)
    (he : e ∈ (s.chan i).cues) (ha : e.awaits src id = true)
    (hone : ∀ j, ∀ x ∈ (s.chan j).cues, j ≠ i ∨ x.cueId ≠ e.cueId → x.awaits src id = false) (kind : Option CutKind) (x : Time) :
    s.matchCut src id kind x = s.reactToCut i kind x e := by
  have hw : e.state ≠ .cutWait := by
    obtain ⟨since, wait, h⟩ := awaits_spec ha
    simp [h]
  have hids : (s.chan i).cueIds (fun e => e.awaits src id) = [e.cueId] := by
    rw [Channel.cueIds, filter_eq_singleton hn he ha fun x hx hid => hone i x hx (.inr hid)]
    rfl
  refine foldl_at_one slots_nodup (mem_slots i) (fun j hj => State.matchCutOn_of_none (fun x hx => hone j x hx (.inl hj)) kind x) ?_
    fun j hj => State.matchCutOn_of_none (fun x hx => ?_) kind _
  · rw [State.matchCutOn, hids, List.foldl_cons, List.foldl_nil, State.reactById, entry_of_nodup hn he, Option.filter_some, if_pos ha]
  · rw [State.reactToCut_chan_ne hj hw] at hx
    exact hone j x hx (.inl hj)

/-- The entry that one channel alone holds is found. -/
theorem findEntry_of_one {s : State} {i : Slot} {e : CueEntry} {id : Ident} (h : (s.chan i).entry id = some e)
    (hone : ∀ j, j ≠ i → (s.chan j).entry id = none) : s.findEntry id = some (i, e) := by
  cases hf : s.findEntry id with
  | none =>
    have := List.findSome?_eq_none_iff.mp hf i (mem_slots i)
    simp [h] at this
  | some r =>
    obtain ⟨j, x⟩ := r
    have hx := findEntry_spec hf
    by_cases hj : j = i
    · subst hj
      rw [Option.some.inj (h.symm.trans hx)]
    · simp [hone j hj] at hx

end Sys2Proof.Machine
end

section
/-!
A CUE is judged and placed, a CUT frame and a frame of this station's own resolve the entry that awaits them (sections 5.1 to 5.3, 8.4,
8.5).
-/
namespace Sys2Proof.Machine

open Sys2Proof.Safety

/-! ## A CUT_IN (R71) -/

/-- What a CUT_IN makes of an entry, by the checks on the splice time it gives. -/
theorem State.peerCutIn_cases (s : State) (i : Slot) (x : Time) (e : CueEntry) {sp : Time} (hsp : e.spliceFrom x = sp) :
    let c := s.chan i
    let d := signed sp (c.clock.lastStamp + (s.timer - c.clock.lastTime))
    (c.clock.state ≠ .locked → s.peerCutIn i x e = s.withdrawEntry i .noClock e) ∧
    (c.clock.state = .locked → d < -(10000 * s.lateLimitByte.toNat : Int) ∨ 14400000000 < d →
      s.peerCutIn i x e = s.withdrawEntry i .tooLate e) ∧
    (c.clock.state = .locked → -(10000 * s.lateLimitByte.toNat : Int) ≤ d → d ≤ 14400000000 →
      (c.overlapsInterval e.cueId sp (1000 * e.duration) = true → s.peerCutIn i x e = s.withdrawEntry i .overlap e) ∧
      (c.overlapsInterval e.cueId sp (1000 * e.duration) = false →
        s.peerCutIn i x e = s.setChan i { c with cues := cuePlaced c { e with splice := some sp, state := .pending false } })) := by
  intro c d
  have hjudge : s.judgeSplice i e.cueId sp (1000 * e.duration) = if c.clock.state ≠ .locked then some .noClock
      else if d < -(10000 * s.lateLimitByte.toNat : Int) then some .tooLate
      else if 14400000000 < d then some .tooFar
      else if c.overlapsInterval e.cueId sp (1000 * e.duration) = true then some .overlap else none := s.judgeSplice_eq ..
  have refused {code : OutcomeCode} (h : s.judgeSplice i e.cueId sp (1000 * e.duration) = some code) :
      s.peerCutIn i x e = s.withdrawEntry i code.withdrawReason e := by
    simp only [State.peerCutIn, hsp, breakLength_eq, h]
  refine ⟨fun hk => refused (code := .noClock) (hjudge.trans (if_pos hk)), fun hk hd => ?_, fun hk h1 h2 => ⟨fun ho => ?_, fun ho => ?_⟩⟩
  · rw [if_neg (not_not_intro hk)] at hjudge
    by_cases hlate : d < -(10000 * s.lateLimitByte.toNat : Int)
    · exact refused (code := .tooLate) (hjudge.trans (if_pos hlate))
    · exact refused (code := .tooFar) (hjudge.trans ((if_neg hlate).trans (if_pos (hd.resolve_left hlate))))
  · rw [if_neg (not_not_intro hk), if_neg (not_lt.mpr h1), if_neg (not_lt.mpr h2), if_pos ho] at hjudge
    exact refused (code := .overlap) hjudge
  · rw [if_neg (not_not_intro hk), if_neg (not_lt.mpr h1), if_neg (not_lt.mpr h2), if_neg (by simp [ho])] at hjudge
    simp only [State.peerCutIn, hsp, breakLength_eq, hjudge]
    exact congrArg (s.setChan i) (putEntry_eq ..)

theorem State.reactToCut_cutIn (s : State) (i : Slot) (x : Time) (e : CueEntry) :
    s.reactToCut i (some .cutIn) x e = s.peerCutIn i x e := rfl

/-- The reports that take an entry away (R71). -/
theorem State.reactToCut_withdraws {s : State} {k : CutKind} (h : k = .missed ∨ k = .withdrawn ∨ k = .shed) (i : Slot) (x : Time)
    (e : CueEntry) : s.reactToCut i (some k) x e = s.withdrawEntry i .peerMissed e := by
  rcases h with rfl | rfl | rfl <;> rfl

/-- The reports that leave an entry waiting (R71). -/
theorem State.reactToCut_keeps {s : State} {k : Option CutKind} (h : k = none ∨ k = some .cutOut ∨ k = some .held ∨ k = some .rejoined)
    (i : Slot) (x : Time) (e : CueEntry) : s.reactToCut i k x e = s := by
  rcases h with rfl | rfl | rfl | rfl <;> rfl

/-- A CUT frame of a kind that leaves every entry waiting. -/
theorem State.matchCut_keeps {s : State} {k : Option CutKind} (h : k = none ∨ k = some .cutOut ∨ k = some .held ∨ k = some .rejoined)
    (src : Byte) (id : Ident) (x : Time) : s.matchCut src id k x = s := by
  refine foldl_keeps (P := fun u => u = s) _ rfl fun u hu i _ => hu ▸ foldl_keeps (P := fun v => v = u) _ rfl fun v hv own _ => ?_
  rw [hv, State.reactById]
  split
  · exact State.reactToCut_keeps h ..
  · rfl

/-- The entry is withdrawn from the state at the end-of-data of a frame. -/
theorem State.withdrawEntry_answered {s : State} {i : Slot} {e : CueEntry} (h : e.state ≠ .cutWait) (t : Time) (type : ResponseType)
    (d : Decision) (r : CutReason) : (answered s t type d).withdrawEntry i r e =
      answered { s.setChan i { s.chan i with cues := (s.chan i).cues.filter fun x => x.cueId != e.cueId } with
        line := (s.offer (.cut (s.tagOf i) .withdrawn e.cueId r 0 0)).line } t type d := by
  rw [State.withdrawEntry, State.leaveEntry_of_ne h, State.offer_answered]
  rfl

/-! ## Statements -/

/-- A kind's number that this row's statements name, and every other (R151). -/
theorem CutKind.ofValue_other {v : BitVec 4} (h1 : v ≠ 1#4) (h5 : v ≠ 5#4) (h6 : v ≠ 6#4) (h7 : v ≠ 7#4) :
    CutKind.ofValue v = none ∨ CutKind.ofValue v = some .cutOut ∨ CutKind.ofValue v = some .held ∨ CutKind.ofValue v = some .rejoined := by
  revert v
  decide

/-- Settles O21: a CUT frame by the entry that awaits it, and the peer deadline. -/
theorem peerReportResolvesAWaitingEntry : Obligations.PeerReportResolvesAWaitingEntry := by
  refine ⟨fun t h p s i e station peerCue ms hear hsrc hd hl => ?frame, fun t s i e since wait hheld => ?deadline⟩
  case frame =>
    intro f c
    have hexec : exec (.cutFrameReceived t h p) s =
        .next ((answered s t .none .silent).matchCut h.source f.cueId (CutKind.ofValue f.kind) f.cutStamp) := by
      show s.take t (fun s => s.receive .cut h p
        fun s => s.matchCut h.source (cutFields p).cueId (CutKind.ofValue (cutFields p).kind) (cutFields p).cutStamp) = _
      rw [State.take_of_not_held hear.1, State.receive_of_hears hear hd hsrc hl]
      rfl
    refine ⟨fun hnone => ?_, fun hn he htrig hwait hstation hcue hone => ?_⟩
    · rw [hexec, State.matchCut_of_none (s := answered s t .none .silent) hnone]
    intro others sp d withdrawn overlaps
    obtain ⟨since, wait, hw⟩ := hwait
    have ha : e.awaits h.source f.cueId = true := by simp [CueEntry.awaits, hw, htrig, hstation, hcue]
    have hone' := State.matchCut_of_one (s := answered s t .none .silent) hn he ha hone (CutKind.ofValue f.kind) f.cutStamp
    rw [hone'] at hexec
    have hne : e.state ≠ .cutWait := by simp [hw]
    have hwithdrawn (r : CutReason)
        (k : (answered s t .none .silent).reactToCut i (CutKind.ofValue f.kind) f.cutStamp e = (answered s t .none .silent).withdrawEntry i r e) :
        withdrawn r := by
      rw [k, State.withdrawEntry_answered hne] at hexec
      exact hexec
    have hsp : e.spliceFrom f.cutStamp = sp := by
      simp only [CueEntry.spliceFrom, htrig]
      rw [Nat.mul_comm]
      rfl
    obtain ⟨hnoClock, hlate, hrange⟩ := (answered s t .none .silent).peerCutIn_cases i f.cutStamp e hsp
    have hcutIn (hk : f.kind = 1#4) : (answered s t .none .silent).reactToCut i (CutKind.ofValue f.kind) f.cutStamp e =
        (answered s t .none .silent).peerCutIn i f.cutStamp e := by
      rw [hk]
      rfl
    have hoverlaps : overlaps ↔ c.overlapsInterval e.cueId sp (1000 * e.duration) = true := (overlapsInterval_iff ..).symm
    refine ⟨fun hk hlocked h1 h2 => ⟨fun ho => ?_, fun ho => ?_⟩, fun hk hlocked => ?_, fun hk hlocked hd => ?_, fun hk => ?_,
      fun h1 h5 h6 h7 => ?_⟩
    · rw [hexec, hcutIn hk, (hrange hlocked h1 h2).2 (Bool.not_eq_true _ ▸ mt hoverlaps.mpr ho)]
      rfl
    · exact hwithdrawn _ ((hcutIn hk).trans ((hrange hlocked h1 h2).1 (hoverlaps.mp ho)))
    · exact hwithdrawn _ ((hcutIn hk).trans (hnoClock hlocked))
    · exact hwithdrawn _ ((hcutIn hk).trans (hlate hlocked hd))
    · refine hwithdrawn _ ?_
      rcases hk with hk | hk | hk <;> rw [hk] <;> rfl
    · rw [hexec, State.reactToCut_keeps (CutKind.ofValue_other h1 h5 h6 h7)]
  case deadline =>
    intro c he hw hone
    have hexec : exec (.peerDeadlineExpiry t e.cueId) s = .next ((s.atTime t).judgeDeadline e.cueId t) := exec_running rfl hheld
    have hfind : (s.atTime t).findEntry e.cueId = some (i, e) := findEntry_of_one he hone
    have hpassed : e.deadlinePassed t = decide (wait < (t - since).toNat) := by
      simp only [CueEntry.deadlinePassed, hw]
      rfl
    rw [State.judgeDeadline, hfind] at hexec
    dsimp only at hexec
    rw [hpassed] at hexec
    refine ⟨fun h => ?_, fun h => ?_⟩
    · rw [if_pos (by simpa using h), State.withdrawEntry, State.leaveEntry_of_ne (by simp [hw]),
        State.offer_line_congr (s := s) (u := s.atTime t) _ rfl rfl] at hexec
      exact hexec
    · rw [if_neg (by simpa using h)] at hexec
      exact hexec

end Sys2Proof.Machine
end

section
/-!
The frame in flight of this station: sent clean and handed on (R131, R71), retried or abandoned (R132).
-/
namespace Sys2Proof.Machine

open Sys2Proof.Safety

/-- The only entry of a list is placed in its own place. -/
theorem cuePlaced_of_one {c : Channel} {e e' : CueEntry} (h : c.cues = [e]) (hid : e'.cueId = e.cueId) : cuePlaced c e' = [e'] := by
  unfold cuePlaced
  rw [h, hid]
  cases e'.splice <;> simp

/-- The only entry of a list that is not in CUT_WAIT is withdrawn. -/
theorem State.withdrawEntry_of_one {s : State} {i : Slot} {e : CueEntry} (h : (s.chan i).cues = [e]) (hw : e.state ≠ .cutWait)
    (r : CutReason) : s.withdrawEntry i r e = { s.setChan i { s.chan i with cues := [] } with
      line := (s.offer (.cut (s.tagOf i) .withdrawn e.cueId r 0 0)).line } := by
  rw [State.withdrawEntry, State.leaveEntry_of_ne hw, h]
  simp

/-- The interval of a splice time of the only entry meets the break's alone. -/
theorem overlapsInterval_of_one {c : Channel} {e : CueEntry} (h : c.cues = [e]) (sp : Time) :
    c.overlapsInterval e.cueId sp (1000 * e.duration) = true ↔ ∃ b, c.breakRecord = some b ∧
      intervalsOverlap sp (1000 * e.duration) (b.returnPoint - BitVec.ofNat 36 (1000 * b.duration)) (1000 * b.duration) = true := by
  rw [overlapsInterval_iff, h]
  simp

/-! ## Bit errors (R132) -/

theorem State.isBitError_iff (s : State) (f : TxFrame) (n : Nat) :
    s.isBitError f n = true ↔ 24 ≤ n ∧ (s.bitSent f n).isSome = true ∨ s.bitSent f n = some false := by
  unfold State.isBitError
  cases s.bitSent f n with
  | none => simp
  | some b => cases b <;> simp

theorem State.bitError_of_flight {s : State} {f : TxFrame} (hf : s.line.queue.find? (fun g => g.inFlight) = some f) (n : Nat) :
    s.bitError n = if s.isBitError f n then
      s.setLine { ((if f.retries < 3 then s.line.retry else s.line.abandon).edge s.timer) with rx := .frame, ownBreak := some s.timer }
    else s := by
  unfold State.bitError LineInterface.flight
  rw [hf]
  rfl

/-- Settles O38: the frame in flight is handed on as another station's would be, retried or abandoned. -/
theorem frameInFlightIsSentCleanRetriedOrAbandoned : Obligations.FrameInFlightIsSentCleanRetriedOrAbandoned := by
  intro t n s f hheld hf clean broken own awaited sent
  have hclean : exec (.cleanSend t) s = .next (clean.handOwn f.report) := by
    refine (exec_running rfl hheld).trans ?_
    show Host.Outcome.next (s.atTime t).finishSend = _
    rw [State.finishSend, LineInterface.flight, show (s.atTime t).line.queue.find? (fun g => g.inFlight) = some f from hf]
    rfl
  have hbit : exec (.bitError t n) s = .next ((s.atTime t).bitError n) := exec_running rfl hheld
  rw [State.bitError_of_flight (s := s.atTime t) hf] at hbit
  have herr : (s.atTime t).isBitError f n = true ↔ 24 ≤ n ∧ sent.isSome = true ∨ sent = some false := State.isBitError_iff ..
  refine ⟨fun _ _ _ _ _ _ hr => by rw [hclean, hr]; rfl, fun _ _ _ hr => by rw [hclean, hr]; rfl,
    fun tag kind id reason stamp late hr => ?cut, fun h => ?error, fun h => ?noError⟩
  case cut =>
    rw [hr] at hclean
    replace hclean : exec (.cleanSend t) s = .next (clean.matchCut own id (some kind) stamp) := hclean
    refine ⟨fun h => ?_, fun i e hcues haw hother => ?_⟩
    · rw [hclean]
      by_cases hnone : ∀ j, ¬ awaited id j
      · rw [State.matchCut_of_none (s := clean) fun j x hx => Bool.not_eq_true _ ▸ fun k => hnone j ⟨x, hx, k⟩]
      · rw [State.matchCut_keeps]
        simpa [hnone] using h
    intro c withdrawn
    obtain ⟨x, hx, ha⟩ := haw
    obtain rfl : x = e := by simpa [hcues] using hx
    have hw : x.state ≠ .cutWait := by
      obtain ⟨since, wait, h⟩ := awaits_spec ha
      simp [h]
    have hcues' : (clean.chan i).cues = [x] := hcues
    have hone : clean.matchCut own id (some kind) stamp = clean.reactToCut i (some kind) stamp x := by
      refine State.matchCut_of_one (by simp [hcues']) (by simp [hcues']) ha (fun j y hy h => ?_) _ _
      rcases eq_or_ne j i with rfl | hj
      · obtain rfl : y = x := by simpa [hcues'] using hy
        simp at h
      · exact Bool.not_eq_true _ ▸ fun k => hother j hj ⟨y, hy, k⟩
    have hwithdrawn {r : CutReason} (k : clean.reactToCut i (some kind) stamp x = clean.withdrawEntry i r x) : withdrawn r := by
      rw [hone, k, State.withdrawEntry_of_one hcues' hw] at hclean
      exact hclean
    refine ⟨fun hk => hwithdrawn (State.reactToCut_withdraws hk ..), fun ms hk htrig => ?_⟩
    subst hk
    intro sp d overlaps
    have hsp : x.spliceFrom stamp = sp := by
      simp only [CueEntry.spliceFrom, htrig]
      rw [Nat.mul_comm]
      rfl
    obtain ⟨hnoClock, hlate, hrange⟩ := clean.peerCutIn_cases i stamp x hsp
    have hoverlaps : c.overlapsInterval x.cueId sp (1000 * x.duration) = true ↔ ∃ b, c.breakRecord = some b ∧ overlaps b = true :=
      overlapsInterval_of_one hcues sp
    refine ⟨fun h => hwithdrawn (hnoClock h), fun h k => hwithdrawn (hlate h k), fun h h1 h2 => ⟨fun ho => ?_, fun ho => ?_⟩⟩
    · exact hwithdrawn ((hrange h h1 h2).1 (hoverlaps.mpr ho))
    · have hfree : c.overlapsInterval x.cueId sp (1000 * x.duration) = false :=
        Bool.not_eq_true _ ▸ fun k => by
          obtain ⟨b, hb, hov⟩ := hoverlaps.mp k
          simp [ho b hb] at hov
      have hput := (hrange h h1 h2).2 hfree
      rw [cuePlaced_of_one (c := clean.chan i) (e' := { x with splice := some sp, state := .pending false }) hcues' rfl] at hput
      rw [hclean, hone]
      exact congrArg _ hput
  case error =>
    rw [if_pos (herr.mpr h)] at hbit
    refine ⟨fun hr => ?_, fun hr => ?_⟩
    · rw [if_pos hr] at hbit
      exact hbit
    · rw [if_neg (not_lt.mpr hr)] at hbit
      rw [hbit, ← countUp_eq_bumped]
      rfl
  case noError =>
    have hno : ¬ (24 ≤ n ∧ sent.isSome = true ∨ sent = some false) := by
      rcases h with h | ⟨hn, h⟩ <;> simp [h]
      omega
    rw [if_neg (mt herr.mp hno)] at hbit
    exact hbit

end Sys2Proof.Machine
end

section
/-!
The outcome of a CUE: the checks of R68 and R69 in their order, and the place of an admitted CUE (R70).
-/
namespace Sys2Proof.Machine

open Sys2Proof.Safety

/-! ## The checks, each in the words of the statement -/

theorem CueFields.fieldsPass_eq_false_iff (f : CueFields) : f.fieldsPass = false ↔
    (f.peerTrigger = false ∧ f.triggerHigh ≠ 0) ∨ (¬ f.peerTrigger = false ∧ (f.peerStation = 0 ∨ 62 < f.peerStation.toNat)) := by
  unfold CueFields.fieldsPass
  cases f.peerTrigger with
  | false => simp
  | true =>
    have hzero : f.peerStation = 0#8 ↔ f.peerStation.toNat = 0 := by rw [← BitVec.toNat_inj]; rfl
    simp [hzero]
    omega

/-- The break record of a lawful channel is the break among its records. -/
theorem exists_break_iff {c : Channel} (h : ChannelLaw c) (P : BreakRecord → Prop) :
    (∃ r ∈ records c, ∃ b, r.break? = some b ∧ P b) ↔ ∃ b, c.breakRecord = some b ∧ P b := by
  have hmem (b : BreakRecord) : (∃ r ∈ records c, r.break? = some b) ↔ c.breakRecord = some b := by
    rw [← List.mem_filterMap, breaks_eq_breakRecord h, Option.mem_toList]
  simp only [← hmem]
  exact ⟨fun ⟨r, hr, b, hb, hp⟩ => ⟨b, ⟨r, hr, hb⟩, hp⟩, fun ⟨b, ⟨r, hr, hb⟩, hp⟩ => ⟨r, hr, b, hb, hp⟩⟩

theorem State.idElsewhere_iff {s : State} (h : ChannelsLaw s) (i : Slot) (id : Ident) :
    s.idElsewhere i id = true ↔ ∃ j : Slot, j ≠ i ∧ id ∈ usedIds (s.chan j) := by
  simp only [State.idElsewhere, List.any_eq_true, Bool.and_eq_true, bne_iff_ne, mem_usedIds (h _), mem_slots, true_and]

theorem inProgress_iff {c : Channel} (h : ChannelLaw c) (hn : (c.cues.map (·.cueId)).Nodup) (id : Ident) :
    c.inProgress id = true ↔ (∃ e ∈ c.cues, e.cueId = id ∧ e.state = .cutWait) ∨
      (∃ r ∈ records c, r.break?.map (·.cueId) = some id) := by
  rw [Channel.inProgress, Bool.or_eq_true]
  refine or_congr ⟨fun k => ?_, fun ⟨e, he, hid, hs⟩ => ?_⟩ ?_
  · obtain ⟨e, he, hs⟩ := Option.any_eq_true _ _ |>.mp k
    obtain ⟨hm, hid⟩ := entry_eq_some he
    exact ⟨e, hm, hid, by simpa using hs⟩
  · rw [← hid, entry_of_nodup hn he]
    simp [hs]
  · simp only [Option.map_eq_some_iff, exists_break_iff h, Channel.hasBreak, Option.any_eq_true, beq_iff_eq]

/-- The interval of a splice time meets another timed entry's or the break's. -/
theorem overlapsInterval_iff_records {c : Channel} (h : ChannelLaw c) (id : Ident) (sp : Time) (len : Nat) :
    c.overlapsInterval id sp len = true ↔
      (∃ e ∈ c.cues.filter (fun e => e.cueId != id), e.splice.any (fun se => intervalsOverlap sp len se (1000 * e.duration)) = true) ∨
      (∃ r ∈ records c, r.break?.any (fun b =>
        intervalsOverlap sp len (b.returnPoint - BitVec.ofNat 36 (1000 * b.duration)) (1000 * b.duration)) = true) := by
  rw [overlapsInterval_iff]
  simp only [Option.any_eq_true, exists_break_iff h]

theorem State.cueListFull_iff (s : State) (i : Slot) (id : Ident) :
    let others := (s.chan i).cues.filter fun e => e.cueId != id
    s.cueListFull i id = true ↔ 64 + (s.chan i).cues.length ≤ s.cueTotal + others.length ∨ 8 ≤ others.length := by
  intro others
  have hsum := s.cueTotal_modChan i fun c => { c with cues := [] }
  have hle : others.length ≤ (s.chan i).cues.length := List.length_filter_le ..
  have hdef : s.cueListFull i id = (decide (64 ≤ s.cueTotal - ((s.chan i).cues.length - others.length)) || decide (8 ≤ others.length)) :=
    rfl
  rw [hdef, Bool.or_eq_true, decide_eq_true_iff, decide_eq_true_iff]
  simp only [List.length_nil, Nat.add_zero] at hsum
  omega

/-! ## The outcome (R68, R69) -/

theorem State.judgeCue_eq {s : State} (hc : ChannelsLaw s) {f : CueFields} (hn : ((s.chan f.slot).cues.map (·.cueId)).Nodup) :
    s.judgeCue f = cueOutcome s s.timer f := by
  have hsplice := s.judgeSplice_eq f.slot f.cueId f.splice (breakLength (clampDuration f.duration))
  dsimp only at hsplice
  unfold State.judgeCue State.judgeCueChecks cueOutcome
  dsimp only
  simp only [hsplice, ← CueFields.fieldsPass_eq_false_iff, ← State.idElsewhere_iff hc, ← inProgress_iff (hc f.slot) hn,
    ← overlapsInterval_iff_records (hc f.slot), ← State.cueListFull_iff, ← entry_isSome]
  cases f.peerTrigger <;> cases f.fieldsPass <;> simp only [reduceCtorEq, true_and, false_and,
    if_true, if_false, Bool.false_eq_true]
  split_ifs <;> rfl

theorem clampDuration_eq (ms : Nat) : clampDuration ms = max 1000 (min ms 14400000) := by
  unfold clampDuration
  split
  · omega
  · split <;> omega

theorem clampPeerWait_eq (n : Nat) : clampPeerWait n = 1000000 * max 1 n := by
  unfold clampPeerWait
  split <;> omega

theorem admits_iff {o : OutcomeCode} : o.admits = true ↔ o = .accepted ∨ o = .replaced := by
  simp [OutcomeCode.admits]

/-- Settles O20: the checks decide the outcome, and an admitted CUE is placed. -/
theorem cueIsJudgedInOrderAndPlaced : Obligations.CueIsJudgedInOrderAndPlaced := by
  intro t h p s hear own hchans hcues f c outcome entry
  have hexec (hl : s.station ≠ .listen) (hf : s.station ≠ .strapFault) :
      exec (.cue t h p) s = .next ((answered s t .ack .silent).takeCue f) := State.take_receive_ifOwn hear own hl hf t .cue p _
  have hjudge : (answered s t .ack .silent).judgeCue f = outcome :=
    State.judgeCue_eq (s := answered s t .ack .silent) hchans (cueLaw_iff.mp (hcues.1 f.slot)).nodup
  refine ⟨fun ha ho => ?_, fun ha h1 h2 => ?_, fun hb => ?_⟩
  · have hstation : (answered s t .ack .silent).station = .active := ha
    rw [hexec (by simp [ha]) (by simp [ha]), State.takeCue, hstation]
    dsimp only
    rw [hjudge, if_pos (admits_iff.mpr ho)]
    have hentry : f.toEntry t = entry := by
      simp only [CueFields.toEntry, clampDuration_eq, clampPeerWait_eq]
      rfl
    have hput : ((answered s t .ack .silent).chan f.slot).putEntry (f.toEntry t) = { c with cues := cuePlaced c entry } := by
      rw [putEntry_eq, hentry]
      rfl
    exact congrArg (fun x => Host.Outcome.next (answered (s.setChan f.slot x) t .ack (.ack outcome))) hput
  · have hstation : (answered s t .ack .silent).station = .active := ha
    rw [hexec (by simp [ha]) (by simp [ha]), State.takeCue, hstation]
    dsimp only
    rw [hjudge, if_neg (by simp [admits_iff, h1, h2])]
    rfl
  · rcases hb with hb | hb
    all_goals
      have hstation := hb
      rw [show s.station = (answered s t .ack .silent).station from rfl] at hstation
      rw [hexec (by simp [hb]) (by simp [hb]), State.takeCue, hstation]
      rfl

end Sys2Proof.Machine
end

section
/-!
What the operations on channels and ports that only raise reports leave of the device, the reports of a withdrawal, and a loss of the
clock (R27 to R30).
-/
namespace Sys2Proof.Machine

open Sys2Proof.Safety

/-! ## Operations on channels, ports and the queue alone -/

/-- Channels, ports and queued reports apart, the state stays as it is. -/
def State.Reported (s u : State) : Prop :=
  u = { s with channels := u.channels, ports := u.ports, line := { s.line with queue := u.line.queue, drops := u.line.drops } }

theorem State.Reported.refl (s : State) : s.Reported s := Eq.refl _

theorem State.Reported.trans {s u v : State} (h : s.Reported u) (k : u.Reported v) : s.Reported v := by
  unfold State.Reported at *
  rw [h] at k
  exact k

theorem State.Reported.modChan (s : State) (i : Slot) (f : Channel → Channel) : s.Reported (s.modChan i f) := Eq.refl _

theorem State.Reported.modPort (s : State) (p : PortId) (f : InsertPort → InsertPort) : s.Reported (s.modPort p f) := Eq.refl _

theorem State.Reported.offer (s : State) (r : Report) : s.Reported (s.offer r) := by
  rcases s.offer_cases r with ⟨_, e⟩ | ⟨_, e⟩
  · rcases s.line.offer_cases r with ⟨_, k⟩ | ⟨_, _, _, _, k⟩ | ⟨_, _, k⟩ <;> rw [e, k] <;> exact Eq.refl _
  · rw [e]
    exact .refl s

theorem State.Reported.foldl {α : Type} {f : State → α → State} (hf : ∀ (s : State) a, s.Reported (f s a)) (l : List α) (s : State) :
    s.Reported (l.foldl f s) :=
  foldl_keeps (P := fun u => s.Reported u) l (.refl s) fun u hu a _ => hu.trans (hf u a)

theorem State.Reported.arbitrate (s : State) (p : PortId) : s.Reported (s.arbitrate p) := by
  unfold State.arbitrate
  split
  · exact (State.Reported.modPort s p _).trans (.modChan _ _ _)
  · exact .refl s

theorem State.Reported.releasePort (s : State) (i : Slot) (p : PortId) : s.Reported (s.releasePort i p) := by
  unfold State.releasePort
  split
  · exact (State.Reported.modPort s p _).trans (.arbitrate _ p)
  · exact .refl s

theorem State.releasePort_line (s : State) (i : Slot) (p : PortId) : (s.releasePort i p).line = s.line := by
  unfold State.releasePort State.arbitrate
  split
  · split <;> rfl
  · rfl

theorem State.Reported.withdrawEntry (s : State) (i : Slot) (r : CutReason) (e : CueEntry) : s.Reported (s.withdrawEntry i r e) := by
  unfold State.withdrawEntry State.leaveEntry
  refine State.Reported.trans ?_ ((State.Reported.modChan _ i _).trans (.offer _ _))
  split
  · exact (State.Reported.modChan s i _).trans (.releasePort _ i _)
  · exact .refl s

theorem State.Reported.withdrawEntries (s : State) (i : Slot) (which : CueEntry → Bool) (r : CutReason) :
    s.Reported (s.withdrawEntries i which r) := by
  refine .foldl (fun u id => ?_) _ s
  unfold State.withdrawById
  split
  · exact .withdrawEntry u i r _
  · exact .refl u

theorem State.Reported.loseBreak (s : State) (i : Slot) : s.Reported (s.loseBreak i) := by
  cases hb : (s.chan i).breakRecord with
  | none => exact State.loseBreak_of_none hb ▸ .modChan s i _
  | some b =>
    rw [State.loseBreak_of_some hb]
    exact (((State.Reported.offer s _).trans (.modChan _ i _)).trans (.releasePort _ i _)).trans (.modChan _ i _)

theorem State.Reported.loseClock (s : State) (i : Slot) : s.Reported (s.loseClock i) :=
  ((State.Reported.modChan s i _).trans (.withdrawEntries _ i _ _)).trans (.loseBreak _ i)

/-! ## The reports of a withdrawal (R76) -/

theorem State.withdrawEntry_line (s : State) (i : Slot) (r : CutReason) (e : CueEntry) :
    (s.withdrawEntry i r e).line = (s.offer (.cut (s.tagOf i) .withdrawn e.cueId r 0 0)).line := by
  unfold State.withdrawEntry State.leaveEntry
  have h : s.Reported (if e.state = .cutWait then (s.modChan i Channel.leaveCutWait).releasePort i e.port else s) := by
    split
    · exact (State.Reported.modChan s i _).trans (.releasePort _ i _)
    · exact .refl s
  have hl : (if e.state = .cutWait then (s.modChan i Channel.leaveCutWait).releasePort i e.port else s).line = s.line := by
    split
    · exact State.releasePort_line ..
    · rfl
  generalize (if e.state = .cutWait then (s.modChan i Channel.leaveCutWait).releasePort i e.port else s) = u at h hl
  have ht : (u.modChan i fun c => c.dropEntry e.cueId).tagOf i = s.tagOf i := by
    rw [h]
    rfl
  rw [State.raiseCut, ht]
  refine State.offer_line_congr _ ?_ hl
  rw [h]
  rfl

/-- Reports offered one after the other depend on the queue and the station state alone. -/
theorem foldl_offer_line_congr {α : Type} (f : α → Report) (l : List α) {s u : State} (h1 : u.station = s.station) (h2 : u.line = s.line) :
    (l.foldl (fun u a => u.offer (f a)) u).line = (l.foldl (fun u a => u.offer (f a)) s).line := by
  induction l generalizing s u with
  | nil => exact h2
  | cons a l ih =>
    refine ih ?_ (State.offer_line_congr _ h1 h2)
    have hstation (v : State) : (v.offer (f a)).station = v.station := by rw [State.offer_eq]
    exact (hstation u).trans (h1.trans (hstation s).symm)

/-- Entries withdrawn by their ids, which are on the list, report in the same order. -/
theorem State.withdrawIds_line {i : Slot} (r : CutReason) {tag : BitVec 12} : ∀ {s : State} {l : List CueEntry}, CueFacts (s.chan i) →
    (∀ e ∈ l, e ∈ (s.chan i).cues) → (l.map (·.cueId)).Nodup → s.tagOf i = tag →
    ((l.map (·.cueId)).foldl (fun s id => s.withdrawById i r id) s).line =
      (l.foldl (fun u e => u.offer (.cut tag .withdrawn e.cueId r 0 0)) s).line
  | s, [], _, _, _, _ => rfl
  | s, e :: l, h, hl, hn, ht => by
    obtain ⟨he, hrest⟩ := List.forall_mem_cons.mp hl
    obtain ⟨hnot, hn⟩ := List.nodup_cons.mp hn
    have hstep : s.withdrawById i r e.cueId = s.withdrawEntry i r e := by
      rw [State.withdrawById, entry_of_nodup h.nodup he]
    have hchan : (s.withdrawEntry i r e).chan i = (s.chan i).without [e.cueId] := State.leaveEntry_chan h he _ _
    have hmem : ∀ x ∈ l, x ∈ ((s.withdrawEntry i r e).chan i).cues := fun x hx => by
      rw [hchan]
      refine List.mem_filter.mpr ⟨hrest x hx, ?_⟩
      have : x.cueId ≠ e.cueId := fun k => hnot (List.mem_map.mpr ⟨x, hx, k⟩)
      simpa using this
    have htag : (s.withdrawEntry i r e).tagOf i = tag := by
      rw [State.Reported.withdrawEntry s i r e]
      exact ht
    rw [List.map_cons, List.foldl_cons, List.foldl_cons, hstep, State.withdrawIds_line r (hchan ▸ h.without _) hmem hn htag, ← ht]
    refine foldl_offer_line_congr (fun e => .cut (s.tagOf i) .withdrawn e.cueId r 0 0) l ?_ (State.withdrawEntry_line ..)
    rw [State.Reported.withdrawEntry s i r e, State.offer_eq]

theorem State.withdrawEntries_line {s : State} {i : Slot} (h : CueFacts (s.chan i)) (which : CueEntry → Bool) (r : CutReason) :
    (s.withdrawEntries i which r).line =
      (((s.chan i).cues.filter which).foldl (fun u e => u.offer (.cut (s.tagOf i) .withdrawn e.cueId r 0 0)) s).line :=
  State.withdrawIds_line r h (fun _ he => (List.mem_filter.mp he).1) (h.nodup.sublist (List.filter_sublist.map _)) rfl

/-! ## Loss of the clock (R28, R29) -/

theorem afterLoss_state (c : Channel) : c.afterLoss.state = match c.state with
    | .network => .network
    | .cutWait => .cutWait
    | .onBreak | .rejoinWait | .returnWait => .returnWait
    | .alertWait => .alertWait
    | .alert => .alert := by
  unfold Channel.afterLoss
  cases h : c.state <;> simp [h, Channel.enterReturnWait]

theorem afterLoss_of_returning {c : Channel} : c.afterLoss.state = .returnWait →
    c.afterLoss.returnCondition = some .any ∧ c.afterLoss.returnReport = none := by
  unfold Channel.afterLoss
  cases h : c.state <;> simp [h, Channel.enterReturnWait]

theorem State.loseBreak_line (s : State) (i : Slot) : (s.loseBreak i).line = match (s.chan i).breakRecord with
    | some b => (s.offer (.cut (s.tagOf i) .cutOut b.cueId .clockLost b.cutStamp 0)).line
    | none => s.line := by
  cases hb : (s.chan i).breakRecord with
  | none =>
    rw [State.loseBreak_of_none hb]
    rfl
  | some b =>
    rw [State.loseBreak_of_some hb, State.modChan_line, State.releasePort_line]
    rfl

/-- A channel without timed entries loses its clock with the report of its break alone. -/
theorem State.loseClock_line {s : State} {i : Slot} (h : ∀ e ∈ (s.chan i).cues, e.isTimed = false) :
    (s.loseClock i).line = (s.loseBreak i).line := by
  have hchan : (s.dropClock i).chan i = { s.chan i with clock := { (s.chan i).clock with state := .noClock } } :=
    State.modChan_chan_same ..
  have hids : ((s.dropClock i).chan i).cueIds CueEntry.isTimed = [] := by
    rw [hchan, Channel.cueIds, List.filter_eq_nil_iff.mpr fun e he => by simp [h e he]]
    rfl
  have hnone : s.loseClock i = (s.dropClock i).loseBreak i := by
    show ((s.dropClock i).withdrawEntries i CueEntry.isTimed .clockLost).loseBreak i = _
    rw [State.withdrawEntries, hids]
    rfl
  rw [hnone, State.loseBreak_line, State.loseBreak_line, hchan]
  have hline (r : Report) : ((s.dropClock i).offer r).line = (s.offer r).line := State.offer_line_congr r rfl rfl
  simp only [hline]
  rfl

/-! ## The silence limit (R27) -/

/-- Settles O17: the channel's clock is lost at the silence limit. -/
theorem silenceEndsEntriesAndBreak : Obligations.SilenceEndsEntriesAndBreak := by
  intro t s i hheld
  have hexec : exec (.silenceExpiry t i) s = .next ((s.atTime t).judgeSilence i t) := exec_running rfl hheld
  have hsilent : ((s.atTime t).chan i).clock.silent t = true ↔
      (s.chan i).clock.state ≠ .noClock ∧ 2000000 < (t - (s.chan i).clock.lastTime).toNat := Clock.silent_iff ..
  rw [State.judgeSilence] at hexec
  refine ⟨fun h => ?_, fun hk hlim hl hq => ⟨(s.atTime t).loseClock i, ?_, State.Reported.loseClock (s.atTime t) i, ?_⟩⟩
  · rw [if_neg] at hexec
    · exact hexec
    · rw [hsilent]
      rintro ⟨h1, h2⟩
      exact h.elim h1 fun h => absurd h2 (not_lt.mpr h)
  · rw [if_pos (hsilent.mpr ⟨hk, hlim⟩)] at hexec
    exact hexec
  have hlawful : ((s.atTime t).chan i).Lawful := ⟨hl, cueLaw_iff.mp hq⟩
  have hc : ((s.atTime t).loseClock i).chan i = (Channel.withoutTimed
      { s.chan i with clock := { (s.chan i).clock with state := .noClock } }).dropBreak.afterLoss := State.loseClock_chan hlawful
  have hbreakless := (State.loseClock_lossOk hlawful).1
  generalize hd : (Channel.withoutTimed { s.chan i with clock := { (s.chan i).clock with state := .noClock } }).dropBreak = d at hc
  obtain ⟨_, hcues, hclock⟩ := d.afterLoss_fields
  have hdrop := Channel.dropBreak_fields (Channel.withoutTimed { s.chan i with clock := { (s.chan i).clock with state := .noClock } })
  have hstate := Channel.dropBreak_state (Channel.withoutTimed { s.chan i with clock := { (s.chan i).clock with state := .noClock } })
  rw [hd] at hdrop hstate
  rw [← hc] at hcues hclock
  refine ⟨hclock.trans hdrop.2, hcues.trans hdrop.1, hbreakless, ?_, ?_, ?_⟩
  · rw [hc, afterLoss_state, hstate]
    unfold Channel.withoutTimed
    cases (s.chan i).state <;> rfl
  · rw [hc]
    exact afterLoss_of_returning
  · intro hnone
    have hline (r : Report) : ((s.atTime t).offer r).line = (s.offer r).line := State.offer_line_congr r rfl rfl
    rw [State.loseClock_line (s := s.atTime t) hnone, State.loseBreak_line]
    simp only [hline]
    rfl

end Sys2Proof.Machine
end

section
/-!
A slot event that finds a jump (R25, R26): what the steps after the clock leave of a channel whose entries all wait for their peers.
-/
namespace Sys2Proof.Machine

open Sys2Proof.Safety

/-! ## The steps after the clock, where no entry has a splice time -/

/-- A channel whose entries all wait for their peers, and that is not in CUT_WAIT. -/
structure Channel.Untimed (c : Channel) : Prop where
  cues  : ∀ e ∈ c.cues, e.isTimed = false
  state : c.state ≠ .cutWait

theorem Channel.Untimed.no_portWait {c : Channel} (h : c.Untimed) : ∀ e ∈ c.cues, e.state ≠ .portWait := fun e he k => by
  have := h.cues e he
  simp [CueEntry.isTimed, k] at this

theorem Channel.Untimed.no_pending {c : Channel} (h : c.Untimed) (m : Bool) : c.cues.find? (CueEntry.isPending m) = none :=
  List.find?_eq_none.mpr fun e he k => by
    have := h.cues e he
    simp [CueEntry.isTimed, show e.state = .pending m by simpa [CueEntry.isPending] using k] at this

/-- Step 3 of a slot event has nothing to judge (R73). -/
theorem State.cueStep_of_untimed {s : State} {i : Slot} (h : (s.chan i).Untimed) (t : Time) : s.cueStep i t = s := by
  have hmature (c : Time) : s.matureFirst i c = s := by rw [State.matureFirst, h.no_pending]
  have hmiss (c : Time) : s.judgeMisses i c = s := by
    refine foldl_keeps (P := fun u => u = s) _ rfl fun u hu id _ => ?_
    rw [hu, State.judgeMiss]
    split
    next e he =>
      have hm : e.isMature = false := by
        have := h.cues e (entry_eq_some he).1
        unfold CueEntry.isTimed at this
        unfold CueEntry.isMature
        split at this <;> simp_all
      simp [hm]
    next => rfl
  have hproceed : s.proceed i = s := by
    rw [State.proceed, h.no_pending]
    split <;> rfl
  unfold State.cueStep
  split
  · rfl
  · dsimp only
    rw [hmature, hmiss, hproceed]

/-! ## Step 4 -/

/-- No step from the clock to the output cell touches the entries and the hold stack of such a channel. -/
structure Channel.SameList (c c' : Channel) : Prop where
  cues : c'.cues = c.cues
  hold : c'.hold = c.hold

theorem State.releasePort_chan_untimed {s : State} {i : Slot} (h : (s.chan i).Untimed) (p : PortId) :
    (s.releasePort i p).chan i = s.chan i := State.releasePort_chan_of_none h.no_portWait i p

theorem State.returnCut_sameList {s : State} {i : Slot} (h : (s.chan i).Untimed) (b : BreakRecord) (cell : StreamCell) :
    (s.chan i).SameList ((s.returnCut i b cell).chan i) := by
  have hchan : (((s.modChan i Channel.markCut).send i cell).chan i) = (s.chan i).markCut.afterSend := by
    rw [State.send_chan_same, State.modChan_chan_same]
  have hu : (((s.modChan i Channel.markCut).send i cell).chan i).Untimed := hchan ▸ ⟨h.cues, h.state⟩
  unfold State.returnCut
  rw [State.raiseBreak_chan, State.modChan_chan_same, State.releasePort_chan_untimed hu, hchan]
  exact ⟨rfl, rfl⟩

theorem State.returnFromWait_sameList {s : State} {i : Slot} (h : (s.chan i).Untimed) (cell : StreamCell) :
    (s.chan i).SameList ((s.returnFromWait i cell).chan i) := by
  have hchan : (((s.modChan i Channel.markCut).send i cell).chan i) = (s.chan i).markCut.afterSend := by
    rw [State.send_chan_same, State.modChan_chan_same]
  have hu : (((s.modChan i Channel.markCut).send i cell).chan i).Untimed := hchan ▸ ⟨h.cues, h.state⟩
  simp only [State.returnFromWait]
  rw [State.modChan_chan_same]
  split
  · rw [State.raiseDue_chan_eq, State.modChan_chan_same, State.releasePort_chan_untimed hu, hchan]
    exact ⟨rfl, rfl⟩
  · rw [hchan]
    exact ⟨rfl, rfl⟩

@[simp] theorem State.sendFill_chan_same (s : State) (i : Slot) :
    (s.sendFill i).chan i = { (s.chan i).afterSend with fillCount := countUp (s.chan i).fillCount } := by
  unfold State.sendFill
  rw [State.send_chan_same, State.modChan_chan_same]
  rfl

@[simp] theorem State.drainTruncating_chan_same (s : State) (i : Slot) (p : PortId) : (s.drainTruncating i p).chan i =
    { s.chan i with truncatedCount := countAdd (s.chan i).truncatedCount ((s.port p).drainFlush i) } := by
  unfold State.drainTruncating
  rw [State.modChan_chan_same]
  rfl

theorem State.outputWaiting_line (s : State) (i : Slot) (cell : StreamCell) : (s.outputWaiting i cell).line = s.line := by
  unfold State.outputWaiting
  split <;> rfl

/-- Step 4 of a slot event leaves the entries of such a channel and its hold stack. -/
theorem State.output_sameList {s : State} {i : Slot} (h : (s.chan i).Untimed) (cell : StreamCell) :
    (s.chan i).SameList ((s.output i cell).chan i) := by
  have send (c : StreamCell) : (s.chan i).SameList ((s.send i c).chan i) := by
    rw [State.send_chan_same]
    exact ⟨rfl, rfl⟩
  have fill : (s.chan i).SameList ((s.sendFill i).chan i) := by
    rw [State.sendFill_chan_same]
    exact ⟨rfl, rfl⟩
  have truncate (b : BreakRecord) : (s.chan i).SameList ((s.truncate i b).chan i) := by
    simp only [State.truncate, State.modChan_chan_same, State.drainTruncating_chan_same, State.sendFill_chan_same]
    exact ⟨rfl, rfl⟩
  have waiting : (s.chan i).SameList ((s.outputWaiting i cell).chan i) := by
    unfold State.outputWaiting
    split
    · exact send cell
    · exact fill
  unfold State.output
  split
  case h_1 => exact send cell
  case h_2 hs => exact absurd hs h.state
  case h_3 =>
    unfold State.outputBreak
    split
    · exact fill
    split
    · exact State.returnCut_sameList h _ _
    split
    · simp only [State.sendFill_chan_same, State.modChan_chan_same]
      exact ⟨rfl, rfl⟩
    split
    · simp only [State.endMark, State.modChan_chan_same, State.drainTruncating_chan_same, State.sendFill_chan_same]
      exact ⟨rfl, rfl⟩
    split
    · exact truncate _
    · rw [State.send_chan_same]
      exact ⟨rfl, rfl⟩
  case h_4 =>
    unfold State.outputReturnWait
    split
    · exact State.returnFromWait_sameList h cell
    · exact fill
  case h_5 =>
    unfold State.outputRejoinWait
    split
    · exact fill
    split
    · exact State.returnCut_sameList h _ _
    split
    · exact fill
    split
    · split
      · exact truncate _
      · simp only [State.rejoinCut]
        rw [State.raiseBreak_chan, State.send_chan_same, State.modChan_chan_same]
        exact ⟨rfl, rfl⟩
    · exact fill
  case h_6 =>
    simp only [State.outputAlertWait]
    split
    · split
      · simp only [State.alertCut]
        rw [State.send_chan_same, State.modChan_chan_same]
        exact ⟨rfl, rfl⟩
      · exact waiting
    · exact waiting
  case h_7 =>
    simp only [State.outputAlert]
    split
    · split
      · rw [State.send_chan_same, State.modChan_chan_same]
        exact ⟨rfl, rfl⟩
      · exact fill
    · exact fill

/-- What a network cell without a unit start, which is no return cut, leaves of a channel (R62). -/
structure Channel.StaysAway (c c' : Channel) : Prop where
  active : ∀ b, c.active = some (.brk b) → c'.active = some (.brk b)
  point  : c.state = .returnWait → c'.returnCondition = c.returnCondition

theorem State.output_staysAway {s : State} {i : Slot} (h : (s.chan i).Untimed) {cell : StreamCell} (hu : cell.unit = false) :
    (s.chan i).StaysAway ((s.output i cell).chan i) ∧ ((s.chan i).state ≠ .rejoinWait → (s.output i cell).line = s.line) := by
  have hstart : isUnitStart cell = false := by simp [isUnitStart, hu]
  have hreturn (p : Time) : returnsAt cell p = false := by simp [returnsAt, hstart]
  have away {u : State} (hs : (s.chan i).state ≠ .returnWait) (ha : (u.chan i).active = (s.chan i).active) (hl : u.line = s.line) :
      (s.chan i).StaysAway (u.chan i) ∧ ((s.chan i).state ≠ .rejoinWait → u.line = s.line) :=
    ⟨⟨fun b hb => ha.trans hb, fun k => absurd k hs⟩, fun _ => hl⟩
  have alerted {u : State} {a : AlertRef} (hs : (s.chan i).state ≠ .returnWait) (ha : (s.chan i).active = some (.alert a))
      (hl : u.line = s.line) : (s.chan i).StaysAway (u.chan i) ∧ ((s.chan i).state ≠ .rejoinWait → u.line = s.line) :=
    ⟨⟨fun b hb => by simp [ha] at hb, fun k => absurd k hs⟩, fun _ => hl⟩
  have send (c : StreamCell) : (s.chan i).StaysAway ((s.send i c).chan i) ∧ ((s.chan i).state ≠ .rejoinWait → (s.send i c).line = s.line) := by
    rw [State.send_chan_same]
    exact ⟨⟨fun _ => id, fun _ => rfl⟩, fun _ => rfl⟩
  have fill : (s.chan i).StaysAway ((s.sendFill i).chan i) ∧ ((s.chan i).state ≠ .rejoinWait → (s.sendFill i).line = s.line) := by
    rw [State.sendFill_chan_same]
    exact ⟨⟨fun _ => id, fun _ => rfl⟩, fun _ => rfl⟩
  have truncate (b : BreakRecord) (hs : (s.chan i).state ≠ .returnWait) : (s.chan i).StaysAway ((s.truncate i b).chan i) ∧
      ((s.chan i).state ≠ .rejoinWait → (s.truncate i b).line = s.line) := by
    refine away hs ?_ (by simp [State.truncate])
    simp only [State.truncate, State.modChan_chan_same, State.drainTruncating_chan_same, State.sendFill_chan_same]
    rfl
  have waiting : (s.chan i).StaysAway ((s.outputWaiting i cell).chan i) ∧
      ((s.chan i).state ≠ .rejoinWait → (s.outputWaiting i cell).line = s.line) := by
    unfold State.outputWaiting
    split
    · exact send cell
    · exact fill
  unfold State.output
  split
  case h_1 => exact send cell
  case h_2 hs => exact absurd hs h.state
  case h_3 hs =>
    have hs : (s.chan i).state ≠ .returnWait := by simp [hs]
    unfold State.outputBreak
    split
    · exact fill
    rw [if_neg (by simp [hreturn])]
    split
    · refine away hs ?_ (by simp)
      simp only [State.sendFill_chan_same, State.modChan_chan_same]
      rfl
    split
    · refine away hs ?_ (by simp [State.endMark])
      simp only [State.endMark, State.modChan_chan_same, State.drainTruncating_chan_same, State.sendFill_chan_same]
      rfl
    split
    · exact truncate _ hs
    · refine away hs ?_ (by simp)
      rw [State.send_chan_same]
      rfl
  case h_4 hs =>
    have hmet : (s.chan i).returnMet cell = false := by
      unfold Channel.returnMet
      split
      · exact hstart
      · cases (s.chan i).activeBreak <;> simp [hreturn]
      · exact hreturn _
      · rfl
    rw [State.outputReturnWait, hmet]
    exact fill
  case h_5 hs =>
    have hne : (s.chan i).state ≠ .returnWait := by simp [hs]
    unfold State.outputRejoinWait
    split
    · exact fill
    rw [if_neg (by simp [hreturn])]
    split
    · exact fill
    split
    · split
      · exact truncate _ hne
      · refine ⟨⟨fun b hb => ?_, fun k => absurd k hne⟩, fun k => absurd hs k⟩
        simp only [State.rejoinCut]
        rw [State.raiseBreak_chan, State.send_chan_same, State.modChan_chan_same]
        exact hb
    · exact fill
  case h_6 hs =>
    simp only [State.outputAlertWait]
    split
    next a _ ha _ =>
      split
      · exact alerted (by simp [hs]) ha rfl
      · exact waiting
    · exact waiting
  case h_7 hs =>
    simp only [State.outputAlert]
    split
    next a _ ha _ =>
      split
      · exact alerted (by simp [hs]) ha rfl
      · exact fill
    · exact fill

end Sys2Proof.Machine
end

section
/-!
The steps between the clock and the output cell (R63, R89, R102), and the jump of a channel's clock (R25, R26).
-/
namespace Sys2Proof.Machine

open Sys2Proof.Safety

/-! ## Steps 1 and 2 after the stamp -/

/-- What the judging of a channel's own limits leaves of a channel whose entries all wait for their peers (R63, R89, R102). -/
structure Channel.Judged (c c' : Channel) : Prop where
  cues   : c'.cues = c.cues
  active : c'.active = c.active
  state  : c.state ≠ .rejoinWait → c'.state = c.state
  point  : c.state ≠ .rejoinWait → c'.returnCondition = c.returnCondition
  never  : c.state ≠ .cutWait → c'.state ≠ .cutWait

theorem Channel.Judged.refl (c : Channel) : c.Judged c := ⟨rfl, rfl, fun _ => rfl, fun _ => rfl, id⟩

theorem Channel.Judged.trans {c d e : Channel} (h : c.Judged d) (k : d.Judged e) : c.Judged e where
  cues := k.cues.trans h.cues
  active := k.active.trans h.active
  state hc := (k.state ((h.state hc).symm ▸ hc)).trans (h.state hc)
  point hc := (k.point ((h.state hc).symm ▸ hc)).trans (h.point hc)
  never hc := k.never (h.never hc)

theorem Channel.Judged.untimed {c d : Channel} (h : c.Judged d) (k : c.Untimed) : d.Untimed :=
  ⟨fun e he => k.cues e (h.cues ▸ he), h.never k.state⟩

theorem State.judgeStale_of_none {s : State} {i : Slot} (h : (s.chan i).heldBreak = none) (t : Time) : s.judgeStale i t = s := by
  simp only [State.judgeStale, h]

/-- A held break that is not stale stays (R63). -/
theorem State.judgeStale_of_fresh {s : State} {i : Slot} {t : Time} {b : BreakRecord} (h : (s.chan i).heldBreak = some b)
    (hf : staleAt b.returnPoint ((s.chan i).clock.predict t) = false) : s.judgeStale i t = s := by
  simp only [State.judgeStale, h, hf]
  simp

theorem State.judgeStale_judged {s : State} {i : Slot} (h : (s.chan i).Untimed) (t : Time) :
    (s.chan i).Judged ((s.judgeStale i t).chan i) := by
  simp only [State.judgeStale]
  split
  · split
    next b _ _ =>
      have hchan : (((s.raiseBreak i .cutOut .expiredInHold b).modChan i Channel.dropHeldBreak).chan i) = (s.chan i).dropHeldBreak := by
        rw [State.modChan_chan_same, State.raiseBreak_chan]
      rw [State.removeHeldBreak, State.releasePort_chan_untimed (hchan ▸ ⟨h.cues, h.state⟩), hchan]
      exact ⟨rfl, rfl, fun _ => rfl, fun _ => rfl, id⟩
    next => exact .refl _
  · exact .refl _

theorem State.judgeRejoinLimit_of_state {s : State} {i : Slot} (h : (s.chan i).state ≠ .rejoinWait) (t : Time) :
    s.judgeRejoinLimit i t = s := by
  simp only [State.judgeRejoinLimit]
  split
  · rw [if_neg fun k => h k.1]
  · rfl

theorem State.judgeRejoinLimit_judged (s : State) (i : Slot) (t : Time) : (s.chan i).Judged ((s.judgeRejoinLimit i t).chan i) := by
  simp only [State.judgeRejoinLimit]
  split
  · split
    next b _ hs =>
      have hchan : (s.rejoinLimitEnd i b).chan i = (s.chan i).enterReturnWait .any none := by
        rw [State.rejoinLimitEnd, State.modChan_chan_same, State.drainPort_chan, State.raiseBreak_chan]
      rw [hchan]
      exact ⟨rfl, rfl, fun k => absurd hs.1 k, fun k => absurd hs.1 k, fun _ => by simp [Channel.enterReturnWait]⟩
    next => exact .refl _
  · exact .refl _

theorem State.judgeStarvation_judged (s : State) (i : Slot) (t : Time) :
    (s.chan i).Judged ((s.judgeStarvation i t).chan i) ∧ ((s.judgeStarvation i t).chan i).hold = (s.chan i).hold ∧
      (s.judgeStarvation i t).line = s.line := by
  unfold State.judgeStarvation
  split
  · rw [State.modChan_chan_same]
    exact ⟨⟨rfl, rfl, fun _ => rfl, fun _ => rfl, id⟩, rfl, rfl⟩
  · exact ⟨.refl _, rfl, rfl⟩

/-! ## The jump (R24 to R26) -/

/-- The channel after a jump by j that a stamp x at t made known. -/
def Channel.jumped (c : Channel) (j x t : Time) : Channel := (c.withoutTimed.shiftReturnPoints j).takeStamp .acquiring x t

theorem Channel.jumped_untimed (c : Channel) (j x t : Time) : (c.jumped j x t).Untimed := by
  refine ⟨fun e he => by simpa using (List.mem_filter.mp he).2, ?_⟩
  show (if c.state = .cutWait then .network else c.state) ≠ .cutWait
  split <;> simp_all

theorem State.jump_chan {s : State} {i : Slot} (h : CueFacts (s.chan i)) (x t : Time) :
    ((s.jump i x t).modChan i fun c => c.takeStamp .acquiring x t).chan i =
      (s.chan i).jumped (x - (s.chan i).clock.predict t) x t := by
  rw [State.modChan_chan_same, State.jump, State.modChan_chan_same, State.withdrawTimed_chan h]
  rfl

theorem State.stampArrival_of_jump {s : State} {i : Slot} {x t : Time} {disc : Bool} (hk : (s.chan i).clock.state = .locked)
    (h : (s.chan i).clock.agrees x t disc = false) :
    s.stampArrival i x t disc = (s.jump i x t).modChan i fun c => c.takeStamp .acquiring x t := by
  simp only [State.stampArrival, hk, h]
  rfl

theorem Record.break?_shift (j : Time) (r : Record) :
    (r.shift j).break? = r.break?.map fun b => { b with returnPoint := b.returnPoint + j } := by
  cases r <;> rfl

theorem heldBreak_shift (c : Channel) (j : Time) :
    (c.shiftReturnPoints j).heldBreak = c.heldBreak.map fun b => { b with returnPoint := b.returnPoint + j } := by
  have hbreaks : (c.hold.map (Record.shift j)).filterMap Record.break? =
      (c.hold.filterMap Record.break?).map fun b => { b with returnPoint := b.returnPoint + j } := by
    rw [List.filterMap_map, List.map_filterMap]
    exact List.filterMap_congr fun r _ => r.break?_shift j
  exact (congrArg List.head? hbreaks).trans List.head?_map

theorem shift_of_alerts {l : List Record} (h : ∀ r ∈ l, r.break? = none) (j : Time) : l.map (Record.shift j) = l := by
  refine (List.map_congr_left fun r hr => ?_).trans (List.map_id l)
  cases r with
  | alert a => rfl
  | brk b => exact absurd (h _ hr) (by simp [Record.break?])

/-- The state that the clock leaves of a slot event that finds a jump. -/
def State.jumpedAt (s : State) (i : Slot) (x t : Time) : State :=
  (((s.atTime t).modChan i fun c => { c with gateOpen := true }).jump i x t).modChan i fun c => c.takeStamp .acquiring x t

theorem exec_networkCellArrival_of_jump {s : State} {t : Time} {i : Slot} {cell : StreamCell} (h : Reaches s i cell)
    (hstamp : cell.stamp = true) (hlocked : (s.chan i).clock.state = .locked)
    (hlimit : (t - (s.chan i).clock.lastTime).toNat ≤ 2000000) (hj : (s.chan i).clock.agrees cell.time t cell.disc = false)
    (hu : ((s.jumpedAt i cell.time t).chan i).Untimed) :
    exec (.networkCellArrival t cell) s = .next
      (((((s.jumpedAt i cell.time t).judgeStale i t).judgeRejoinLimit i t).judgeStarvation i t).output i cell) := by
  have hchan : ((s.atTime t).modChan i fun c => { c with gateOpen := true }).chan i = { s.chan i with gateOpen := true } :=
    State.modChan_chan_same ..
  have hsilent : (((s.atTime t).modChan i fun c => { c with gateOpen := true }).chan i).clock.silent t = false := by
    rw [hchan, ← Bool.not_eq_true, Clock.silent_iff]
    exact fun k => absurd k.2 (not_lt.mpr hlimit)
  have hclock : ((s.atTime t).modChan i fun c => { c with gateOpen := true }).clockStep i t cell =
      (s.jumpedAt i cell.time t).judgeStale i t := by
    simp only [State.clockStep]
    rw [State.judgeSilence_of_not_silent hsilent, if_pos hstamp, State.stampArrival_of_jump (by rw [hchan]; exact hlocked)
      (by rw [hchan]; exact hj)]
    rfl
  have huntimed : ((((s.jumpedAt i cell.time t).judgeStale i t).judgeRejoinLimit i t).judgeStarvation i t).chan i |>.Untimed :=
    (((State.judgeStale_judged hu t).trans (State.judgeRejoinLimit_judged _ i t)).trans (State.judgeStarvation_judged _ i t).1).untimed hu
  rw [exec_networkCellArrival_of_reaches h, State.slotEvent, State.beforeOutput, hclock, State.cueStep_of_untimed huntimed]

/-- Settles O16: a jump withdraws the timed entries and moves the return points. -/
theorem jumpWithdrawsEntriesAndMovesTheReturnPoint : Obligations.JumpWithdrawsEntriesAndMovesTheReturnPoint := by
  intro t cell s i hreach hq hstamp hlocked hlimit j hj
  have hcues : CueFacts ({ s.chan i with gateOpen := true } : Channel) := (cueLaw_iff.mp hq).of_same rfl rfl Iff.rfl
  have hopen : ((s.atTime t).modChan i fun c => { c with gateOpen := true }).chan i = { s.chan i with gateOpen := true } :=
    State.modChan_chan_same ..
  have hagrees : (s.chan i).clock.agrees cell.time t cell.disc = false := by
    rw [← Bool.not_eq_true, Clock.agrees_iff]
    rintro ⟨h1, h2⟩
    rcases hj with h | h
    · exact absurd h1 (not_le.mpr h)
    · simp [h2] at h
  have hc : (s.jumpedAt i cell.time t).chan i = Channel.jumped { s.chan i with gateOpen := true } j cell.time t := by
    rw [State.jumpedAt, State.jump_chan (hopen ▸ hcues), hopen]
    rfl
  generalize hd : Channel.jumped { s.chan i with gateOpen := true } j cell.time t = d at hc
  have hu : d.Untimed := hd ▸ Channel.jumped_untimed ..
  have hexec := exec_networkCellArrival_of_jump hreach hstamp hlocked hlimit hagrees (hc ▸ hu)
  generalize hw : s.jumpedAt i cell.time t = w at hc hexec
  subst hc
  have h1 := State.judgeStale_judged hu t
  have h2 := State.judgeRejoinLimit_judged (w.judgeStale i t) i t
  obtain ⟨h3, hhold, hline⟩ := State.judgeStarvation_judged ((w.judgeStale i t).judgeRejoinLimit i t) i t
  have hjudged := (h1.trans h2).trans h3
  have huntimed := hjudged.untimed hu
  have hlist := State.output_sameList huntimed cell
  refine ⟨_, hexec, ?_, fun b hb hunit => ?_, fun b rest hs hh hrest hfresh => ?_, fun p hs hp hunit => ?_, fun hs hh hunit => ?_⟩
  · rw [hlist.cues, hjudged.cues, ← hd]
    rfl
  · refine (State.output_staysAway huntimed hunit).1.active _ ?_
    rw [hjudged.active, ← hd]
    show (s.chan i).active.map _ = _
    rw [hb]
    rfl
  · have hstate : (w.chan i).state ≠ .rejoinWait := by
      rw [← hd]
      show (if (s.chan i).state = .cutWait then _ else (s.chan i).state) ≠ _
      rcases hs with hs | hs <;> simp [hs]
    have hheld : (w.chan i).heldBreak = some { b with returnPoint := b.returnPoint + j } := by
      have hb : (s.chan i).heldBreak = some b := by simp [Channel.heldBreak, hh, Record.break?]
      rw [← hd]
      exact (heldBreak_shift (s.chan i) j).trans (by rw [hb]; rfl)
    have hstale : w.judgeStale i t = w := by
      refine State.judgeStale_of_fresh hheld ?_
      have hpredict : (w.chan i).clock.predict t = cell.time := by
        rw [← hd]
        show cell.time + (t - t) = cell.time
        rw [BitVec.sub_self, BitVec.add_zero]
      rw [hpredict]
      exact decide_eq_false (not_lt.mpr hfresh)
    rw [hlist.hold, hhold, hstale, State.judgeRejoinLimit_of_state hstate, ← hd]
    show (s.chan i).hold.map _ = _
    rw [hh, List.map_cons, shift_of_alerts hrest]
    rfl
  · have hstate : (w.chan i).state = .returnWait := by
      rw [← hd]
      show (if (s.chan i).state = .cutWait then _ else (s.chan i).state) = _
      simp [hs]
    have hne : (w.chan i).state ≠ .rejoinWait := by simp [hstate]
    rw [(State.output_staysAway huntimed hunit).1.point ((hjudged.state hne).trans hstate), hjudged.point hne, ← hd]
    show (s.chan i).returnCondition.map _ = _
    rw [hp]
    rfl
  · have hstate : (w.chan i).state ≠ .rejoinWait := by
      rw [← hd]
      show (if (s.chan i).state = .cutWait then _ else (s.chan i).state) ≠ _
      split <;> simp_all
    have hheld : (w.chan i).heldBreak = none := by
      rw [← hd]
      exact (heldBreak_shift (s.chan i) j).trans (by rw [hh]; rfl)
    rw [(State.output_staysAway huntimed hunit).2 ((hjudged.state hstate).symm ▸ hstate), hline, State.judgeStale_of_none hheld,
      State.judgeRejoinLimit_of_state hstate, ← hw]
    show (State.withdrawEntries _ i _ _).line = _
    rw [State.withdrawEntries_line (hopen ▸ hcues), hopen]
    exact foldl_offer_line_congr (fun e : CueEntry => .cut (s.tagOf i) .withdrawn e.cueId .clockJump 0 0) _ rfl rfl

end Sys2Proof.Machine
end

section
/-!
RIGHTS: its checks in their order, and the guard that withdraws the entries of every masked channel (R116, R117).
-/
namespace Sys2Proof.Machine

open Sys2Proof.Safety

/-! ## Entries that are not in CUT_WAIT leave the list one after the other (R76) -/

/-- The report of a withdrawal. -/
def withdrawal (tag : BitVec 12) (r : CutReason) (e : CueEntry) : Report := .cut tag .withdrawn e.cueId r 0 0

theorem State.withdrawIds_eq {i : Slot} (r : CutReason) : ∀ {s : State} {l : List CueEntry}, ((s.chan i).cues.map (·.cueId)).Nodup →
    (∀ e ∈ l, e ∈ (s.chan i).cues ∧ e.state ≠ .cutWait) → (l.map (·.cueId)).Nodup →
    (l.map (·.cueId)).foldl (fun s id => s.withdrawById i r id) s =
      { s.setChan i { s.chan i with cues := (s.chan i).cues.filter fun x => x.cueId ∉ l.map (·.cueId) } with
        line := ((l.map (withdrawal (s.tagOf i) r)).foldl State.offer s).line }
  | s, [], _, _, _ => by
    have hall : ((s.chan i).cues.filter fun x => x.cueId ∉ ([] : List CueEntry).map (·.cueId)) = (s.chan i).cues := by simp
    rw [hall]
    exact (congrArg (fun u : State => { u with line := s.line }) (s.setChan_self i)).symm
  | s, e :: l, hn, hl, hid => by
    obtain ⟨⟨he, hs⟩, hrest⟩ := List.forall_mem_cons.mp hl
    obtain ⟨hnot, hid⟩ := List.nodup_cons.mp hid
    have hstep : s.withdrawById i r e.cueId =
        { s.setChan i { s.chan i with cues := (s.chan i).cues.filter fun x => x.cueId != e.cueId } with
          line := (s.offer (withdrawal (s.tagOf i) r e)).line } := by
      rw [State.withdrawById, entry_of_nodup hn he]
      exact State.leaveEntry_of_ne hs ..
    rw [List.map_cons, List.foldl_cons, hstep]
    generalize hu : ({ s.setChan i { s.chan i with cues := (s.chan i).cues.filter fun x => x.cueId != e.cueId } with
      line := (s.offer (withdrawal (s.tagOf i) r e)).line } : State) = u
    have hchan : u.chan i = { s.chan i with cues := (s.chan i).cues.filter fun x => x.cueId != e.cueId } := by
      rw [← hu]
      exact State.setChan_chan_same ..
    have hmem : ∀ x ∈ l, x ∈ (u.chan i).cues ∧ x.state ≠ .cutWait := fun x hx => by
      obtain ⟨hx', hs⟩ := hrest x hx
      rw [hchan]
      exact ⟨List.mem_filter.mpr ⟨hx', by simpa using fun k => hnot (List.mem_map.mpr ⟨x, hx, k⟩)⟩, hs⟩
    have hnodup : ((u.chan i).cues.map (·.cueId)).Nodup := by
      rw [hchan]
      exact hn.sublist (List.filter_sublist.map _)
    rw [State.withdrawIds_eq r hnodup hmem hid, hchan]
    have hcues : ((s.chan i).cues.filter fun x => x.cueId != e.cueId).filter (fun x => x.cueId ∉ l.map (·.cueId)) =
        (s.chan i).cues.filter fun x => x.cueId ∉ e.cueId :: l.map (·.cueId) := by
      rw [List.filter_filter]
      refine List.filter_congr fun x _ => ?_
      by_cases h1 : x.cueId = e.cueId <;> simp [h1]
    have htag : u.tagOf i = s.tagOf i := by rw [← hu]; rfl
    have hline : ((l.map (withdrawal (s.tagOf i) r)).foldl State.offer u).line =
        ((l.map (withdrawal (s.tagOf i) r)).foldl State.offer (s.offer (withdrawal (s.tagOf i) r e))).line := by
      rw [List.foldl_map, List.foldl_map]
      refine foldl_offer_line_congr _ l ?_ (by rw [← hu])
      rw [← hu, State.offer_eq s]
      rfl
    dsimp only
    rw [hcues, htag, hline, ← hu, List.map_cons, List.foldl_cons]
    show ({ ({ s with channels := (s.channels.set i _).set i _ } : State) with line := _ } : State) = _
    rw [Vector.set_set]
    rfl

/-! ## The guard (R117) -/

/-- A guarded channel has no entries (R117). -/
def Channel.guardedOff (c : Channel) : Channel := { c with rights := .guarded, cues := [] }

/-- The reports of the guard of a channel, in cue list order. -/
def State.guardReports (s : State) (i : Slot) : List Report := (s.chan i).cues.map (withdrawal (s.tagOf i) .guarded)

theorem State.giveRights_guarded {s : State} {i : Slot} (h : CueFacts (s.chan i)) (hp : (s.chan i).pendingEntry = none) :
    s.giveRights .guarded i =
      { s.modChan i Channel.guardedOff with line := ((s.guardReports i).foldl State.offer s).line } := by
  have hl : ∀ e ∈ (s.chan i).cues, e ∈ (s.chan i).cues ∧ e.state ≠ .cutWait :=
    fun e he => ⟨he, fun k => by simpa [hp] using (h.cutWait_iff e he).mp k⟩
  have hw := State.withdrawIds_eq .guarded h.nodup hl h.nodup
  have hnone : ((s.chan i).cues.filter fun x => x.cueId ∉ (s.chan i).cues.map (·.cueId)) = [] :=
    List.filter_eq_nil_iff.mpr fun x hx => by simpa using ⟨x, hx, rfl⟩
  rw [hnone] at hw
  simp only [State.giveRights, State.withdrawEntries, Channel.cueIds, List.filter_true]
  rw [hw]
  show ({ ({ s with channels := (s.channels.set i _).set i { State.chan _ i with rights := _ } } : State) with line := _ } : State) = _
  rw [Vector.set_set]
  show ({ s.setChan i { (s.setChan i { s.chan i with cues := [] }).chan i with rights := .guarded } with line := _ } : State) = _
  rw [State.setChan_chan_same]
  rfl

theorem foldl_modChan_channels (f : Channel → Channel) : ∀ (l : List Slot) {s u : State}, u.channels = s.channels →
    (l.foldl (fun s i => s.modChan i f) u).channels = (l.foldl (fun s i => s.modChan i f) s).channels
  | [], _, _, h => h
  | i :: l, s, u, h => foldl_modChan_channels f l (by
      show u.channels.set i (f u.channels[i]) = s.channels.set i (f s.channels[i])
      rw [h])

theorem foldl_offer_station (l : List Report) (s : State) : (l.foldl State.offer s).station = s.station :=
  foldl_keeps (P := fun u => u.station = s.station) l rfl fun u hu r _ => by rw [State.offer_eq]; exact hu

/-- Channels of a list are guarded one after the other. -/
theorem foldl_giveRights_guarded : ∀ {s : State} {l : List Slot}, l.Nodup →
    (∀ i ∈ l, CueFacts (s.chan i) ∧ (s.chan i).pendingEntry = none) →
    l.foldl (fun s i => s.giveRights .guarded i) s =
      { l.foldl (fun s i => s.modChan i Channel.guardedOff) s with line := ((l.flatMap s.guardReports).foldl State.offer s).line }
  | s, [], _, _ => rfl
  | s, i :: l, hn, h => by
    obtain ⟨hi, hn⟩ := List.nodup_cons.mp hn
    obtain ⟨⟨hq, hp⟩, hrest⟩ := List.forall_mem_cons.mp h
    rw [List.foldl_cons, State.giveRights_guarded hq hp, List.foldl_cons, List.flatMap_cons, List.foldl_append]
    generalize hu : ({ s.modChan i Channel.guardedOff with line := ((s.guardReports i).foldl State.offer s).line } : State) = u
    have hchan : ∀ j ∈ l, u.chan j = s.chan j := fun j hj => by
      rw [← hu]
      exact State.modChan_chan_ne _ _ fun k => hi (k ▸ hj)
    rw [foldl_giveRights_guarded hn fun j hj => (hchan j hj).symm ▸ hrest j hj]
    have hreports : l.flatMap u.guardReports = l.flatMap s.guardReports := by
      refine List.flatMap_congr fun j hj => ?_
      rw [State.guardReports, hchan j hj, ← hu]
      rfl
    have hline : ((l.flatMap s.guardReports).foldl State.offer u).line =
        ((l.flatMap s.guardReports).foldl State.offer ((s.guardReports i).foldl State.offer s)).line := by
      refine foldl_offer_line_congr id _ ?_ (by rw [← hu])
      rw [foldl_offer_station, ← hu]
      rfl
    have hchannels := foldl_modChan_channels Channel.guardedOff l (u := u) (s := s.modChan i Channel.guardedOff) (by rw [← hu])
    rw [hreports, hline, (foldl_modChan _ l hn u).2, (foldl_modChan _ l hn (s.modChan i Channel.guardedOff)).2, hchannels, ← hu]

theorem State.applyRights_guarded {s : State} {m : ChanMask} (h : ∀ i ∈ maskSlots m, CueFacts (s.chan i) ∧ (s.chan i).pendingEntry = none) :
    s.applyRights m .guarded =
      { s with
        channels := Vector.ofFn fun i : Slot => if inMask m i then (s.chan i).guardedOff else s.chan i
        line := (((maskSlots m).flatMap s.guardReports).foldl State.offer s).line } := by
  rw [State.applyRights, foldl_giveRights_guarded (nodup_maskSlots m) h, foldl_maskSlots]

theorem State.applyRights_opened (s : State) (m : ChanMask) :
    s.applyRights m .opened =
      { s with channels := Vector.ofFn fun i : Slot => if inMask m i then { s.chan i with rights := .opened } else s.chan i } :=
  foldl_maskSlots m (fun c => { c with rights := .opened }) s

/-! ## The checks (R116) -/

theorem State.fixedOtherwise_iff (s : State) (m : ChanMask) (asked : Rights) :
    s.fixedOtherwise m asked = true ↔ ∃ i, inMask m i = true ∧ (s.chan i).fixed = true ∧ (s.chan i).rights ≠ asked := by
  simp only [State.fixedOtherwise, List.any_eq_true, mem_maskSlots, Bool.and_eq_true, bne_iff_ne]

theorem breakLive_iff (c : Channel) :
    c.breakLive = true ↔ (∃ r ∈ records c, r.break?.isSome = true) ∨ c.pendingEntry.isSome = true := by
  unfold Channel.breakLive
  rw [Bool.or_eq_true]
  refine or_congr_left ⟨fun h => ?_, fun ⟨r, hr, h⟩ => ?_⟩
  · by_contra hno
    have hbreakless : c.Breakless := fun r hr => Option.not_isSome_iff_eq_none.mp fun k => hno ⟨r, hr, k⟩
    rw [breakRecord_of_breakless hbreakless] at h
    simp at h
  · by_contra hno
    have := breakless_of_breakRecord (Option.not_isSome_iff_eq_none.mp hno) r hr
    simp [this] at h

theorem State.anyBreakLive_iff (s : State) (m : ChanMask) : s.anyBreakLive m = true ↔ ∃ i, inMask m i = true ∧
    ((∃ r ∈ records (s.chan i), r.break?.isSome = true) ∨ (s.chan i).pendingEntry.isSome = true) := by
  simp only [State.anyBreakLive, List.any_eq_true, mem_maskSlots, breakLive_iff]

theorem foldl_offer_answered (l : List Report) (s : State) (t : Time) (type : ResponseType) (d : Decision) :
    l.foldl State.offer (answered s t type d) = answered { s with line := (l.foldl State.offer s).line } t type d := by
  induction l generalizing s with
  | nil => rfl
  | cons r l ih =>
    rw [List.foldl_cons, State.offer_answered, ih, List.foldl_cons]
    have hline : (l.foldl State.offer { s with line := (s.offer r).line }).line = (l.foldl State.offer (s.offer r)).line :=
      foldl_offer_line_congr id l (by rw [State.offer_eq s]) rfl
    rw [hline]

theorem State.doRights_refused {s : State} {m : ChanMask} {asked : Rights} (h : s.judgeRights m (some asked) ≠ .accepted) :
    s.doRights m (some asked) = s.answer (s.judgeRights m (some asked)) := by
  unfold State.doRights
  split
  next ha => exact absurd ha h
  next => rfl

theorem rightsAction_cases (b : Byte) :
    (b = 1 → rightsAction b = some .opened) ∧ (b = 2 → rightsAction b = some .guarded) ∧
      (b ≠ 1 → b ≠ 2 → rightsAction b = none) := by
  refine ⟨?_, ?_, fun h1 h2 => ?_⟩
  · rintro rfl
    rfl
  · rintro rfl
    rfl
  · exact (if_neg h1).trans (if_neg h2)

/-- Settles O34: the checks of a RIGHTS frame, and its effect on every masked channel. -/
theorem rightsAreJudgedInOrderAndApplied : Obligations.RightsAreJudgedInOrderAndApplied := by
  intro t h p s hear own hcues masked action refused fixedOtherwise live reports
  refine ⟨fun hs => ?inService, fun hs => ?clash⟩
  case clash =>
    refine (State.take_receive_ifOwn hear own (by simp [hs]) (by simp [hs]) t .rights p _).trans (congrArg _ ?_)
    exact State.takeRights_of_clash hs t _
  obtain ⟨hopened, hguarded, hother⟩ := rightsAction_cases action
  have hexec : exec (.rights t h p) s = .next ((answered s t .ack .silent).doRights (word3 p) (rightsAction action)) := by
    refine (State.take_receive_ifOwn hear own (inService_ne hs).1 (inService_ne hs).2 t .rights p _).trans (congrArg _ ?_)
    exact State.takeRights_of_inService (s := answered s t .ack .silent) hs _
  have hfixed (asked : Rights) : (answered s t .ack .silent).fixedOtherwise (word3 p) asked = true ↔ fixedOtherwise asked :=
    State.fixedOtherwise_iff ..
  have hlive : (answered s t .ack .silent).anyBreakLive (word3 p) = true ↔ live := State.anyBreakLive_iff ..
  have refuses {code : OutcomeCode} {asked : Rights} (ha : rightsAction action = some asked) (hne : code ≠ .accepted)
      (hj : (answered s t .ack .silent).judgeRights (word3 p) (some asked) = code) : refused code := by
    rw [ha, State.doRights_refused (hj ▸ hne), hj] at hexec
    exact hexec
  have accepts {asked : Rights} (ha : rightsAction action = some asked)
      (hj : (answered s t .ack .silent).judgeRights (word3 p) (some asked) = .accepted) :
      exec (.rights t h p) s = .next (((answered s t .ack .silent).applyRights (word3 p) asked).answer .accepted) := by
    rw [hexec, ha]
    simp only [State.doRights, hj]
  have unlocked (hl : s.lock = false) : ¬ (answered s t .ack .silent).lock = true := by simp [answered, hl]
  refine ⟨fun h1 h2 => ?_, fun hb hl => ?_, fun hb hl hf => ?_, fun hb hl hf => ?_, fun hb hl hf hv => ?_, fun hb hl hf => ?_,
    fun hb hl hf hv => ?_⟩
  · rw [hother h1 h2] at hexec
    exact hexec
  · rcases hb with hb | hb
    · exact refuses (hopened hb) (by simp) (if_pos hl)
    · exact refuses (hguarded hb) (by simp) (if_pos hl)
  · exact refuses (hopened hb) (by simp) ((if_neg (unlocked hl)).trans (if_pos ((hfixed _).mpr hf)))
  · exact refuses (hguarded hb) (by simp) ((if_neg (unlocked hl)).trans (if_pos ((hfixed _).mpr hf)))
  · exact refuses (hguarded hb) (by simp)
      (((if_neg (unlocked hl)).trans (if_neg (mt (hfixed _).mp hf))).trans (if_pos ⟨rfl, hlive.mpr hv⟩))
  · rw [accepts (hopened hb) (((if_neg (unlocked hl)).trans (if_neg (mt (hfixed _).mp hf))).trans (if_neg (by simp))),
      State.applyRights_opened]
    rfl
  · rw [accepts (hguarded hb)
      (((if_neg (unlocked hl)).trans (if_neg (mt (hfixed _).mp hf))).trans (if_neg fun k => hv (hlive.mp k.2))),
      State.applyRights_guarded (s := answered s t .ack .silent) fun i hi => ⟨cueLaw_iff.mp (hcues.1 i), ?_⟩]
    · have hreports : (maskSlots (word3 p)).flatMap (answered s t .ack .silent).guardReports = reports := rfl
      rw [hreports, foldl_offer_answered]
      rfl
    · by_contra hp
      exact hv ⟨i, (mem_maskSlots _ i).mp hi, .inr (Option.isSome_iff_ne_none.mpr hp)⟩

end Sys2Proof.Machine
end

section
/-!
The requests to an insert port in the words of the statements (R9, R10), and CUE_CANCEL (R84 to R86).
-/
namespace Sys2Proof.Machine

open Sys2Proof.Safety

/-! ## Requests to a port (R9, R10) -/

theorem portFreed_eq (q : InsertPort) : q.freed = freed q := rfl

theorem portDrain_eq {q : InsertPort} {i : Slot} (ho : q.owner = some i) (hm : q.mode = .live) : q.drain i = drained q := by
  unfold InsertPort.drain InsertPort.drains
  rw [ho, hm]
  simp only [BEq.rfl, Bool.and_self, if_true]
  rfl

theorem portDrainFlush_eq {q : InsertPort} {i : Slot} (ho : q.owner = some i) (hm : q.mode = .live) :
    q.drainFlush i = q.queue.length := by
  unfold InsertPort.drainFlush InsertPort.drains
  rw [ho, hm]
  simp

/-- No entry of another state's channels waits for the port either. -/
theorem noneWaits_congr {s u : State} {p : PortId} (h : NoneWaits s p)
    (hc : ∀ j, u.chan j = s.chan j ∨ ((u.chan j).state = .network → ∀ e ∈ (u.chan j).cues, e.waitsFor p = false)) : NoneWaits u p := by
  intro j
  rcases hc j with k | k
  · rw [k]
    exact h j
  · exact k

theorem State.arbitrate_of_noneWaits {s : State} {p : PortId} (h : NoneWaits s p) : s.arbitrate p = s := by
  have hnone (j : Slot) : (s.chan j).candidate p = none := by
    unfold Channel.candidate
    split
    next hs => exact List.find?_eq_none.mpr fun e he => by simp [h j hs e he]
    next => rfl
  have hwinner : s.arbiterWinner p = none := List.findSome?_eq_none_iff.mpr fun j _ => by rw [hnone j]; rfl
  rw [State.arbitrate, hwinner]

/-- A release that takes effect and that no entry waits for frees the port. -/
theorem State.releasePort_of_noneWaits {s : State} {i : Slot} {p : PortId} (ho : (s.port p).owner = some i)
    (hm : (s.port p).mode ≠ .free) (h : NoneWaits s p) :
    s.releasePort i p = { s with ports := s.ports.set p (Safety.freed (s.port p)) } := by
  have hrel : (s.port p).releases i = true := by
    rw [InsertPort.releases, ho]
    simp [hm]
  have hfreed : NoneWaits (s.modPort p InsertPort.freed) p := h
  rw [State.releasePort, if_pos hrel, State.arbitrate_of_noneWaits hfreed]
  rfl

theorem State.drainPort_eq {s : State} {i : Slot} {p : PortId} (ho : (s.port p).owner = some i) (hm : (s.port p).mode = .live) :
    s.drainPort i p = { s with ports := s.ports.set p (drained (s.port p)) } := by
  rw [State.drainPort, State.modPort, portDrain_eq ho hm]
  rfl

/-- A change of channel i in a state whose channels are those of another but for channel i. -/
theorem State.modChan_of_setChan {s u : State} {i : Slot} {c : Channel} (h : u.channels = (s.setChan i c).channels)
    (f : Channel → Channel) : u.modChan i f = { u with channels := (s.setChan i (f c)).channels } := by
  have hc : u.chan i = c := by
    unfold State.chan
    rw [h]
    exact State.setChan_chan_same ..
  show ({ u with channels := u.channels.set i (f (u.chan i)) } : State) = _
  rw [hc, h]
  show ({ u with channels := (s.channels.set i c).set i (f c) } : State) = _
  rw [Vector.set_set]
  rfl

/-- An entry in CUT_WAIT that leaves the list returns its channel to NETWORK and frees its port, where no entry waits for it (R76). -/
theorem State.leaveEntry_of_cutWait {s : State} {i : Slot} {e : CueEntry} (hs : e.state = .cutWait) (hc : (s.chan i).state = .cutWait)
    (ho : (s.port e.port).owner = some i) (hm : (s.port e.port).mode ≠ .free) (hn : NoneWaits s e.port)
    (hx : ∀ x ∈ (s.chan i).cues, x.waitsFor e.port = false) (k : CutKind) (r : CutReason) :
    s.leaveEntry i e k r =
      { s.setChan i { s.chan i with cues := (s.chan i).cues.filter fun x => x.cueId != e.cueId, pendingEntry := none, state := .network } with
        ports := s.ports.set e.port (freed (s.port e.port))
        line := (s.offer (.cut (s.tagOf i) k e.cueId r 0 0)).line } := by
  have hnone : NoneWaits (s.modChan i Channel.leaveCutWait) e.port := noneWaits_congr hn fun j => by
    by_cases hj : j = i
    · subst hj
      rw [State.modChan_chan_same]
      exact .inr fun _ => hx
    · exact .inl (State.modChan_chan_ne _ _ hj)
  have hleft : (s.chan i).leaveCutWait = { s.chan i with pendingEntry := none, state := .network } := by
    simp only [Channel.leaveCutWait, hc, if_true]
  have hrelease := State.releasePort_of_noneWaits (s := s.modChan i Channel.leaveCutWait) ho hm hnone
  generalize hu : (s.modChan i Channel.leaveCutWait).releasePort i e.port = u at hrelease
  have hchannels : u.channels = (s.setChan i { s.chan i with pendingEntry := none, state := .network }).channels := by
    rw [hrelease, ← hleft]
    rfl
  have hline : ((u.modChan i fun c => c.dropEntry e.cueId).raiseCut i k r e.cueId 0).line =
      (s.offer (.cut (s.tagOf i) k e.cueId r 0 0)).line := by
    rw [hrelease]
    exact State.offer_line_congr _ rfl rfl
  unfold State.leaveEntry
  rw [if_pos hs, hu]
  dsimp only
  rw [State.raiseCut_eq] at hline ⊢
  rw [hline, State.modChan_of_setChan hchannels, hrelease]
  rfl

theorem State.drainTruncating_eq {s : State} {i : Slot} {p : PortId} (ho : (s.port p).owner = some i) (hm : (s.port p).mode = .live) :
    s.drainTruncating i p =
      { s.setChan i { s.chan i with truncatedCount := countAdd (s.chan i).truncatedCount (s.port p).queue.length } with
        ports := s.ports.set p (drained (s.port p)) } := by
  rw [State.drainTruncating, State.drainPort_eq ho hm, portDrainFlush_eq ho hm]
  rfl

/-- The held break at the top of the stack is alone there, and leaves it (R37, R39). -/
theorem dropHeldBreak_of_top {c : Channel} {b : BreakRecord} {rest : List Record} (hh : c.hold = .brk b :: rest)
    (hrest : ∀ r ∈ rest, r.break? = none) : c.heldBreak = some b ∧ c.dropHeldBreak = { c with hold := rest } := by
  refine ⟨by simp [Channel.heldBreak, hh, Record.break?], ?_⟩
  have hall : rest.filter (fun r => r.break?.isNone) = rest := List.filter_eq_self.mpr fun r hr => by rw [hrest r hr]; rfl
  rw [Channel.dropHeldBreak, hh, List.filter_cons, if_neg (by simp [Record.break?]), hall]

/-- The held break leaves its channel and frees its port, where no entry waits for it (R39). -/
theorem State.removeHeldBreak_eq {s : State} {i : Slot} {b : BreakRecord} {rest : List Record} (hh : (s.chan i).hold = .brk b :: rest)
    (hrest : ∀ r ∈ rest, r.break? = none) (ho : (s.port b.port).owner = some i) (hm : (s.port b.port).mode ≠ .free)
    (hn : NoneWaits s b.port) : s.removeHeldBreak i b =
      { s.setChan i { s.chan i with hold := rest } with ports := s.ports.set b.port (freed (s.port b.port)) } := by
  have hnone : NoneWaits (s.modChan i Channel.dropHeldBreak) b.port := noneWaits_congr hn fun j => by
    by_cases hj : j = i
    · subst hj
      rw [State.modChan_chan_same]
      exact .inr (hn j)
    · exact .inl (State.modChan_chan_ne _ _ hj)
  rw [State.removeHeldBreak, State.releasePort_of_noneWaits (s := s.modChan i Channel.dropHeldBreak) ho hm hnone, State.modChan,
    (dropHeldBreak_of_top hh hrest).2]
  rfl

/-! ## Where a cue stands (R84) -/

theorem findSome?_slots_of_one {β : Type} {f : Slot → Option β} {i : Slot} {x : β} (hi : f i = some x) (hone : ∀ j, j ≠ i → f j = none) :
    Config.slots.findSome? f = some x := by
  cases hf : Config.slots.findSome? f with
  | none => simp [List.findSome?_eq_none_iff.mp hf i (mem_slots i)] at hi
  | some y =>
    obtain ⟨j, _, hj⟩ := List.exists_of_findSome?_eq_some hf
    by_cases h : j = i
    · subst h
      exact hj.symm.trans hi
    · simp [hone j h] at hj

theorem entry_of_not_used {c : Channel} {id : Ident} (h : id ∉ usedIds c) : c.entry id = none := by
  rw [← Option.not_isSome_iff_eq_none, entry_isSome]
  rintro ⟨e, he, rfl⟩
  exact h (List.mem_append_left _ (List.mem_map_of_mem he))

theorem break_mem_records {c : Channel} {b : BreakRecord} (h : c.breakRecord = some b) : .brk b ∈ records c := by
  rcases breakRecord_cases h with h | ⟨_, h⟩
  · exact List.mem_append_left _ (by simp [activeBreak_eq_some.mp h])
  · obtain ⟨r, hr, hb⟩ := List.mem_filterMap.mp (List.mem_of_head? h)
    cases r with
    | alert a => simp [Record.break?] at hb
    | brk x =>
      obtain rfl := Option.some.inj hb
      exact List.mem_append_right _ hr

theorem break_of_not_used {c : Channel} {id : Ident} (h : id ∉ usedIds c) : c.breakRecord.filter (fun b => b.cueId == id) = none := by
  rw [Option.filter_eq_none_iff]
  intro b hb k
  refine h (List.mem_append_right _ (List.mem_filterMap.mpr ⟨_, break_mem_records hb, ?_⟩))
  simpa [Record.break?] using k

theorem findEntry_of_not_used {s : State} {id : Ident} (h : ∀ j, id ∉ usedIds (s.chan j)) : s.findEntry id = none :=
  List.findSome?_eq_none_iff.mpr fun j _ => by rw [entry_of_not_used (h j)]; rfl

theorem findBreak_of_not_used {s : State} {id : Ident} (h : ∀ j, id ∉ usedIds (s.chan j)) : s.findBreak id = none :=
  List.findSome?_eq_none_iff.mpr fun j _ => by rw [break_of_not_used (h j)]; rfl

theorem findEntry_of_entry {s : State} {id : Ident} {i : Slot} {e : CueEntry} (he : (s.chan i).entry id = some e)
    (h : ∀ j, j ≠ i → id ∉ usedIds (s.chan j)) : s.findEntry id = some (i, e) :=
  findEntry_of_one he fun j hj => entry_of_not_used (h j hj)

theorem findEntry_of_no_entry {s : State} {id : Ident} {i : Slot} (he : (s.chan i).entry id = none)
    (h : ∀ j, j ≠ i → id ∉ usedIds (s.chan j)) : s.findEntry id = none :=
  List.findSome?_eq_none_iff.mpr fun j _ => by
    by_cases hj : j = i
    · rw [hj, he]
      rfl
    · rw [entry_of_not_used (h j hj)]
      rfl

theorem findBreak_of_break {s : State} {i : Slot} {b : BreakRecord} (hb : (s.chan i).breakRecord = some b)
    (h : ∀ j, j ≠ i → b.cueId ∉ usedIds (s.chan j)) : s.findBreak b.cueId = some (i, b) := by
  refine findSome?_slots_of_one (i := i) (by rw [hb]; simp) fun j hj => ?_
  rw [break_of_not_used (h j hj)]
  rfl

/-! ## CUE_CANCEL -/

/-- Settles O28: a cue is cancelled wherever it stands. -/
theorem cueCancelEndsTheCueWhereverItStands : Obligations.CueCancelEndsTheCueWhereverItStands := by
  intro t h id s i hear own c
  have hexec (hl : s.station ≠ .listen) (hf : s.station ≠ .strapFault) :
      exec (.cueCancel t h id) s = .next ((answered s t .ack .silent).takeCancel id) :=
    State.take_receive_ifOwn hear own hl hf t .cueCancel id _
  have hcancel (ha : s.station = .active) : exec (.cueCancel t h id) s = .next ((answered s t .ack .silent).cancelCue id) := by
    rw [hexec (by simp [ha]) (by simp [ha]), State.takeCancel, show (answered s t .ack .silent).station = .active from ha]
  have hentry {e : CueEntry} (ha : s.station = .active) (hone : ∀ j, j ≠ i → id ∉ usedIds (s.chan j)) (he : c.entry id = some e) :
      exec (.cueCancel t h id) s = .next (((answered s t .ack .silent).withdrawEntry i .cancelled e).answer .accepted) := by
    rw [hcancel ha, State.cancelCue, findEntry_of_entry (s := answered s t .ack .silent) he hone]
  have hbreak {b : BreakRecord} (ha : s.station = .active) (hone : ∀ j, j ≠ i → id ∉ usedIds (s.chan j)) (he : c.entry id = none)
      (hb : c.breakRecord = some b) (hid : b.cueId = id) :
      exec (.cueCancel t h id) s = .next (((answered s t .ack .silent).cancelBreak i b).answer .accepted) := by
    subst hid
    rw [hcancel ha, State.cancelCue, findEntry_of_no_entry (s := answered s t .ack .silent) he hone]
    dsimp only
    rw [findBreak_of_break (s := answered s t .ack .silent) hb hone]
  have hactive {b : BreakRecord} (ha : s.station = .active) (hone : ∀ j, j ≠ i → id ∉ usedIds (s.chan j)) (he : c.entry id = none)
      (hb : c.active = some (.brk b)) (hid : b.cueId = id) :
      exec (.cueCancel t h id) s = .next (((answered s t .ack .silent).cancelActive i b).answer .accepted) := by
    have hbr : c.activeBreak = some b := activeBreak_eq_some.mpr hb
    rw [hbreak ha hone he (breakRecord_of_active hbr) hid, State.cancelBreak, if_pos]
    exact Option.isSome_iff_exists.mpr ⟨b, hbr⟩
  refine ⟨fun hs => ?outside, fun ha hno => ?unknown, fun e ha hone he hs => ?entry, fun e ha hone he hs hc ho hm hn hx => ?cutWait,
    fun b ha hone he hb hid hs ho hm => ?onAir, fun b ha hone he hb hid hs ho hm => ?rejoin, fun b ha hone he hb hid hs => ?returning,
    fun b rest ha hone he hb hh hrest hid ho hm hn => ?held⟩
  case outside =>
    have hstation := hs
    rw [hexec (by rcases hs with hs | hs <;> simp [hs]) (by rcases hs with hs | hs <;> simp [hs]), State.takeCancel]
    rcases hs with hs | hs <;> rw [show (answered s t .ack .silent).station = _ from hs] <;> rfl
  case unknown =>
    rw [hcancel ha, State.cancelCue, findEntry_of_not_used (s := answered s t .ack .silent) hno]
    dsimp only
    rw [findBreak_of_not_used (s := answered s t .ack .silent) hno]
    rfl
  case entry =>
    obtain ⟨_, rfl⟩ := entry_eq_some he
    rw [hentry ha hone he, State.withdrawEntry_answered hs]
    rfl
  case cutWait =>
    obtain ⟨_, rfl⟩ := entry_eq_some he
    rw [hentry ha hone he, State.withdrawEntry,
      State.leaveEntry_of_cutWait (s := answered s t .ack .silent) hs hc ho (by rw [show (answered s t .ack .silent).port e.port = s.port e.port from rfl, hm]; simp) hn hx,
      State.offer_answered]
    rfl
  case onAir =>
    rw [hactive ha hone he hb hid, State.cancelActive, show ((answered s t .ack .silent).chan i).state = .onBreak from hs]
    dsimp only
    have hdrained := State.drainTruncating_eq (s := answered s t .ack .silent) ho hm
    generalize (answered s t .ack .silent).drainTruncating i b.port = u at hdrained
    have hchannels : u.channels = (s.setChan i { c with truncatedCount := countAdd c.truncatedCount (s.port b.port).queue.length }).channels := by
      rw [hdrained]
      rfl
    rw [State.modChan_of_setChan hchannels, hdrained]
    rfl
  case rejoin =>
    rw [hactive ha hone he hb hid, State.cancelActive, show ((answered s t .ack .silent).chan i).state = .rejoinWait from hs]
    dsimp only
    rw [State.drainPort_eq (s := answered s t .ack .silent) ho hm]
    rfl
  case returning =>
    rw [hactive ha hone he hb hid, State.cancelActive, show ((answered s t .ack .silent).chan i).state = .returnWait from hs]
    have hreport : c.returnReport.map (fun _ => ReturnReport.cancelled) = if c.returnReport = none then none else some .cancelled := by
      cases c.returnReport <;> rfl
    have hwait : c.enterReturnWait .any (c.returnReport.map fun _ => .cancelled) =
        { c with returnCondition := some .any, returnReport := if c.returnReport = none then none else some .cancelled } := by
      rw [hreport, Channel.enterReturnWait, ← hs]
    exact congrArg (fun x => Host.Outcome.next (answered (s.setChan i x) t .ack (.ack .accepted))) hwait
  case held =>
    obtain ⟨hheld, hdrop⟩ := dropHeldBreak_of_top hh hrest
    have hnot : c.activeBreak = none := activeBreak_of_not_brk hb
    rw [hbreak ha hone he (breakRecord_of_held hnot ▸ hheld) hid, State.cancelBreak, if_neg]
    · have hmode : ((answered s t .ack .silent).port b.port).mode ≠ .free := by
        show (s.port b.port).mode ≠ .free
        simp [hm]
      have hremoved := State.removeHeldBreak_eq (s := answered s t .ack .silent) hh hrest ho hmode hn
      generalize hu : (answered s t .ack .silent).removeHeldBreak i b = u at hremoved
      have hline : (u.offer (.cut (u.tagOf i) .withdrawn b.cueId .cancelled b.cutStamp 0)).line =
          ((answered s t .ack .silent).offer (.cut (s.tagOf i) .withdrawn b.cueId .cancelled b.cutStamp 0)).line := by
        rw [hremoved]
        exact State.offer_line_congr _ rfl rfl
      rw [State.cancelHeld, hu, State.raiseBreak, State.raiseCut_eq, hline, State.offer_answered, hremoved, ← hid]
      rfl
    · rw [show ((answered s t .ack .silent).chan i).activeBreak = none from hnot]
      simp

end Sys2Proof.Machine
end

section
/-!
An ALERT_ON that takes no channel: its checks, the refresh, the conflict, the full table and the OBSERVE alert (R90 to R99).
-/
namespace Sys2Proof.Machine

open Sys2Proof.Safety

/-! ## The frame and its checks (R90, R94) -/

theorem State.take_receive_ifAlerts {w : Nat} {s : State} {h : FrameHeader} (hear : Hears s) (group : ToGroup s h)
    (hs : s.station = .setup ∨ s.station = .active ∨ s.station = .clash) (t : Time) (kind : FrameKind) (p : BitVec w)
    (act : State → State) :
    (s.take t fun s => s.receive kind h p fun s => if s.considersAlerts h then act s else s) =
      .next (act (answered s t kind.responseType .silent)) := by
  have hl : s.station ≠ .listen := by rcases hs with hs | hs | hs <;> simp [hs]
  have hf : s.station ≠ .strapFault := by rcases hs with hs | hs | hs <;> simp [hs]
  obtain ⟨haddr, hd⟩ := State.groupAddressed_of_toGroup group hf
  have hconsiders : (answered s t kind.responseType .silent).considersAlerts h = true := by
    rw [State.considersAlerts, Bool.and_eq_true]
    refine ⟨?_, haddr⟩
    show s.station.takesAlerts = true
    rcases hs with hs | hs | hs <;> rw [hs] <;> rfl
  rw [State.take_of_not_held hear.1, State.receive_of_hears hear hd group.2 hl, hconsiders]
  rfl

theorem exec_alertOn {s : State} {h : FrameHeader} (hear : Hears s) (group : ToGroup s h)
    (hs : s.station = .setup ∨ s.station = .active ∨ s.station = .clash) (t : Time) (p : BitVec 88) :
    exec (.alertOn t h p) s = .next ((answered s t .groupList .silent).considerAlertOn (alertOnFields p) h.source) :=
  State.take_receive_ifAlerts hear group hs t .alertOn p _

theorem alertIntact_iff (f : AlertOnFields) :
    f.intact = true ↔ f.inverted = ~~~ (f.region ++ f.control) ∧ f.control.toNat < 16 ∧ 1 ≤ f.control.toNat % 8 := by
  have hhigh : f.control.extractLsb' 4 4 = 0#4 ↔ f.control.toNat < 16 := by
    rw [← BitVec.toNat_inj, BitVec.extractLsb'_toNat, Nat.shiftRight_eq_div_pow]
    have := f.control.isLt
    show f.control.toNat / 2 ^ 4 % 2 ^ 4 = 0 ↔ _
    omega
  have hlevel : f.level = f.control.toNat % 8 := by
    rw [AlertOnFields.level, BitVec.extractLsb'_toNat]
    rfl
  unfold AlertOnFields.intact
  rw [Bool.and_eq_true, Bool.and_eq_true, beq_iff_eq, beq_iff_eq, bne_iff_ne, hhigh, hlevel, and_assoc]
  exact and_congr_right fun _ => and_congr_right fun _ => Nat.pos_iff_ne_zero.symm

theorem alertLimit_eq (n : Nat) : alertLimit n = 1000000 * (if n = 0 ∨ 3600 < n then 3600 else n) := Nat.mul_comm ..

theorem State.answerAlert_answered (s : State) (t : Time) (floor : Nat) :
    (answered s t .groupList .silent).answerAlert floor = answered s t .groupList (numberAbove s floor (s.station ≠ .clash)) := by
  have hdecide : numberAbove s floor ((s.station != .clash) = true) = numberAbove s floor (s.station ≠ .clash) := by
    unfold numberAbove
    simp only [bne_iff_ne]
  rw [← hdecide]
  exact State.answerNumber_answered s t (s.station != .clash) floor

theorem alertRecord_of_new {s : State} {id : Ident} (h : ∀ x ∈ s.alerts, x.alertId ≠ id) : s.alertRecord id = none :=
  List.find?_eq_none.mpr fun x hx => by simpa using h x hx

/-- Settles O30: an ALERT_ON up to the point where it would touch a channel. -/
theorem alertOnIsJudgedBeforeAnyChannelIsTouched : Obligations.AlertOnIsJudgedBeforeAnyChannelIsTouched := by
  intro t h p s hear group f done heard intact limit hs
  have hexec := exec_alertOn hear group hs t p
  have hintact : f.intact = true ↔ intact := alertIntact_iff f
  have considers (hi : intact) : exec (.alertOn t h p) s = .next (match s.alertRecord f.alertId with
      | some r => (answered s t .groupList .silent).repeatAlert f h.source r
      | none => (answered s t .groupList .silent).newAlert f h.source) := by
    rw [hexec, State.considerAlertOn, if_pos (hintact.mpr hi)]
    rfl
  refine ⟨fun hi => ?_, fun r hi hr => ⟨fun hsame => ?_, fun hdiff => ?_⟩, fun hi hnew => ?_⟩
  · rw [State.considerAlertOn, if_neg (mt hintact.mp hi)] at hexec
    rw [countUp_eq_bumped] at hexec
    exact hexec
  · have hc := considers hi
    rw [show s.alertRecord f.alertId = some r from hr] at hc
    dsimp only at hc
    rw [State.repeatAlert, if_pos hsame, State.refreshAlert, alertLimit_eq] at hc
    exact hc.trans (congrArg _ (State.answerAlert_answered { s with alerts := s.alerts.map fun x =>
      if x.alertId = f.alertId then { x with limitStart := t, limit := limit, source := h.source } else x } t f.floor))
  · have hc := considers hi
    rw [show s.alertRecord f.alertId = some r from hr] at hc
    dsimp only at hc
    rw [State.repeatAlert, if_neg fun k => hdiff.elim (absurd k.1) (absurd k.2), countUp_eq_bumped] at hc
    exact hc
  · have hc := considers hi
    rw [alertRecord_of_new hnew] at hc
    dsimp only at hc
    have hgoverning : (answered s t .groupList .silent).governing f.region f.scope = s.governing f.region f.scope := rfl
    rw [State.newAlert, hgoverning] at hc
    refine ⟨fun hw => ?_, fun w hw => ⟨fun hfull => ?_, fun hroom hmode => ?_⟩⟩
    · rw [hw] at hc
      exact hc
    · rw [hw] at hc
      dsimp only at hc
      rw [if_pos (by exact hfull), State.raiseAlert, State.offer_answered] at hc
      exact hc
    · rw [hw] at hc
      dsimp only at hc
      rw [if_neg (by exact not_le.mpr hroom), hmode] at hc
      dsimp only at hc
      have hrecord : f.toRecord .observe h.source t =
          { alertId := f.alertId, level := f.level, scope := f.scope, region := f.region, mode := .observe, channelSet := 0,
            limitStart := t, limit := limit, source := h.source } := by
        rw [AlertOnFields.toRecord, alertLimit_eq]
      have hadded : (answered s t .groupList .silent).addAlert (f.toRecord .observe h.source t) =
          answered (s.addAlert (f.toRecord .observe h.source t)) t .groupList .silent := rfl
      have hline : ((s.addAlert (f.toRecord .observe h.source t)).offer (.alert h.source f.alertId .observed 0 .none f.level)).line =
          (s.offer (.alert h.source f.alertId .observed 0 .none f.level)).line := State.offer_line_congr _ rfl rfl
      rw [State.observeAlert, show (answered s t .groupList .silent).timer = t from rfl, hadded, State.raiseAlert, State.offer_answered,
        hline, State.answerAlert_answered, hrecord] at hc
      exact hc

end Sys2Proof.Machine
end

section
/-!
A slot event of one channel in a normal form: the state with this record of the channel, these ports, this line and these cells sent, and
what each operation makes of it.
-/
namespace Sys2Proof.Machine

open Sys2Proof.Safety

/-- The state s with this record of channel i, these ports, this line interface and these cells sent. -/
def State.scene (s : State) (i : Slot) (c : Channel) (ports : Vector InsertPort 4) (line : LineInterface) (out : List StreamCell) : State :=
  { s with channels := s.channels.set i c, ports := ports, line := line, sout := out }

/-- The line interface after a report was offered to the state s with this line interface. -/
def State.lineAfter (s : State) (line : LineInterface) (r : Report) : LineInterface := ((s.setLine line).offer r).line

section
variable (s : State) (i : Slot) (c : Channel) (ports : Vector InsertPort 4) (line : LineInterface) (out : List StreamCell)

theorem State.setChan_scene : s.setChan i c = s.scene i c s.ports s.line s.sout := rfl

theorem State.lineAfter_own (r : Report) : s.lineAfter s.line r = (s.offer r).line := rfl

theorem State.lineAfter_atTime (t : Time) (r : Report) : (s.atTime t).lineAfter line r = s.lineAfter line r :=
  State.offer_line_congr r rfl rfl

theorem State.scene_slotDone (t : Time) (x : StreamCell) : (s.atTime t).scene i c ports line (s.sout ++ [x]) =
    { slotDone s t i c x with ports := ports, line := line } := rfl

@[simp] theorem State.scene_chan : (s.scene i c ports line out).chan i = c := State.setChan_chan_same s i c

theorem State.scene_ports (after : Vector InsertPort 4) :
    ({ s.scene i c ports line out with ports := after } : State) = s.scene i c after line out := rfl

@[simp] theorem State.scene_port (p : PortId) : (s.scene i c ports line out).port p = ports[p] := rfl

@[simp] theorem State.scene_modChan (f : Channel → Channel) :
    (s.scene i c ports line out).modChan i f = s.scene i (f c) ports line out :=
  State.modChan_of_setChan (u := s.scene i c ports line out) (s := s) (c := c) rfl f

@[simp] theorem State.scene_modPort (p : PortId) (f : InsertPort → InsertPort) :
    (s.scene i c ports line out).modPort p f = s.scene i c (ports.set p (f ports[p])) line out := rfl

@[simp] theorem State.scene_send (x : StreamCell) :
    (s.scene i c ports line out).send i x = s.scene i c.afterSend ports line (out ++ [s.rewriteAs i c x]) := by
  have hx : (s.scene i c ports line out).rewrite i x = s.rewriteAs i c x := by
    rw [State.rewrite, State.scene_chan]
    rfl
  show { (s.scene i c ports line out).modChan i Channel.afterSend with sout := out ++ [(s.scene i c ports line out).rewrite i x] } = _
  rw [hx, State.scene_modChan]
  rfl

@[simp] theorem State.scene_raiseCut (k : CutKind) (r : CutReason) (id : Ident) (x : Time) (late : Byte) :
    (s.scene i c ports line out).raiseCut i k r id x late =
      s.scene i c ports (s.lineAfter line (.cut (s.tagOf i) k id r x late)) out := by
  rw [State.raiseCut_eq]
  have hline : ((s.scene i c ports line out).offer (.cut (s.tagOf i) k id r x late)).line =
      s.lineAfter line (.cut (s.tagOf i) k id r x late) := State.offer_line_congr _ rfl rfl
  exact congrArg (fun l => s.scene i c ports l out) hline

@[simp] theorem State.scene_raiseBreak (k : CutKind) (r : CutReason) (b : BreakRecord) :
    (s.scene i c ports line out).raiseBreak i k r b =
      s.scene i c ports (s.lineAfter line (.cut (s.tagOf i) k b.cueId r b.cutStamp 0)) out := s.scene_raiseCut i c ports line out k r _ _ _

@[simp] theorem State.scene_sendFill : (s.scene i c ports line out).sendFill i =
    s.scene i { c.afterSend with fillCount := countUp c.fillCount } ports line (out ++ [s.rewriteAs i c (fillCell (s.tagOf i))]) := by
  rw [State.sendFill, State.scene_modChan, State.scene_send]
  rfl

theorem State.scene_drainPort {p : PortId} (ho : ports[p].owner = some i) (hm : ports[p].mode = .live) :
    (s.scene i c ports line out).drainPort i p = s.scene i c (ports.set p (drained ports[p])) line out := by
  rw [State.drainPort_eq (s := s.scene i c ports line out) ho hm]
  rfl

theorem State.scene_drainTruncating {p : PortId} (ho : ports[p].owner = some i) (hm : ports[p].mode = .live) :
    (s.scene i c ports line out).drainTruncating i p =
      s.scene i { c with truncatedCount := countAdd c.truncatedCount ports[p].queue.length } (ports.set p (drained ports[p])) line out := by
  rw [State.drainTruncating, State.scene_drainPort s i c ports line out ho hm, portDrainFlush_eq (q := (s.scene i c ports line out).port p) ho hm,
    State.scene_modChan]
  rfl

theorem State.scene_noneWaits {p : PortId} (h : NoneWaits s p) (hc : c.state = .network → ∀ e ∈ c.cues, e.waitsFor p = false) :
    NoneWaits (s.scene i c ports line out) p :=
  noneWaits_congr h fun j => by
    by_cases hj : j = i
    · subst hj
      rw [State.scene_chan]
      exact .inr hc
    · exact .inl (State.setChan_chan_ne s c hj)

theorem State.scene_releasePort {p : PortId} (ho : ports[p].owner = some i) (hm : ports[p].mode ≠ .free) (h : NoneWaits s p)
    (hc : c.state = .network → ∀ e ∈ c.cues, e.waitsFor p = false) :
    (s.scene i c ports line out).releasePort i p = s.scene i c (ports.set p (Safety.freed ports[p])) line out := by
  rw [State.releasePort_of_noneWaits (s := s.scene i c ports line out) ho hm (s.scene_noneWaits i c ports line out h hc)]
  rfl

end

theorem State.scene_modChan_ne (s : State) {i j : Slot} (h : j ≠ i) (c : Channel) (ports : Vector InsertPort 4) (line : LineInterface)
    (out : List StreamCell) (f : Channel → Channel) :
    (s.scene i c ports line out).modChan j f = (s.modChan j f).scene i c ports line out := by
  have hc : (s.scene i c ports line out).chan j = s.chan j := State.setChan_chan_ne s c h
  show ({ s with channels := (s.channels.set i c).set j (f ((s.scene i c ports line out).chan j)), ports := ports, line := line,
                 sout := out } : State) = _
  rw [hc, Vector.set_comm _ _ fun k => h (Fin.ext k.symm)]
  rfl

/-! ## A port that goes to the waiting entry of the lowest slot (R10) -/

theorem findSome?_slots_of_first {β : Type} {f : Slot → Option β} {j : Slot} {x : β} (hj : f j = some x) (hlow : ∀ k, k < j → f k = none) :
    Config.slots.findSome? f = some x := by
  obtain ⟨before, after, hsplit⟩ := List.append_of_mem (mem_slots j)
  have hsorted : Config.slots.Pairwise (· < ·) := by decide
  rw [hsplit] at hsorted ⊢
  have hbefore : before.findSome? f = none := List.findSome?_eq_none_iff.mpr fun k hk =>
    hlow k ((List.pairwise_append.mp hsorted).2.2 k hk j List.mem_cons_self)
  rw [List.findSome?_append, hbefore, List.findSome?_cons, hj]
  rfl

theorem State.releasePort_of_winner {s : State} {i j : Slot} {p : PortId} {e : CueEntry} (ho : (s.port p).owner = some i)
    (hm : (s.port p).mode ≠ .free) (hj : (s.chan j).state = .network) (he : (s.chan j).cues.find? (fun x => x.waitsFor p) = some e)
    (hlow : ∀ k, k < j → (s.chan k).state = .network → ∀ x ∈ (s.chan k).cues, x.waitsFor p = false) :
    s.releasePort i p = { s.modChan j fun c => c.enterCutWait e.cueId with
      ports := s.ports.set p { Safety.freed (s.port p) with mode := .reserved, owner := some j, seeking := true } } := by
  have hrel : (s.port p).releases i = true := by
    rw [InsertPort.releases, ho]
    simp [hm]
  have hcandidate : (s.chan j).candidate p = some e := by rw [Channel.candidate, if_pos hj, he]
  have hwinner : (s.modPort p InsertPort.freed).arbiterWinner p = some (j, e) := by
    refine findSome?_slots_of_first (j := j) (congrArg (Option.map fun e => (j, e)) hcandidate) fun k hk => ?_
    have hnone : (s.chan k).candidate p = none := by
      unfold Channel.candidate
      split
      next hs => exact List.find?_eq_none.mpr fun x hx => by simp [hlow k hk hs x hx]
      next => rfl
    exact congrArg (Option.map fun e => (k, e)) hnone
  rw [State.releasePort, if_pos hrel, State.arbitrate, hwinner]
  dsimp only
  have hgrant : ((s.modPort p InsertPort.freed).port p).grant j =
      { Safety.freed (s.port p) with mode := .reserved, owner := some j, seeking := true } := by
    rw [State.modPort_port_same]
    exact congrArg (fun n => ({ Safety.freed (s.port p) with mode := .reserved, owner := some j, seeking := true, drained := n } : InsertPort))
      (countAdd_zero _)
  rw [State.modPort, hgrant]
  show ({ s with channels := _, ports := (s.ports.set p _).set p _ } : State) = _
  rw [Vector.set_set]
  rfl

/-! ## What a channel takes from its port (R7, R11) -/

theorem ports_set_get (ports : Vector InsertPort 4) (p : PortId) (q : InsertPort) : (ports.set p q)[p] = q := by simp

theorem portHeadFor_eq {q : InsertPort} {i : Slot} (ho : q.owner = some i) (hm : q.mode = .reserved ∨ q.mode = .live) :
    q.headFor i = q.queue.head? := if_pos ⟨ho, hm⟩

/-- The head is taken from a port that does not seek (R11). -/
theorem portTake_eq {q : InsertPort} {head : StreamCell} {rest : List StreamCell} (hq : q.queue = head :: rest) (hs : q.seeking = false) :
    q.take = { q with queue := rest, hold := holdAt rest.length q.hold } := by
  have hseek : (q.setQueue q.queue.tail).seeking = false := hs
  rw [InsertPort.take, InsertPort.inspect, if_neg (by simp [hseek]), hq]
  rfl

/-! ## The cells of the statements -/

theorem State.rewriteAs_eq (s : State) (t : Time) {i : Slot} {c : Channel} (h : c.outSeq = (s.chan i).outSeq) (x : StreamCell) :
    (s.atTime t).rewriteAs i c x = sentAs s i x c.discDue := by
  unfold State.rewriteAs sentAs
  rw [h]
  rfl

theorem State.rewriteAs_fill (s : State) (t : Time) {i : Slot} {c : Channel} (h : c.outSeq = (s.chan i).outSeq)
    (hd : c.discDue = (s.chan i).discDue) : (s.atTime t).rewriteAs i c (fillCell (s.tagOf i)) = fillOf s i := by
  unfold State.rewriteAs fillOf fillCell
  rw [h, hd]
  rfl

/-- An undisturbed slot event in a channel state without a limit of its own, as a scene. -/
theorem exec_networkCellArrival_scene {s : State} {t : Time} {i : Slot} {cell : StreamCell} (h : Reaches s i cell)
    (hu : Undisturbed (s.chan i) t cell) (h1 : (s.chan i).state ≠ .rejoinWait) (h2 : (s.chan i).state ≠ .alertWait) :
    exec (.networkCellArrival t cell) s =
      .next (((s.atTime t).scene i ((s.chan i).opened t cell) s.ports s.line s.sout).output i cell) :=
  exec_networkCellArrival_of_undisturbed h hu h1 h2

end Sys2Proof.Machine
end

section
/-!
The break on air, its return cut, and the return from RETURN_WAIT (R79 to R83).
-/
namespace Sys2Proof.Machine

open Sys2Proof.Safety

theorem returnsAt_iff (cell : StreamCell) (p : Time) :
    returnsAt cell p = true ↔ cell.unit = true ∧ cell.stamp = true ∧ atOrAfter cell.time p = true := by
  rw [returnsAt, Bool.and_eq_true, isUnitStart_iff, and_assoc]

theorem isEndMark_iff (c : StreamCell) : isEndMark c = true ↔ c.unit = true ∧ c.stamp = false ∧ c.fill = true := by
  rw [isEndMark, Bool.and_eq_true, Bool.and_eq_true, Bool.not_eq_true', and_assoc, and_comm (a := c.fill = true)]

theorem Channel.opened_activeBreak {c : Channel} {b : BreakRecord} (h : c.active = some (.brk b)) (t : Time) (cell : StreamCell) :
    (c.opened t cell).activeBreak = some b := activeBreak_eq_some.mpr h

/-! ## The return from RETURN_WAIT (R83) -/

theorem returnMet_iff (c : Channel) (cell : StreamCell) : c.returnMet cell = true ↔
    match c.returnCondition with
      | some .any => cell.unit = true ∧ cell.stamp = true
      | some .afterBreak => (cell.unit = true ∧ cell.stamp = true) ∧
        ∃ b, c.active = some (.brk b) ∧ atOrAfter cell.time b.returnPoint = true
      | some (.afterPoint r) => (cell.unit = true ∧ cell.stamp = true) ∧ atOrAfter cell.time r = true
      | none => False := by
  unfold Channel.returnMet
  rcases c.returnCondition with _ | _ | _ | r
  · exact iff_of_false Bool.false_ne_true id
  · exact isUnitStart_iff cell
  · simp only [Option.any_eq_true, activeBreak_eq_some, returnsAt_iff]
    exact ⟨fun ⟨b, hb, h1, h2, h3⟩ => ⟨⟨h1, h2⟩, b, hb, h3⟩, fun ⟨⟨h1, h2⟩, b, hb, h3⟩ => ⟨b, hb, h1, h2, h3⟩⟩
  · exact (returnsAt_iff ..).trans and_assoc.symm

/-- Settles O26: fill until the return condition is met, then the return with the report that is due. -/
theorem returnWaitFillsUntilItsCondition : Obligations.ReturnWaitFillsUntilItsCondition := by
  intro t cell s i hreach hu hs start met c home
  have hexec := exec_networkCellArrival_scene hreach hu (by simp [hs]) (by simp [hs])
  rw [State.output_returnWait (by rw [State.scene_chan]; exact hs), State.outputReturnWait, State.scene_chan] at hexec
  have hmet : ((s.chan i).opened t cell).returnMet cell = true ↔ met := returnMet_iff ..
  have hcues : ((s.chan i).opened t cell).cues = [] := hu.2.2.2
  refine ⟨fun hno => ?_, fun hyes hnone => ?_, fun b hyes hb ho hm hn => ?_⟩
  · rw [if_neg (mt hmet.mp hno), State.scene_sendFill, countUp_eq_bumped] at hexec
    exact hexec
  · have hbreak : ((s.chan i).opened t cell).activeBreak = none :=
      activeBreak_of_not_brk fun b k => by simp [show ((s.chan i).opened t cell).active = none from hnone] at k
    rw [if_pos (hmet.mpr hyes)] at hexec
    simp only [State.returnFromWait, State.scene_chan, State.scene_modChan, State.scene_send, hbreak] at hexec
    exact hexec
  · rw [if_pos (hmet.mpr hyes)] at hexec
    simp only [State.returnFromWait, State.scene_chan, State.scene_modChan, State.scene_send, Channel.opened_activeBreak hb] at hexec
    have hstate : ((s.chan i).opened t cell).markCut.afterSend.state ≠ .network := by
      show (s.chan i).state ≠ .network
      simp [hs]
    have hfreed := State.scene_releasePort (s.atTime t) i ((s.chan i).opened t cell).markCut.afterSend s.ports s.line
      (s.sout ++ [(s.atTime t).rewriteAs i ((s.chan i).opened t cell).markCut cell]) (p := b.port) ho hm hn fun k => absurd k hstate
    rw [hfreed, State.scene_modChan] at hexec
    have hreport : ((s.chan i).opened t cell).returnReport = (s.chan i).returnReport := rfl
    rw [hexec, hreport]
    cases (s.chan i).returnReport with
    | none =>
      rw [State.raiseDue, State.scene_modChan]
      rfl
    | some r =>
      rw [State.raiseDue, State.scene_raiseBreak, State.scene_modChan, State.lineAfter_atTime, State.lineAfter_own]
      cases r <;> rfl

/-! ## The return cut of a break on air (R79) -/

/-- Settles O25: the return cut, and the port that is freed or granted anew. -/
theorem returnCutFreesThePortForTheLowestSlot : Obligations.ReturnCutFreesThePortForTheLowestSlot := by
  intro t cell s i b hreach hu hs hb hunit hstamp hpoint q c line ho hm
  have hexec := exec_networkCellArrival_scene hreach hu (by simp [hs]) (by simp [hs])
  rw [State.output_onBreak (by rw [State.scene_chan]; exact hs), State.outputBreak, State.scene_chan, Channel.opened_activeBreak hb] at hexec
  dsimp only at hexec
  rw [if_pos ((returnsAt_iff ..).mpr ⟨hunit, hstamp, hpoint⟩), State.returnCut, State.scene_modChan, State.scene_send] at hexec
  have hstate : ((s.chan i).opened t cell).markCut.afterSend.state ≠ .network := by
    show (s.chan i).state ≠ .network
    simp [hs]
  have hfree : (s.port b.port).mode ≠ .free := by
    show q.mode ≠ .free
    simp [hm]
  have hother (k : Slot) (hk : k ≠ i) : ((s.atTime t).scene i ((s.chan i).opened t cell).markCut.afterSend s.ports s.line
      (s.sout ++ [(s.atTime t).rewriteAs i ((s.chan i).opened t cell).markCut cell])).chan k = s.chan k := State.setChan_chan_ne _ _ hk
  refine ⟨fun hn => ?_, fun j e hj hnet he hlow => ?_⟩
  · have hfreed := State.scene_releasePort (s.atTime t) i ((s.chan i).opened t cell).markCut.afterSend s.ports s.line
      (s.sout ++ [(s.atTime t).rewriteAs i ((s.chan i).opened t cell).markCut cell]) (p := b.port) ho hfree hn fun k => absurd k hstate
    dsimp only at hexec
    rw [hfreed, State.scene_modChan, State.scene_raiseBreak, State.lineAfter_atTime, State.lineAfter_own] at hexec
    exact hexec
  · have hwon := State.releasePort_of_winner (s := (s.atTime t).scene i ((s.chan i).opened t cell).markCut.afterSend s.ports s.line
      (s.sout ++ [(s.atTime t).rewriteAs i ((s.chan i).opened t cell).markCut cell])) (i := i) (j := j) (p := b.port) (e := e) ho hfree
      (by rw [hother j hj]; exact hnet) (by rw [hother j hj]; exact he) fun k hk hkn => by
        by_cases hki : k = i
        · subst hki
          rw [State.scene_chan] at hkn
          exact absurd hkn hstate
        · rw [hother k hki] at hkn ⊢
          exact hlow k hk hkn
    rw [State.scene_modChan_ne _ hj] at hwon
    have hscene := hwon.trans (State.scene_ports ..)
    dsimp only at hexec
    rw [hscene, State.scene_modChan, State.scene_raiseBreak] at hexec
    have hline : ((s.atTime t).modChan j fun c => c.enterCutWait e.cueId).lineAfter s.line
        (.cut (((s.atTime t).modChan j fun c => c.enterCutWait e.cueId).tagOf i) .cutOut b.cueId .scheduled b.cutStamp 0) = line :=
      State.offer_line_congr _ rfl rfl
    rw [hline] at hexec
    exact hexec

/-! ## The break on air (R79 to R82) -/

/-- Settles O24: underrun, end mark, truncation and carriage of a break on air. -/
theorem breakOnAirCarriesItsPort : Obligations.BreakOnAirCarriesItsPort := by
  intro t cell s i b hreach hu hs hb hno q c filled ho hm hseek
  have hexec := exec_networkCellArrival_scene hreach hu (by simp [hs]) (by simp [hs])
  rw [State.output_onBreak (by rw [State.scene_chan]; exact hs), State.outputBreak, State.scene_chan, Channel.opened_activeBreak hb] at hexec
  dsimp only at hexec
  rw [if_neg fun k => hno ((returnsAt_iff ..).mp k), State.scene_port, portHeadFor_eq (q := s.ports[b.port]) ho (.inr hm)] at hexec
  refine ⟨fun hempty => ?_, fun head rest hq => ?_⟩
  · rw [show s.ports[b.port].queue = [] from hempty] at hexec
    simp only [List.head?_nil, State.scene_modChan, State.scene_sendFill, countUp_eq_bumped] at hexec
    exact hexec
  have htake : (s.ports[b.port]).take = { q with queue := rest, hold := holdAt rest.length q.hold } := portTake_eq hq hseek
  rw [show s.ports[b.port].queue = head :: rest from hq] at hexec
  simp only [List.head?_cons] at hexec
  refine ⟨fun hend => ?_, fun hcut => ?_, fun hend hcut => ?_⟩
  · rw [if_pos ((isEndMark_iff head).mpr hend), State.endMark, State.scene_modPort, State.scene_sendFill, htake] at hexec
    dsimp only at hexec
    have hset := ports_set_get s.ports b.port { q with queue := rest, hold := holdAt rest.length q.hold }
    rw [State.scene_drainTruncating _ i _ _ _ _ (by rw [hset]; exact ho) (by rw [hset]; exact hm), State.scene_modChan, hset,
      countUp_eq_bumped, Vector.set_set] at hexec
    exact hexec
  · rw [if_neg (mt (isEndMark_iff head).mp fun k => by simp [hcut.2.1] at k), if_pos, State.truncate, State.scene_sendFill,
      State.scene_drainTruncating _ i _ _ _ _ ho hm, State.scene_modChan, countUp_eq_bumped] at hexec
    · exact hexec
    · rw [Bool.and_eq_true, isUnitStart_iff, and_assoc]
      exact hcut
  · rw [if_neg (mt (isEndMark_iff head).mp hend), if_neg, State.scene_modPort, State.scene_send, htake] at hexec
    · exact hexec
    · rw [Bool.and_eq_true, isUnitStart_iff, and_assoc]
      exact hcut

end Sys2Proof.Machine
end

section
/-!
REJOIN_WAIT: the return cut, the rejoin, the truncation, the fill and the rejoin limit (R88, R89).
-/
namespace Sys2Proof.Machine

open Sys2Proof.Safety

/-- An undisturbed slot event in REJOIN_WAIT is the judging of its limit and its output (R42). -/
theorem exec_networkCellArrival_rejoinWait {s : State} {t : Time} {i : Slot} {cell : StreamCell} (h : Reaches s i cell)
    (hu : Undisturbed (s.chan i) t cell) {v : State}
    (hv : ((s.atTime t).scene i ((s.chan i).opened t cell) s.ports s.line s.sout).judgeRejoinLimit i t = v)
    (hs : (v.chan i).state ≠ .alertWait) (hc : (v.chan i).cues = []) :
    exec (.networkCellArrival t cell) s = .next (v.output i cell) := by
  obtain ⟨hsil, hj, hb, _⟩ := hu
  have hstarve : v.judgeStarvation i t = v := by rw [State.judgeStarvation, if_neg fun k => hs k.1]
  rw [exec_networkCellArrival_of_clock h hsil hj hb, State.setChan_scene]
  show Host.Outcome.next ((((((s.atTime t).scene i ((s.chan i).opened t cell) s.ports s.line s.sout).judgeRejoinLimit i t).judgeStarvation
    i t).cueStep i t).output i cell) = _
  rw [hv, hstarve, State.cueStep_of_empty hc]

/-- The rejoin limit has passed: the break gives up its port and waits for the next cut point (R89). -/
theorem State.scene_judgeRejoinLimit {s : State} {i : Slot} {c : Channel} {ports : Vector InsertPort 4} {line : LineInterface}
    {out : List StreamCell} {b : BreakRecord} {t : Time} (hs : c.state = .rejoinWait) (hb : c.active = some (.brk b))
    (ho : ports[b.port].owner = some i) (hm : ports[b.port].mode = .live) (ht : 1000000 < (t - c.rejoinWaitTime).toNat) :
    (s.scene i c ports line out).judgeRejoinLimit i t =
      s.scene i (c.enterReturnWait .any none)
        (ports.set b.port (drained ports[b.port])) (s.lineAfter line (.cut (s.tagOf i) .cutOut b.cueId .rejoinNoInsert b.cutStamp 0)) out := by
  have hbreak : c.activeBreak = some b := activeBreak_eq_some.mpr hb
  simp only [State.judgeRejoinLimit, State.scene_chan, hbreak, hs]
  rw [if_pos ⟨trivial, (limitPassed_iff ..).mpr ht⟩, State.rejoinLimitEnd, State.scene_raiseBreak, State.scene_drainPort _ i _ _ _ _ ho hm,
    State.scene_modChan]

theorem State.judgeRejoinLimit_of_limit {s : State} {i : Slot} {t : Time} (h : (t - (s.chan i).rejoinWaitTime).toNat ≤ 1000000) :
    s.judgeRejoinLimit i t = s := by
  simp only [State.judgeRejoinLimit]
  split
  · rw [if_neg fun k => absurd ((limitPassed_iff ..).mp k.2) (not_lt.mpr h)]
  · rfl

/-- Settles O27: every way on from REJOIN_WAIT. -/
theorem rejoinWaitRejoinsOrGivesUp : Obligations.RejoinWaitRejoinsOrGivesUp := by
  intro t cell s i b hheld hs hb q c home unready ho hm
  have hbreak := Channel.opened_activeBreak hb t cell
  have hopen : ((s.chan i).opened t cell).state = .rejoinWait := hs
  have inTime (hreach : Reaches s i cell) (hu : Undisturbed (s.chan i) t cell) (hlim : (t - (s.chan i).rejoinWaitTime).toNat ≤ 1000000) :
      exec (.networkCellArrival t cell) s =
        .next (((s.atTime t).scene i ((s.chan i).opened t cell) s.ports s.line s.sout).outputRejoinWait i cell) := by
    have hlimit := State.judgeRejoinLimit_of_limit (s := (s.atTime t).scene i ((s.chan i).opened t cell) s.ports s.line s.sout) (i := i)
      (t := t) (by rw [State.scene_chan]; exact hlim)
    rw [exec_networkCellArrival_rejoinWait hreach hu hlimit (by rw [State.scene_chan, hopen]; simp) (by rw [State.scene_chan]; exact hu.2.2.2),
      State.output_rejoinWait (by rw [State.scene_chan]; exact hopen)]
  have late (hreach : Reaches s i cell) (hu : Undisturbed (s.chan i) t cell) (hlim : 1000000 < (t - (s.chan i).rejoinWaitTime).toNat) :
      exec (.networkCellArrival t cell) s = .next (((s.atTime t).scene i
        (((s.chan i).opened t cell).enterReturnWait .any none)
        (s.ports.set b.port (drained q)) unready s.sout).outputReturnWait i cell) := by
    have hlimit := State.scene_judgeRejoinLimit (s := s.atTime t) (c := (s.chan i).opened t cell) (line := s.line) (out := s.sout) hopen hb ho
      hm hlim
    rw [State.lineAfter_atTime] at hlimit
    rw [exec_networkCellArrival_rejoinWait hreach hu hlimit (by rw [State.scene_chan]; simp [Channel.enterReturnWait])
      (by rw [State.scene_chan]; exact hu.2.2.2), State.output_returnWait (by rw [State.scene_chan]; rfl)]
    rfl
  refine ⟨fun hreach hu hlim hno => ?before, fun hreach hu hlim hunit hstamp hpoint hn => ?returns, fun hreach hu hlim => ⟨fun hno => ?_,
    fun hunit hstamp hn => ?_⟩, fun hlim => ?_, fun hlim => ?_⟩
  case before =>
    have hexec := inTime hreach hu hlim
    rw [State.outputRejoinWait, State.scene_chan, hbreak] at hexec
    dsimp only at hexec
    rw [if_neg fun k => hno ((returnsAt_iff ..).mp k), State.scene_port, portHeadFor_eq (q := s.ports[b.port]) ho (.inr hm)] at hexec
    have hhead {head : StreamCell} {rest : List StreamCell} (hq : q.queue = head :: rest) : s.ports[b.port].queue.head? = some head :=
      congrArg List.head? hq
    have hstart {head : StreamCell} (h1 : head.unit = true) (h2 : head.stamp = true) : isUnitStart head = true :=
      (isUnitStart_iff head).mpr ⟨h1, h2⟩
    refine ⟨fun hempty => ?_, fun head rest hq h1 h2 hpoint => ?_, fun head rest hq h1 h2 hpoint => ?_, fun head rest hq hnot => ?_⟩
    · rw [show s.ports[b.port].queue = [] from hempty] at hexec
      simp only [List.head?_nil, State.scene_sendFill, countUp_eq_bumped] at hexec
      exact hexec
    · have htake : (s.ports[b.port]).takeAtCut = { q with queue := rest, hold := holdAt rest.length q.hold, seeking := false } := by
        rw [InsertPort.takeAtCut, show s.ports[b.port].queue = head :: rest from hq]
        rfl
      have hrebase : rebase head b.offset = { head with time := head.time + b.offset } := if_pos h2
      rw [hhead hq] at hexec
      dsimp only at hexec
      rw [if_pos (hstart h1 h2), hpoint, if_neg Bool.false_ne_true, State.rejoinCut, State.scene_modPort, htake, hrebase] at hexec
      dsimp only at hexec
      rw [State.scene_modChan, State.scene_send, State.scene_raiseBreak, State.lineAfter_atTime, State.lineAfter_own] at hexec
      exact hexec
    · rw [hhead hq] at hexec
      dsimp only at hexec
      rw [if_pos (hstart h1 h2), hpoint, if_pos rfl, State.truncate, State.scene_sendFill, State.scene_drainTruncating _ i _ _ _ _ ho hm,
        State.scene_modChan, countUp_eq_bumped] at hexec
      exact hexec
    · rw [hhead hq] at hexec
      dsimp only at hexec
      rw [if_neg fun k => ?_, State.scene_sendFill, countUp_eq_bumped] at hexec
      · exact hexec
      · obtain ⟨k1, k2⟩ := (isUnitStart_iff head).mp k
        simp [k1, k2] at hnot
  case returns =>
    have hexec := inTime hreach hu hlim
    rw [State.outputRejoinWait, State.scene_chan, hbreak] at hexec
    dsimp only at hexec
    rw [if_pos ((returnsAt_iff ..).mpr ⟨hunit, hstamp, hpoint⟩), State.returnCut, State.scene_modChan, State.scene_send] at hexec
    have hfree : (s.port b.port).mode ≠ .free := by
      show q.mode ≠ .free
      simp [hm]
    have hfreed := State.scene_releasePort (s.atTime t) i ((s.chan i).opened t cell).markCut.afterSend s.ports s.line
      (s.sout ++ [(s.atTime t).rewriteAs i ((s.chan i).opened t cell).markCut cell]) (p := b.port) ho hfree hn
      fun k => absurd (hopen.symm.trans k) (by simp)
    dsimp only at hexec
    rw [hfreed, State.scene_modChan, State.scene_raiseBreak, State.lineAfter_atTime, State.lineAfter_own] at hexec
    exact hexec
  · have hexec := late hreach hu hlim
    rw [State.outputReturnWait, State.scene_chan, if_neg fun k => ?_, State.scene_sendFill, countUp_eq_bumped] at hexec
    · exact hexec
    · obtain ⟨k1, k2⟩ := (isUnitStart_iff cell).mp k
      simp [k1, k2] at hno
  · have hexec := late hreach hu hlim
    have hmet : (((s.chan i).opened t cell).enterReturnWait .any none).returnMet cell = true := (isUnitStart_iff cell).mpr ⟨hunit, hstamp⟩
    have hbreak' : (((s.chan i).opened t cell).enterReturnWait .any none).activeBreak = some b := hbreak
    have hset := ports_set_get s.ports b.port (drained q)
    rw [State.outputReturnWait, State.scene_chan, if_pos hmet] at hexec
    simp only [State.returnFromWait, State.scene_chan, State.scene_modChan, State.scene_send, hbreak'] at hexec
    rw [State.scene_releasePort (s.atTime t) i _ _ _ _ (by rw [hset]; exact ho) (by rw [hset]; simp [drained]) hn fun k => ?_, hset, State.scene_modChan,
      show (((s.chan i).opened t cell).enterReturnWait .any none).returnReport = none from rfl, State.raiseDue, State.scene_modChan,
      Vector.set_set] at hexec
    · exact hexec
    · simp [Channel.afterSend, Channel.markCut, Channel.enterReturnWait] at k
  · rw [show exec (.rejoinLimitExpiry t i) s = .next ((s.atTime t).judgeRejoinLimit i t) from exec_running rfl hheld]
    have hlimit := State.scene_judgeRejoinLimit (s := s.atTime t) (c := s.chan i) (line := s.line) (out := s.sout) hs hb ho hm hlim
    have hself : (s.atTime t).scene i (s.chan i) s.ports s.line s.sout = s.atTime t := State.setChan_self (s.atTime t) i
    rw [hself, State.lineAfter_atTime] at hlimit
    rw [hlimit]
    rfl
  · rw [show exec (.rejoinLimitExpiry t i) s = .next ((s.atTime t).judgeRejoinLimit i t) from exec_running rfl hheld,
      State.judgeRejoinLimit_of_limit (s := s.atTime t) hlim]
    rfl

end Sys2Proof.Machine
end

section
/-!
ALERT_WAIT and ALERT at a slot event, the stale held break, and the starvation limit (R63, R64, R102 to R104).
-/
namespace Sys2Proof.Machine

open Sys2Proof.Safety

/-! ## The starvation limit (R102) -/

/-- The channel record after the judging of its starvation limit in ALERT_WAIT. -/
def Channel.judgedStarved (c : Channel) (t : Time) : Channel :=
  { c with starved := c.starved || limitPassed t c.alertWaitTime starvationLimit }

theorem State.scene_judgeStarvation {s : State} {i : Slot} {c : Channel} (hs : c.state = .alertWait) (ports : Vector InsertPort 4)
    (line : LineInterface) (out : List StreamCell) (t : Time) :
    (s.scene i c ports line out).judgeStarvation i t = s.scene i (c.judgedStarved t) ports line out := by
  unfold State.judgeStarvation
  simp only [State.scene_chan, hs, true_and]
  split
  next h =>
    rw [State.scene_modChan]
    simp only [Channel.judgedStarved, h, Bool.or_true]
  next h =>
    simp only [Channel.judgedStarved, Bool.not_eq_true _ ▸ h, Bool.or_false]

/-- An undisturbed slot event in ALERT_WAIT (R42). -/
theorem exec_networkCellArrival_alertWait {s : State} {t : Time} {i : Slot} {cell : StreamCell} (h : Reaches s i cell)
    (hu : Undisturbed (s.chan i) t cell) (hs : (s.chan i).state = .alertWait) :
    exec (.networkCellArrival t cell) s = .next
      (((s.atTime t).scene i (((s.chan i).opened t cell).judgedStarved t) s.ports s.line s.sout).outputAlertWait i cell) := by
  obtain ⟨hsil, hj, hb, hc⟩ := hu
  have hstate : ((s.chan i).opened t cell).state = .alertWait := hs
  rw [exec_networkCellArrival_of_clock h hsil hj hb, State.setChan_scene, State.judgeRejoinLimit_of_state (by rw [State.scene_chan, hstate]; simp),
    State.scene_judgeStarvation hstate, State.cueStep_of_empty (by rw [State.scene_chan]; exact hc),
    State.output_alertWait (by rw [State.scene_chan]; exact hs)]
  rfl

theorem judgedStarved_starved (c : Channel) (t : Time) :
    (c.judgedStarved t).starved = true ↔ c.starved = true ∨ 2000000 < (t - c.alertWaitTime).toNat := by
  rw [Channel.judgedStarved, Bool.or_eq_true]
  exact or_congr_right (limitPassed_iff ..)

/-! ## The stale held break (R63) -/

/-- The clock step of a slot event without silence and jump moves the clock and judges the held break (R20, R63). -/
theorem State.clockStep_of_noJump {s : State} {i : Slot} {t : Time} {cell : StreamCell} (hsil : (s.chan i).clock.silent t = false)
    (hj : cell.stamp = true → (s.chan i).clock.state = .locked → (s.chan i).clock.agrees cell.time t cell.disc = true) :
    s.clockStep i t cell = (s.modChan i fun c => { c with clock := clockAfter c.clock t cell }).judgeStale i t := by
  simp only [State.clockStep, State.judgeSilence_of_not_silent hsil]
  by_cases hs : cell.stamp = true
  · rw [if_pos hs, State.stampArrival_of_noJump hs (hj hs)]
  · rw [if_neg hs, State.modChan_of_eq]
    simp [clockAfter, hs]

/-- An undisturbed slot event in ALERT with a held break, which is judged first (R42, R63). -/
theorem exec_networkCellArrival_alert {s : State} {t : Time} {i : Slot} {cell : StreamCell} (h : Reaches s i cell)
    (hu : Undisturbed { s.chan i with hold := [] } t cell) {c : Channel} {ports : Vector InsertPort 4} {line : LineInterface}
    (hv : ((s.atTime t).scene i ((s.chan i).opened t cell) s.ports s.line s.sout).judgeStale i t =
      (s.atTime t).scene i c ports line s.sout) (hs : c.state = .alert) (hc : c.cues = []) :
    exec (.networkCellArrival t cell) s = .next (((s.atTime t).scene i c ports line s.sout).outputAlert i) := by
  obtain ⟨hsil, hj, -, -⟩ := hu
  have hopen : ((s.atTime t).modChan i fun c => { c with gateOpen := true }).chan i = { s.chan i with gateOpen := true } :=
    State.modChan_chan_same ..
  have hclock := State.clockStep_of_noJump (s := (s.atTime t).modChan i fun c => { c with gateOpen := true }) (i := i) (t := t) (cell := cell)
    (by rw [hopen]; exact hsil) (by rw [hopen]; exact hj)
  have hscene : (((s.atTime t).modChan i fun c => { c with gateOpen := true }).modChan i fun c => { c with clock := clockAfter c.clock t cell }) =
      (s.atTime t).scene i ((s.chan i).opened t cell) s.ports s.line s.sout := State.modChan_modChan ..
  have hlimits := State.limits_of_state (u := (s.atTime t).scene i c ports line s.sout) (i := i) (by rw [State.scene_chan, hs]; simp)
    (by rw [State.scene_chan, hs]; simp) t
  rw [exec_networkCellArrival_of_reaches h, State.slotEvent, State.beforeOutput, hclock, hscene, hv, hlimits,
    State.cueStep_of_empty (by rw [State.scene_chan]; exact hc), State.output_alert (by rw [State.scene_chan]; exact hs)]

/-- A channel in ALERT whose reader has no cell gives fill (R104). -/
theorem State.scene_outputAlert_fill {s : State} {i : Slot} {c : Channel} {a : AlertRef} {reader : Reader} (ha : c.active = some (.alert a))
    (hr : c.reader = some reader) (hnone : s.ring.cellAt reader = none) (ports : Vector InsertPort 4) (line : LineInterface)
    (out : List StreamCell) : (s.scene i c ports line out).outputAlert i =
      s.scene i { c.afterSend with fillCount := bumped c.fillCount } ports line (out ++ [s.rewriteAs i c (fillCell (s.tagOf i))]) := by
  have hring : (s.scene i c ports line out).ring.cellAt reader = none := hnone
  simp only [State.outputAlert, State.scene_chan, ha, hr, hring]
  rw [State.scene_sendFill, countUp_eq_bumped]

theorem State.outputAlert_of_cell {s : State} {i : Slot} {a : AlertRef} {reader : Reader} {x : StreamCell}
    (ha : (s.chan i).active = some (.alert a)) (hr : (s.chan i).reader = some reader) (hx : s.ring.cellAt reader = some x) :
    s.outputAlert i = (s.modChan i fun c => { c with reader := some reader.advance }).send i (rebase x (a.offset.getD 0)) := by
  simp only [State.outputAlert, ha, hr, hx]

theorem State.outputAlertWait_of_cell {s : State} {i : Slot} {a : AlertRef} {reader : Reader} {x : StreamCell}
    (ha : (s.chan i).active = some (.alert a)) (hr : (s.chan i).reader = some reader) (hx : s.ring.cellAt reader = some x)
    (cell : StreamCell) : s.outputAlertWait i cell = s.alertCut i a reader x := by
  simp only [State.outputAlertWait, ha, hr, hx]

theorem cellAt_of_nothing {r : AlertRing} {reader : Reader} (h : reader = .awaiting ∨ ∃ q, reader = .positioned q 0) :
    r.cellAt reader = none := by
  rcases h with rfl | ⟨q, rfl⟩ <;> rfl

theorem staleAt_iff (p x : Time) : staleAt p x = true ↔ signed p x < -3600000000 := decide_eq_true_iff

/-- Settles O33: the alert cut, the alert on air, the stale held break and the starvation limit. -/
theorem alertIsCutToAndCarriedFromTheRing : Obligations.AlertIsCutToAndCarriedFromTheRing := by
  refine ⟨fun t cell s i a reader hreader ha => ?slot, fun t s i hheld => ?limit⟩
  case limit =>
    have hexec : exec (.starvationExpiry t i) s = .next ((s.atTime t).judgeStarvation i t) := exec_running rfl hheld
    rw [State.judgeStarvation] at hexec
    have hpassed : limitPassed t ((s.atTime t).chan i).alertWaitTime starvationLimit = true ↔
        2000000 < (t - (s.chan i).alertWaitTime).toNat := limitPassed_iff ..
    refine ⟨fun hs hlim => ?_, fun hno => ?_⟩
    · rw [if_pos ⟨hs, hpassed.mpr hlim⟩] at hexec
      exact hexec
    · rw [if_neg] at hexec
      · exact hexec
      · rintro ⟨k1, k2⟩
        exact hno.elim (fun h => h k1) fun h => absurd (hpassed.mp k2) (not_lt.mpr h)
  intro k c due next
  refine ⟨fun hreach hu hs => ?wait, fun hreach hu hs => ?onAir, fun b rest hreach hu hs hr hh hrest hk => ?held⟩
  case wait =>
    have hexec := exec_networkCellArrival_alertWait hreach hu hs
    have hactive : (((s.chan i).opened t cell).judgedStarved t).active = some (.alert a) := ha
    have hreads : (((s.chan i).opened t cell).judgedStarved t).reader = some reader := hreader
    have hstarved : (((s.chan i).opened t cell).judgedStarved t).starved = true ↔ due := judgedStarved_starved ..
    refine ⟨fun q n x hq hx hstamp => ?_, fun hr => ?_⟩
    · subst hq
      have hcut := State.outputAlertWait_of_cell (s := (s.atTime t).scene i (((s.chan i).opened t cell).judgedStarved t) s.ports s.line s.sout)
        (i := i) (reader := .positioned q (n + 1)) (x := x) (by rw [State.scene_chan]; exact hactive)
        (by rw [State.scene_chan]; exact hreads) hx cell
      have hrebase (d : Time) : rebase x d = { x with time := x.time + d } := if_pos hstamp
      rw [hcut, State.alertCut, State.scene_chan, hrebase] at hexec
      dsimp only at hexec
      rw [State.scene_modChan, State.scene_send] at hexec
      exact hexec
    · have hcell : ((s.atTime t).scene i (((s.chan i).opened t cell).judgedStarved t) s.ports s.line s.sout).ring.cellAt reader = none :=
        cellAt_of_nothing hr
      simp only [State.outputAlertWait, State.scene_chan, hactive, hreads, hcell, State.outputWaiting] at hexec
      refine ⟨fun hdue => ?_, fun hdue => ?_⟩
      · rw [if_pos (hstarved.mpr hdue), State.scene_send] at hexec
        have hnow : ((s.chan i).opened t cell).judgedStarved t = { (s.chan i).opened t cell with starved := true } :=
          congrArg (fun x => ({ (s.chan i).opened t cell with starved := x } : Channel)) (hstarved.mpr hdue)
        rw [hnow] at hexec
        exact hexec
      · rw [if_neg (mt hstarved.mp hdue), State.scene_sendFill, countUp_eq_bumped] at hexec
        have hnow : ((s.chan i).opened t cell).judgedStarved t = (s.chan i).opened t cell := by
          have h1 : (((s.chan i).opened t cell).judgedStarved t).starved = (s.chan i).starved := by
            rw [Bool.eq_false_iff.mpr (mt hstarved.mp hdue), Bool.eq_false_iff.mpr fun h => hdue (.inl h)]
          exact congrArg (fun x => ({ (s.chan i).opened t cell with starved := x } : Channel)) h1
        rw [hnow] at hexec
        exact hexec
  case onAir =>
    have hjudge : ((s.atTime t).scene i ((s.chan i).opened t cell) s.ports s.line s.sout).judgeStale i t =
        (s.atTime t).scene i ((s.chan i).opened t cell) s.ports s.line s.sout :=
      State.judgeStale_of_none (by rw [State.scene_chan]; exact hu.2.2.1) t
    have hexec := exec_networkCellArrival_alert hreach ⟨hu.1, hu.2.1, rfl, hu.2.2.2⟩ hjudge hs hu.2.2.2
    refine ⟨fun q n x d hq hx hd => ?_, fun hr => ?_⟩
    · subst hq
      rw [State.outputAlert_of_cell (s := (s.atTime t).scene i ((s.chan i).opened t cell) s.ports s.line s.sout) (i := i) (a := a)
        (reader := .positioned q (n + 1)) (x := x) (by rw [State.scene_chan]; exact ha)
        (by rw [State.scene_chan]; exact hreader) hx, State.scene_modChan, State.scene_send, hd] at hexec
      exact hexec
    · rw [State.scene_outputAlert_fill (c := (s.chan i).opened t cell) ha hreader (cellAt_of_nothing hr)] at hexec
      exact hexec
  case held =>
    obtain ⟨hheld, hdrop⟩ := dropHeldBreak_of_top hh hrest
    intro past
    have hbreak : ((s.chan i).opened t cell).heldBreak = some b := hheld
    refine ⟨fun hfresh => ?_, fun hstale ho hm hn => ?_⟩
    · have hjudge : ((s.atTime t).scene i ((s.chan i).opened t cell) s.ports s.line s.sout).judgeStale i t =
          (s.atTime t).scene i ((s.chan i).opened t cell) s.ports s.line s.sout := by
        refine State.judgeStale_of_fresh (b := b) (by rw [State.scene_chan]; exact hbreak) ?_
        rw [State.scene_chan, ← Bool.not_eq_true, staleAt_iff]
        exact not_lt.mpr hfresh
      have hexec := exec_networkCellArrival_alert hreach hu hjudge hs hu.2.2.2
      rw [State.scene_outputAlert_fill (c := (s.chan i).opened t cell) ha hreader (cellAt_of_nothing hr)] at hexec
      exact hexec
    · have hdropped : ((s.chan i).opened t cell).dropHeldBreak = Channel.opened { s.chan i with hold := rest } t cell :=
        congrArg (fun c : Channel => c.opened t cell) hdrop
      have hjudge : ((s.atTime t).scene i ((s.chan i).opened t cell) s.ports s.line s.sout).judgeStale i t =
          (s.atTime t).scene i (Channel.opened { s.chan i with hold := rest } t cell)
            (s.ports.set b.port (freed (s.port b.port))) (s.offer (.cut (s.tagOf i) .cutOut b.cueId .expiredInHold b.cutStamp 0)).line
            s.sout := by
        have hnot (h : (Channel.opened { s.chan i with hold := rest } t cell).state = .network) :
            ∀ e ∈ (Channel.opened { s.chan i with hold := rest } t cell).cues, e.waitsFor b.port = false :=
          absurd (hs.symm.trans h) (by simp)
        have hcond : ((s.chan i).opened t cell).clock.state ≠ .noClock ∧
            staleAt b.returnPoint (((s.chan i).opened t cell).clock.predict t) = true := ⟨hk, (staleAt_iff ..).mpr hstale⟩
        simp only [State.judgeStale, State.scene_chan, hbreak]
        rw [if_pos hcond, State.scene_raiseBreak, State.removeHeldBreak, State.scene_modChan, hdropped,
          State.scene_releasePort (s.atTime t) i _ _ _ _ ho hm hn hnot, State.lineAfter_atTime,
          State.lineAfter_own]
        rfl
      have hexec := exec_networkCellArrival_alert hreach hu hjudge hs hu.2.2.2
      rw [State.scene_outputAlert_fill (c := Channel.opened { s.chan i with hold := rest } t cell) ha hreader (cellAt_of_nothing hr)] at hexec
      exact hexec

end Sys2Proof.Machine
end

section
/-!
The one entry of a channel at a slot event: maturity, the reserve request, the miss (R73 to R76), and the cut-in (R77, R78).
-/
namespace Sys2Proof.Machine

open Sys2Proof.Safety

theorem State.preroll_eq (s : State) : s.preroll = 100000 * (s.prerollByte.toNat : Int) := by
  rw [State.preroll, Nat.mul_comm]
  exact Int.natCast_mul ..

theorem atOrAfter_iff (x y : Time) : atOrAfter x y = true ↔ 0 ≤ signed x y := by
  unfold atOrAfter signed
  rw [decide_eq_true_iff, BitVec.toInt_eq_toNat_cond]
  have := (diff x y).isLt
  split <;> omega

/-! ## Entries that leave the list of a scene (R76) -/

section
variable (s : State) (i : Slot) (c : Channel) (ports : Vector InsertPort 4) (line : LineInterface) (out : List StreamCell)

theorem State.scene_missEntry_of_ne {e : CueEntry} (h : e.state ≠ .cutWait) (r : CutReason) :
    (s.scene i c ports line out).missEntry i r e =
      s.scene i { c with cues := c.cues.filter fun x => x.cueId != e.cueId, missCount := bumped c.missCount } ports
        (s.lineAfter line (.cut (s.tagOf i) .missed e.cueId r 0 0)) out := by
  rw [State.missEntry, State.leaveEntry, if_neg h, State.scene_modChan, State.scene_raiseCut, State.scene_modChan, countUp_eq_bumped]
  rfl

theorem State.scene_missEntry_of_cutWait {e : CueEntry} (h : e.state = .cutWait) (hc : c.state = .cutWait)
    (ho : ports[e.port].owner = some i) (hm : ports[e.port].mode ≠ .free) (hn : NoneWaits s e.port)
    (hx : ∀ x ∈ c.cues, x.waitsFor e.port = false) (r : CutReason) :
    (s.scene i c ports line out).missEntry i r e =
      s.scene i { c with cues := c.cues.filter fun x => x.cueId != e.cueId, pendingEntry := none, state := .network
                         missCount := bumped c.missCount } (ports.set e.port (freed ports[e.port]))
        (s.lineAfter line (.cut (s.tagOf i) .missed e.cueId r 0 0)) out := by
  have hleft : c.leaveCutWait = { c with pendingEntry := none, state := .network } := by
    simp only [Channel.leaveCutWait, hc, if_true]
  rw [State.missEntry, State.leaveEntry, if_pos h, State.scene_modChan, hleft,
    State.scene_releasePort s i { c with pendingEntry := none, state := .network } ports line out ho hm hn fun _ => hx,
    State.scene_modChan, State.scene_raiseCut, State.scene_modChan, countUp_eq_bumped]
  rfl

end

/-! ## The cue list at a slot event of a channel with one entry (R73) -/

theorem entry_of_one {c : Channel} {e : CueEntry} (h : c.cues = [e]) : c.entry e.cueId = some e := by
  rw [Channel.entry, h]
  simp

theorem State.judgeMisses_of_one {s : State} {i : Slot} {e : CueEntry} (h : (s.chan i).cues = [e]) (x : Time) :
    s.judgeMisses i x = if e.isMature = true ∧ e.late s.lateLimit x = true then s.missEntry i (s.missReason i e) e else s := by
  have hids : (s.chan i).cueIds (fun _ => true) = [e.cueId] := by
    rw [Channel.cueIds, h]
    rfl
  rw [State.judgeMisses, hids, List.foldl_cons, List.foldl_nil, State.judgeMiss, entry_of_one h]
  simp only [Bool.and_eq_true]

theorem State.proceed_of_nil {s : State} {i : Slot} (h : (s.chan i).cues = []) : s.proceed i = s := by
  rw [State.proceed, h]
  split <;> rfl

theorem State.proceed_of_state {s : State} {i : Slot} (h : (s.chan i).state ≠ .network) : s.proceed i = s := by
  rw [State.proceed, if_neg fun k => h k.1]

theorem late_iff {e : CueEntry} {sp : Time} (h : e.splice = some sp) (s : State) (x : Time) :
    e.late s.lateLimit x = true ↔ (10000 * s.lateLimitByte.toNat : Int) < signed x sp := by
  rw [CueEntry.late, h, State.lateLimit_eq]
  exact decide_eq_true_iff

theorem matures_iff {e : CueEntry} {sp : Time} (h : e.splice = some sp) (s : State) (x : Time) :
    e.matures s.preroll x = true ↔ signed sp x ≤ (100000 * s.prerollByte.toNat : Int) := by
  rw [CueEntry.matures, h, State.preroll_eq]
  exact decide_eq_true_iff

theorem State.cueStep_of_clock {s : State} {i : Slot} (h : (s.chan i).clock.state ≠ .noClock) (t : Time) :
    s.cueStep i t = ((s.matureFirst i ((s.chan i).clock.predict t)).judgeMisses i ((s.chan i).clock.predict t)).proceed i := by
  rw [State.cueStep, if_neg h]

/-- The slot event of a channel with entries that nothing else disturbs (R42). -/
theorem exec_networkCellArrival_cues {s : State} {t : Time} {i : Slot} {cell : StreamCell} (h : Reaches s i cell)
    (hu : Undisturbed { s.chan i with cues := [] } t cell) (h1 : (s.chan i).state ≠ .rejoinWait) (h2 : (s.chan i).state ≠ .alertWait) :
    exec (.networkCellArrival t cell) s =
      .next ((((s.atTime t).scene i ((s.chan i).opened t cell) s.ports s.line s.sout).cueStep i t).output i cell) := by
  obtain ⟨hsil, hj, hb, -⟩ := hu
  rw [exec_networkCellArrival_of_clock h hsil hj hb,
    State.limits_of_state (by rw [State.setChan_chan_same]; exact h1) (by rw [State.setChan_chan_same]; exact h2)]
  rfl

/-! ## The cut-in (R77, R78) -/

/-- The channel time at the slot event of a stamp is the stamp (R20). -/
theorem clockAfter_predict {cell : StreamCell} (h : cell.stamp = true) (k : Clock) (t : Time) :
    (clockAfter k t cell).predict t = cell.time ∧ (clockAfter k t cell).state ≠ .noClock := by
  unfold clockAfter
  rw [if_pos h]
  refine ⟨?_, ?_⟩
  · show cell.time + (t - t) = cell.time
    rw [BitVec.sub_self, BitVec.add_zero]
  · cases k.state with
    | noClock => simp
    | acquiring =>
      dsimp only
      split <;> simp
    | locked => simp

theorem portGoLive_eq {q : InsertPort} {i : Slot} {head : StreamCell} {rest : List StreamCell} (ho : q.owner = some i)
    (hm : q.mode = .reserved) (hq : q.queue = head :: rest) :
    q.goLive i = { q with mode := .live, seeking := false, queue := rest, hold := holdAt rest.length q.hold } := by
  rw [InsertPort.goLive, if_pos ho, hm]
  dsimp only
  rw [InsertPort.takeAtCut, hq]
  rfl

/-- Settles O23: cut-in, carriage and miss of the entry in CUT_WAIT at a network cut point. -/
theorem cutInAtTheFirstCutPointFromTheSpliceTime : Obligations.CutInAtTheFirstCutPointFromTheSpliceTime := by
  intro t cell s i e sp hreach hu hs hcues he hp hsp hunit hstamp u q late ho hm hstarts
  have hexec := exec_networkCellArrival_cues hreach hu (by simp [hs]) (by simp [hs])
  generalize hopen : (s.chan i).opened t cell = c at hexec
  have hc : c.cues = [e] := hopen ▸ hcues
  have hstate : c.state = .cutWait := hopen ▸ hs
  have hpend : c.pendingEntry = some e.cueId := hopen ▸ hp
  obtain ⟨hnow, hclock⟩ := clockAfter_predict hstamp (s.chan i).clock t
  have hnow : c.clock.predict t = u := hopen ▸ hnow
  have hclock : c.clock.state ≠ .noClock := hopen ▸ hclock
  have hstart : isUnitStart cell = true := (isUnitStart_iff cell).mpr ⟨hunit, hstamp⟩
  have hmature : ((s.atTime t).scene i c s.ports s.line s.sout).matureFirst i u = (s.atTime t).scene i c s.ports s.line s.sout := by
    rw [State.matureFirst, State.scene_chan, hc]
    simp [CueEntry.isPending, he]
  have hmiss := State.judgeMisses_of_one (s := (s.atTime t).scene i c s.ports s.line s.sout) (i := i) (e := e) (by rw [State.scene_chan]; exact hc) u
  have hlate : (e.isMature = true ∧ e.late ((s.atTime t).scene i c s.ports s.line s.sout).lateLimit u = true) ↔ late < signed u sp := by
    rw [late_iff hsp, CueEntry.isMature, he]
    exact ⟨fun k => k.2, fun k => ⟨rfl, k⟩⟩
  have hstep : ((s.atTime t).scene i c s.ports s.line s.sout).cueStep i t =
      (((s.atTime t).scene i c s.ports s.line s.sout).judgeMisses i u).proceed i := by
    rw [State.cueStep_of_clock (by rw [State.scene_chan]; exact hclock), State.scene_chan, hnow, hmature]
  rw [hstep, hmiss] at hexec
  have hout : ¬ late < signed u sp → exec (.networkCellArrival t cell) s =
      .next (((s.atTime t).scene i c s.ports s.line s.sout).outputCutWait i cell) := by
    intro h
    rw [if_neg (mt hlate.mp h), State.proceed_of_state (by rw [State.scene_chan, hstate]; simp),
      State.output_cutWait (by rw [State.scene_chan]; exact hstate)] at hexec
    exact hexec
  have hentry : c.cutWaitEntry = some e := by
    rw [Channel.cutWaitEntry, hpend]
    exact entry_of_one hc
  have hhead : (s.ports[e.port]).headFor i = q.queue.head? := portHeadFor_eq ho (.inl hm)
  refine ⟨fun head rest hq h1 h2 => ?cut, fun h1 h2 => ?carry, fun h1 hn => ?miss⟩
  case cut =>
    have hcut := hout (not_lt.mpr h2)
    have hheadStart : isUnitStart head = true := hstarts head (by rw [hq]; rfl)
    rw [State.outputCutWait, State.scene_chan, hentry] at hcut
    dsimp only at hcut
    rw [hsp] at hcut
    dsimp only at hcut
    rw [if_neg fun k => by simp [hstart, (atOrAfter_iff cell.time sp).mpr h1] at k, if_neg, State.scene_port, hhead, hq] at hcut
    · simp only [List.head?_cons] at hcut
      rw [if_pos hheadStart, State.cutIn, State.scene_modPort, portGoLive_eq (q := s.ports[e.port]) ho hm hq] at hcut
      dsimp only at hcut
      rw [State.scene_modChan, State.scene_send, State.scene_raiseCut, State.lineAfter_atTime, State.lineAfter_own] at hcut
      have hdrop : c.dropEntry e.cueId = { c with cues := [] } := by
        rw [Channel.dropEntry, hc]
        simp
      have hlength : e.toBreak u head.time =
          { cueId := e.cueId, port := e.port, offset := u - head.time, returnPoint := u + BitVec.ofNat 36 (1000 * e.duration),
            duration := e.duration, earlyReturn := e.earlyReturn, cutStamp := u } := by
        rw [CueEntry.toBreak, breakLength_eq]
        rfl
      have hrebase : rebase head (u - head.time) = { head with time := u } := by
        rw [rebase, if_pos ((isUnitStart_iff head).mp hheadStart).2, add_sub_cancel]
      rw [show cell.time = u from rfl, hdrop, hlength] at hcut
      dsimp only at hcut
      rw [hrebase] at hcut
      subst hopen
      exact hcut
    · rw [State.lateLimit_eq]
      exact not_lt.mpr h2
  case carry =>
    have hcarry := hout (not_lt.mpr h2)
    subst hopen
    rw [State.outputCutWait, State.scene_chan, hentry] at hcarry
    dsimp only at hcarry
    rw [hsp] at hcarry
    dsimp only at hcarry
    by_cases hbefore : atOrAfter cell.time sp = false
    · rw [if_pos (.inr hbefore), State.scene_send] at hcarry
      exact hcarry
    · have hempty : q.queue = [] := h1.resolve_left fun k => hbefore (Bool.eq_false_iff.mpr fun h => by
        exact absurd ((atOrAfter_iff cell.time sp).mp h) (not_le.mpr k))
      rw [if_neg fun k => k.elim (by simp [hstart]) hbefore, if_neg, State.scene_port, hhead, hempty] at hcarry
      · simp only [List.head?_nil, State.scene_send] at hcarry
        exact hcarry
      · rw [State.lateLimit_eq]
        exact not_lt.mpr h2
  case miss =>
    have hreason : ((s.atTime t).scene i c s.ports s.line s.sout).missReason i e = if q.queue = [] then .insertNotReady else .noCutPoint := by
      rw [State.missReason, he]
      dsimp only
      rw [State.scene_port, InsertPort.readyFor, hhead]
      cases hq : q.queue with
      | nil => simp
      | cons head rest => simp [hstarts head (by rw [hq]; rfl)]
    have hfree : (s.ports[e.port]).mode ≠ .free := by
      show q.mode ≠ .free
      simp [hm]
    rw [if_pos (hlate.mpr h1), hreason, State.scene_missEntry_of_cutWait (s.atTime t) i c s.ports s.line s.sout he hstate ho hfree hn
      (by simp [hc, CueEntry.waitsFor, he]), State.proceed_of_nil, State.output_network, State.scene_send, State.lineAfter_atTime,
      State.lineAfter_own] at hexec
    · have hfilter : c.cues.filter (fun x => x.cueId != e.cueId) = [] := by simp [hc]
      rw [hfilter] at hexec
      subst hopen
      exact hexec
    · rw [State.scene_chan]
    · rw [State.scene_chan, hc]
      simp

/-! ## Maturity and the reserve request (R73, R74) -/

theorem portGrant_eq (q : InsertPort) (i : Slot) :
    let start := q.queue.dropWhile fun x => !(x.unit && x.stamp)
    q.grant i = { q with mode := .reserved, owner := some i, seeking := true, queue := start, hold := holdAt start.length q.hold
                         drained := countAdd q.drained (q.queue.length - start.length) } := by
  unfold InsertPort.grant InsertPort.inspect
  rw [if_pos rfl]
  rfl

/-- The entry, PENDING and mature (R73). -/
def CueEntry.matured (e : CueEntry) : CueEntry := { e with state := .pending true }

/-- The entry is PENDING and mature after the test of R73, where its mark is set or its splice time near. -/
theorem State.scene_matureFirst {s : State} {i : Slot} {c : Channel} {e : CueEntry} {sp : Time} {m : Bool} (hc : c.cues = [e])
    (he : e.state = .pending m) (hsp : e.splice = some sp) (ports : Vector InsertPort 4) (line : LineInterface) (out : List StreamCell)
    (x : Time) :
    (m = true ∨ signed sp x ≤ (100000 * s.prerollByte.toNat : Int) → (s.scene i c ports line out).matureFirst i x =
      s.scene i { c with cues := [{ e with state := .pending true }] } ports line out) ∧
    (m = false → (100000 * s.prerollByte.toNat : Int) < signed sp x → (s.scene i c ports line out).matureFirst i x =
      s.scene i c ports line out) := by
  have hmatures : e.matures (s.scene i c ports line out).preroll x = true ↔ signed sp x ≤ (100000 * s.prerollByte.toNat : Int) :=
    matures_iff hsp ..
  have hset (f : CueEntry → CueEntry) : c.modEntry e.cueId f = { c with cues := [f e] } := by
    rw [Channel.modEntry, hc]
    simp
  rw [State.matureFirst, State.scene_chan, hc]
  cases m with
  | true =>
    have hsame : ({ c with cues := [{ e with state := .pending true }] } : Channel) = c := by rw [← he, ← hc]
    have hfind : [e].find? (CueEntry.isPending false) = none := by simp [CueEntry.isPending, he]
    rw [hfind, hsame]
    exact ⟨fun _ => rfl, fun h => by simp at h⟩
  | false =>
    have hfind : [e].find? (CueEntry.isPending false) = some e := by simp [CueEntry.isPending, he]
    rw [hfind]
    dsimp only
    refine ⟨fun h => ?_, fun _ h => if_neg (mt hmatures.mp (not_le.mpr h))⟩
    rw [if_pos (hmatures.mpr (h.resolve_left (by simp))), State.scene_modChan, hset]

/-- No cut point from the splice time on: the network cell is carried (R77). -/
theorem State.outputCutWait_before {s : State} {i : Slot} {e : CueEntry} {sp : Time} {cell : StreamCell}
    (he : (s.chan i).cutWaitEntry = some e) (hsp : e.splice = some sp) (h : isUnitStart cell = false ∨ atOrAfter cell.time sp = false) :
    s.outputCutWait i cell = s.send i cell := by
  simp only [State.outputCutWait, he, hsp]
  exact if_pos h

/-- Settles O22: the one entry of a channel in NETWORK waits, reserves its port, waits for it, or is missed. -/
theorem matureEntryReservesItsPort : Obligations.MatureEntryReservesItsPort := by
  intro t cell s i e sp m hreach hu hs hcues he hsp hno k now q start out hk
  have hexec := exec_networkCellArrival_cues hreach hu (by simp [hs]) (by simp [hs])
  generalize hopen : (s.chan i).opened t cell = c at hexec
  have hc : c.cues = [e] := hopen ▸ hcues
  have hstate : c.state = .network := hopen ▸ hs
  have hnow : c.clock.predict t = now := by rw [← hopen]; rfl
  have hclock : c.clock.state ≠ .noClock := hopen ▸ hk
  obtain ⟨hmature, hwait⟩ := State.scene_matureFirst (s := s.atTime t) (i := i) hc he hsp s.ports s.line s.sout now
  rw [State.cueStep_of_clock (by rw [State.scene_chan]; exact hclock), State.scene_chan, hnow] at hexec
  have hmiss := State.judgeMisses_of_one (s := (s.atTime t).scene i { c with cues := [e.matured] } s.ports s.line s.sout) (i := i)
    (e := e.matured) (by rw [State.scene_chan]) now
  have hlate : (e.matured.isMature = true ∧
      e.matured.late ((s.atTime t).scene i { c with cues := [e.matured] } s.ports s.line s.sout).lateLimit now = true) ↔
      (10000 * s.lateLimitByte.toNat : Int) < signed now sp := by
    rw [late_iff (e := e.matured) hsp]
    exact and_iff_right rfl
  have hasks (h1 : m = true ∨ signed sp now ≤ (100000 * s.prerollByte.toNat : Int)) (h2 : signed now sp ≤ (10000 * s.lateLimitByte.toNat : Int)) :
      exec (.networkCellArrival t cell) s = .next
        ((((s.atTime t).scene i { c with cues := [e.matured] } s.ports s.line s.sout).reserve i e.matured).output i cell) := by
    have hcond : (((s.atTime t).scene i { c with cues := [e.matured] } s.ports s.line s.sout).chan i).state = .network ∧
        (((s.atTime t).scene i { c with cues := [e.matured] } s.ports s.line s.sout).chan i).hasPortWait = false := by
      rw [State.scene_chan]
      exact ⟨hstate, rfl⟩
    rw [hmature h1] at hexec
    rw [show ({ e with state := .pending true } : CueEntry) = e.matured from rfl, hmiss, if_neg (mt hlate.mp (not_lt.mpr h2)), State.proceed,
      if_pos hcond, State.scene_chan] at hexec
    exact hexec
  have hcell : isUnitStart cell = false ∨ atOrAfter cell.time sp = false := hno.imp_left fun h => by simp [isUnitStart, h]
  refine ⟨fun h1 h2 => ?_, fun h1 h2 h3 => ?_, fun h1 h2 h3 => ?_, fun h1 h2 => ?_⟩
  · have hidle : ((s.atTime t).scene i c s.ports s.line s.sout).proceed i = (s.atTime t).scene i c s.ports s.line s.sout := by
      rw [State.proceed, State.scene_chan, hc]
      split
      · simp [CueEntry.isPending, he, h1]
      · rfl
    rw [hwait h1 h2, State.judgeMisses_of_one (e := e) (by rw [State.scene_chan]; exact hc), if_neg, hidle,
      State.output_network (by rw [State.scene_chan]; exact hstate), State.scene_send] at hexec
    · subst hopen
      exact hexec
    · simp [CueEntry.isMature, he, h1]
  · have hreserved := hasks h1 h2
    rw [State.reserve, if_pos (by exact h3), State.scene_modPort, State.scene_modChan,
      show (s.ports[e.matured.port]).grant i = _ from portGrant_eq q i] at hreserved
    have hcut : Channel.enterCutWait { c with cues := [e.matured] } e.matured.cueId =
        { c with cues := [{ e with state := .cutWait }], pendingEntry := some e.cueId, state := .cutWait } := by
      simp [Channel.enterCutWait, Channel.modEntry, CueEntry.matured]
    have hentry : Channel.cutWaitEntry { c with cues := [{ e with state := .cutWait }], pendingEntry := some e.cueId, state := .cutWait } =
        some { e with state := .cutWait } := entry_of_one (e := { e with state := .cutWait }) rfl
    rw [hcut, State.output_cutWait (by rw [State.scene_chan]),
      State.outputCutWait_before (e := { e with state := .cutWait }) (by rw [State.scene_chan]; exact hentry) hsp hcell,
      State.scene_send] at hreserved
    subst hopen
    exact hreserved
  · have hrefused := hasks h1 h2
    have hwaits : Channel.modEntry { c with cues := [e.matured] } e.matured.cueId (fun e => { e with state := .portWait }) =
        { c with cues := [{ e with state := .portWait }] } := by
      simp [Channel.modEntry, CueEntry.matured]
    rw [State.reserve, if_neg (by exact h3), State.scene_modChan, hwaits,
      State.output_network (by rw [State.scene_chan]; exact hstate), State.scene_send] at hrefused
    subst hopen
    exact hrefused
  · have hreason : ((s.atTime t).scene i { c with cues := [e.matured] } s.ports s.line s.sout).missReason i e.matured = .noCutPoint := by
      simp only [State.missReason, CueEntry.matured, State.scene_chan, hstate]
      rfl
    have hfilter : [e.matured].filter (fun x => x.cueId != e.matured.cueId) = [] := by simp
    rw [hmature h1] at hexec
    rw [show ({ e with state := .pending true } : CueEntry) = e.matured from rfl, hmiss, if_pos (hlate.mpr h2), hreason,
      State.scene_missEntry_of_ne _ _ _ _ _ _ (by simp [CueEntry.matured])] at hexec
    dsimp only at hexec
    rw [hfilter, State.proceed_of_nil (by rw [State.scene_chan]), State.output_network (by rw [State.scene_chan]; exact hstate),
      State.scene_send, State.lineAfter_atTime, State.lineAfter_own] at hexec
    subst hopen
    exact hexec

end Sys2Proof.Machine
end

section
/-!
Every slot event sends one cell (R3, R15, R42, R43): the operations that send none, and the outputs that send one.
-/
namespace Sys2Proof.Machine

open Sys2Proof.Safety

/-! ## Operations that send no cell -/

/-- The fields of a channel record that the output port reads: its sequence count, its start gate and its DISC due. -/
structure Channel.SameFront (c c' : Channel) : Prop where
  outSeq : c'.outSeq = c.outSeq
  gate   : c'.gateOpen = c.gateOpen
  due    : c'.discDue = c.discDue

/-- No cell has been sent, and the output port would send the same. -/
structure State.Silent (s u : State) : Prop where
  sout  : u.sout = s.sout
  base  : u.blockBase = s.blockBase
  front : ∀ j, (s.chan j).SameFront (u.chan j)

namespace State.Silent

theorem refl (s : State) : s.Silent s := ⟨rfl, rfl, fun _ => ⟨rfl, rfl, rfl⟩⟩

theorem trans {s u v : State} (h : s.Silent u) (k : u.Silent v) : s.Silent v :=
  ⟨k.sout.trans h.sout, k.base.trans h.base, fun j => ⟨(k.front j).outSeq.trans (h.front j).outSeq,
    (k.front j).gate.trans (h.front j).gate,
    (k.front j).due.trans (h.front j).due⟩⟩

theorem foldl {α : Type} {f : State → α → State} (hf : ∀ (s : State) a, s.Silent (f s a)) (l : List α) (s : State) :
    s.Silent (l.foldl f s) :=
  foldl_keeps (P := fun u => s.Silent u) l (refl s) fun u hu a _ => hu.trans (hf u a)

theorem modChan {s : State} {i : Slot} {f : Channel → Channel} (h : (s.chan i).SameFront (f (s.chan i))) : s.Silent (s.modChan i f) := by
  refine ⟨rfl, rfl, fun j => ?_⟩
  by_cases hj : j = i
  · rw [hj, State.modChan_chan_same]
    exact h
  · rw [State.modChan_chan_ne _ _ hj]
    exact ⟨rfl, rfl, rfl⟩

theorem modPort (s : State) (p : PortId) (f : InsertPort → InsertPort) : s.Silent (s.modPort p f) :=
  ⟨rfl, rfl, fun _ => ⟨rfl, rfl, rfl⟩⟩

theorem offer (s : State) (r : Report) : s.Silent (s.offer r) := by
  rw [State.offer_eq]
  exact ⟨rfl, rfl, fun _ => ⟨rfl, rfl, rfl⟩⟩

theorem arbitrate (s : State) (p : PortId) : s.Silent (s.arbitrate p) := by
  unfold State.arbitrate
  split
  · exact (modPort s p _).trans (modChan ⟨rfl, rfl, rfl⟩)
  · exact refl s

theorem releasePort (s : State) (i : Slot) (p : PortId) : s.Silent (s.releasePort i p) := by
  unfold State.releasePort
  split
  · exact (modPort s p _).trans (arbitrate _ p)
  · exact refl s

theorem leaveEntry (s : State) (i : Slot) (e : CueEntry) (k : CutKind) (r : CutReason) : s.Silent (s.leaveEntry i e k r) := by
  unfold State.leaveEntry
  refine trans ?_ (trans (modChan (i := i) (f := fun c => c.dropEntry e.cueId) ⟨rfl, rfl, rfl⟩) (offer _ _))
  split
  · exact trans (modChan (i := i) (f := Channel.leaveCutWait) ⟨rfl, rfl, rfl⟩) (releasePort _ i _)
  · exact refl s

theorem missEntry (s : State) (i : Slot) (r : CutReason) (e : CueEntry) : s.Silent (s.missEntry i r e) :=
  (leaveEntry s i e _ r).trans (modChan ⟨rfl, rfl, rfl⟩)

theorem withdrawEntries (s : State) (i : Slot) (which : CueEntry → Bool) (r : CutReason) : s.Silent (s.withdrawEntries i which r) := by
  refine foldl (fun u id => ?_) _ s
  unfold State.withdrawById
  split
  · exact leaveEntry u i _ _ r
  · exact refl u

theorem drainPort (s : State) (i : Slot) (p : PortId) : s.Silent (s.drainPort i p) := modPort s p _

theorem drainTruncating (s : State) (i : Slot) (p : PortId) : s.Silent (s.drainTruncating i p) :=
  (drainPort s i p).trans (modChan ⟨rfl, rfl, rfl⟩)

/-! ## Steps 1 to 3 of a slot event -/

theorem dropBreak (c : Channel) : c.SameFront c.dropBreak := by
  unfold Channel.dropBreak
  split <;> exact ⟨rfl, rfl, rfl⟩

theorem afterLoss (c : Channel) : c.SameFront c.afterLoss := by
  unfold Channel.afterLoss
  split <;> exact ⟨rfl, rfl, rfl⟩

theorem loseBreak (s : State) (i : Slot) : s.Silent (s.loseBreak i) := by
  cases hb : (s.chan i).breakRecord with
  | none =>
    rw [State.loseBreak_of_none hb]
    exact modChan (afterLoss _)
  | some b =>
    rw [State.loseBreak_of_some hb]
    exact (((offer s _).trans (modChan (dropBreak _))).trans (releasePort _ i _)).trans (modChan (afterLoss _))

theorem judgeSilence (s : State) (i : Slot) (t : Time) : s.Silent (s.judgeSilence i t) := by
  unfold State.judgeSilence
  split
  · exact (trans (modChan (i := i) (f := fun c => { c with clock := { c.clock with state := .noClock } }) ⟨rfl, rfl, rfl⟩)
      (withdrawEntries _ i _ _)).trans (loseBreak _ i)
  · exact refl s

theorem stampArrival (s : State) (i : Slot) (x t : Time) (disc : Bool) : s.Silent (s.stampArrival i x t disc) := by
  simp only [State.stampArrival]
  split
  · exact modChan ⟨rfl, rfl, rfl⟩
  · exact modChan ⟨rfl, rfl, rfl⟩
  · split
    · exact modChan ⟨rfl, rfl, rfl⟩
    · exact ((withdrawEntries s i _ _).trans (modChan ⟨rfl, rfl, rfl⟩)).trans (modChan ⟨rfl, rfl, rfl⟩)

theorem judgeStale (s : State) (i : Slot) (t : Time) : s.Silent (s.judgeStale i t) := by
  simp only [State.judgeStale]
  split
  · split
    · exact (offer s _).trans (trans (modChan (i := i) (f := Channel.dropHeldBreak) ⟨rfl, rfl, rfl⟩) (releasePort _ i _))
    · exact refl s
  · exact refl s

theorem clockStep (s : State) (i : Slot) (t : Time) (cell : StreamCell) : s.Silent (s.clockStep i t cell) := by
  simp only [State.clockStep]
  refine trans ?_ (judgeStale _ i t)
  split
  · exact (judgeSilence s i t).trans (stampArrival _ i _ t _)
  · exact judgeSilence s i t

theorem judgeRejoinLimit (s : State) (i : Slot) (t : Time) : s.Silent (s.judgeRejoinLimit i t) := by
  simp only [State.judgeRejoinLimit]
  split
  · split
    · exact ((offer s _).trans (drainPort _ i _)).trans (modChan ⟨rfl, rfl, rfl⟩)
    · exact refl s
  · exact refl s

theorem judgeStarvation (s : State) (i : Slot) (t : Time) : s.Silent (s.judgeStarvation i t) := by
  unfold State.judgeStarvation
  split
  · exact modChan ⟨rfl, rfl, rfl⟩
  · exact refl s

theorem matureFirst (s : State) (i : Slot) (x : Time) : s.Silent (s.matureFirst i x) := by
  unfold State.matureFirst
  split
  · split
    · exact modChan ⟨rfl, rfl, rfl⟩
    · exact refl s
  · exact refl s

theorem judgeMisses (s : State) (i : Slot) (x : Time) : s.Silent (s.judgeMisses i x) := by
  refine foldl (fun u id => ?_) _ s
  unfold State.judgeMiss
  split
  · split
    · exact missEntry u i _ _
    · exact refl u
  · exact refl u

theorem proceed (s : State) (i : Slot) : s.Silent (s.proceed i) := by
  unfold State.proceed State.reserve
  split
  · split
    · split
      · exact (modPort s _ _).trans (modChan ⟨rfl, rfl, rfl⟩)
      · exact modChan ⟨rfl, rfl, rfl⟩
    · exact refl s
  · exact refl s

theorem cueStep (s : State) (i : Slot) (t : Time) : s.Silent (s.cueStep i t) := by
  unfold State.cueStep
  split
  · exact refl s
  · exact ((matureFirst s i _).trans (judgeMisses _ i _)).trans (proceed _ i)

theorem beforeOutput (s : State) (i : Slot) (t : Time) (cell : StreamCell) : s.Silent (s.beforeOutput i t cell) :=
  (((clockStep s i t cell).trans (judgeRejoinLimit _ i t)).trans (judgeStarvation _ i t)).trans (cueStep _ i t)

end State.Silent

/-! ## Outputs, which send one cell -/

/-- Channel i has sent one cell, with what its record called for (R15, R43). -/
structure State.SendsOne (i : Slot) (s u : State) : Prop where
  cell   : ∃ out : StreamCell, u.sout = s.sout ++ [out] ∧ out.mark = cellMark ∧ out.tag = s.tagOf i ∧ out.seq = (s.chan i).outSeq ∧
    ((s.chan i).discDue = true → out.disc = true)
  next   : (u.chan i).outSeq = (s.chan i).outSeq + 1
  spent  : (u.chan i).discDue = false
  gate   : ∀ j, (u.chan j).gateOpen = (s.chan j).gateOpen
  others : ∀ j, j ≠ i → (u.chan j).outSeq = (s.chan j).outSeq

namespace State.SendsOne

theorem send (s : State) (i : Slot) (c : StreamCell) : State.SendsOne i s (s.send i c) := by
  refine ⟨⟨s.rewrite i c, rfl, rfl, rfl, rfl, fun h => by simp [State.rewrite, h]⟩, by rw [State.send_chan_same]; rfl,
    by rw [State.send_chan_same]; rfl, fun j => ?_, fun j hj => by rw [State.send_chan_ne _ _ hj]⟩
  by_cases hj : j = i
  · rw [hj, State.send_chan_same]
    rfl
  · rw [State.send_chan_ne _ _ hj]

theorem before {s u v : State} {i : Slot} (h : s.Silent u) (k : State.SendsOne i u v) : State.SendsOne i s v := by
  have htag : u.tagOf i = s.tagOf i := by simp only [State.tagOf, h.base]
  obtain ⟨⟨out, h1, h2, h3, h4, h5⟩, hn, hd, hg, ho⟩ := k
  rw [h.sout] at h1
  rw [htag] at h3
  rw [(h.front i).outSeq] at h4 hn
  rw [(h.front i).due] at h5
  exact ⟨⟨out, h1, h2, h3, h4, h5⟩, hn, hd, fun j => (hg j).trans (h.front j).gate, fun j hj => (ho j hj).trans (h.front j).outSeq⟩

/-- A change of the channel record that may set DISC due, and the cell after it. -/
theorem cut {s v : State} {i : Slot} (f : Channel → Channel) (hf : ∀ c : Channel, (f c).outSeq = c.outSeq ∧ (f c).gateOpen = c.gateOpen ∧
    (c.discDue = true → (f c).discDue = true)) (k : State.SendsOne i (s.modChan i f) v) : State.SendsOne i s v := by
  obtain ⟨⟨out, h1, h2, h3, h4, h5⟩, hn, hd, hg, ho⟩ := k
  rw [State.modChan_chan_same] at h4 h5 hn
  obtain ⟨f1, f2, f3⟩ := hf (s.chan i)
  refine ⟨⟨out, h1, h2, h3, h4.trans f1, fun h => h5 (f3 h)⟩, hn.trans (by rw [f1]), hd, fun j => ?_, fun j hj => ?_⟩
  · rw [hg]
    by_cases hj : j = i
    · rw [hj, State.modChan_chan_same, f2]
    · rw [State.modChan_chan_ne _ _ hj]
  · rw [ho j hj, State.modChan_chan_ne _ _ hj]

theorem after {s u v : State} {i : Slot} (h : State.SendsOne i s u) (k : u.Silent v) : State.SendsOne i s v := by
  obtain ⟨out, h1, hrest⟩ := h.cell
  exact ⟨⟨out, k.sout.trans h1, hrest⟩, (k.front i).outSeq.trans h.next, (k.front i).due.trans h.spent,
    fun j => (k.front j).gate.trans (h.gate j), fun j hj => (k.front j).outSeq.trans (h.others j hj)⟩

theorem sendFill (s : State) (i : Slot) : State.SendsOne i s (s.sendFill i) :=
  before (.modChan ⟨rfl, rfl, rfl⟩) (send _ i _)

theorem markCut (s : State) (i : Slot) (c : StreamCell) : State.SendsOne i s ((s.modChan i Channel.markCut).send i c) :=
  cut Channel.markCut (fun _ => ⟨rfl, rfl, fun _ => rfl⟩) (send _ i c)

theorem returnCut (s : State) (i : Slot) (b : BreakRecord) (cell : StreamCell) : State.SendsOne i s (s.returnCut i b cell) :=
  (markCut s i cell).after (((State.Silent.releasePort _ i _).trans (.modChan ⟨rfl, rfl, rfl⟩)).trans (.offer _ _))

theorem truncate (s : State) (i : Slot) (b : BreakRecord) : State.SendsOne i s (s.truncate i b) :=
  (sendFill s i).after ((State.Silent.drainTruncating _ i _).trans (.modChan ⟨rfl, rfl, rfl⟩))

theorem cutIn (s : State) (i : Slot) (e : CueEntry) (sp u : Time) (head : StreamCell) : State.SendsOne i s (s.cutIn i e sp u head) := by
  refine before (.modPort s e.port _) (after (cut (fun c =>
    { (c.dropEntry e.cueId).markCut with pendingEntry := none, active := some (.brk (e.toBreak u head.time)), state := .onBreak })
    (fun c => ⟨rfl, rfl, fun _ => rfl⟩) (send _ i _)) (.offer _ _))

theorem rejoinCut (s : State) (i : Slot) (b : BreakRecord) (head : StreamCell) : State.SendsOne i s (s.rejoinCut i b head) := by
  refine before (.modPort s b.port _) (after (cut (fun c => { c.markCut with state := .onBreak })
    (fun c => ⟨rfl, rfl, fun _ => rfl⟩) (send _ i _)) (.offer _ _))

theorem alertCut (s : State) (i : Slot) (a : AlertRef) (reader : Reader) (cell : StreamCell) :
    State.SendsOne i s (s.alertCut i a reader cell) := by
  exact cut (fun c => { c.markCut with
    active := some (.alert { a with offset := some ((s.chan i).clock.alertOffset s.timer cell.time) }),
    reader := some reader.advance, state := .alert, starved := false }) (fun c => ⟨rfl, rfl, fun _ => rfl⟩) (send _ i _)

theorem outputCutWait (s : State) (i : Slot) (cell : StreamCell) : State.SendsOne i s (s.outputCutWait i cell) := by
  unfold State.outputCutWait
  split
  · exact send s i cell
  split
  · exact send s i cell
  split
  · exact send s i cell
  split
  · exact before (.missEntry s i _ _) (send _ i cell)
  split
  · exact send s i cell
  split
  · exact cutIn s i _ _ _ _
  · exact send s i cell

theorem outputBreak (s : State) (i : Slot) (cell : StreamCell) : State.SendsOne i s (s.outputBreak i cell) := by
  unfold State.outputBreak
  split
  · exact sendFill s i
  split
  · exact returnCut s i _ cell
  split
  · exact before (.modChan ⟨rfl, rfl, rfl⟩) (sendFill _ i)
  split
  · simp only [State.endMark]
    refine before (.modPort s _ _) ((sendFill _ i).after ((State.Silent.drainTruncating _ i _).trans (.modChan ?_)))
    exact ⟨rfl, rfl, rfl⟩
  split
  · exact truncate s i _
  · exact before (.modPort s _ _) (send _ i _)

theorem outputReturnWait (s : State) (i : Slot) (cell : StreamCell) : State.SendsOne i s (s.outputReturnWait i cell) := by
  unfold State.outputReturnWait
  split
  · simp only [State.returnFromWait]
    refine (markCut s i cell).after (State.Silent.trans ?_ (.modChan ⟨rfl, rfl, rfl⟩))
    split
    next b _ =>
      refine ((State.Silent.releasePort _ i b.port).trans (State.Silent.modChan (i := i) (f := fun c => { c with active := none })
        ⟨rfl, rfl, rfl⟩)).trans ?_
      unfold State.raiseDue
      split
      · exact .offer _ _
      · exact .refl _
    · exact .refl _
  · exact sendFill s i

theorem outputRejoinWait (s : State) (i : Slot) (cell : StreamCell) : State.SendsOne i s (s.outputRejoinWait i cell) := by
  unfold State.outputRejoinWait
  split
  · exact sendFill s i
  split
  · exact returnCut s i _ cell
  split
  · exact sendFill s i
  split
  · split
    · exact truncate s i _
    · exact rejoinCut s i _ _
  · exact sendFill s i

theorem outputWaiting (s : State) (i : Slot) (cell : StreamCell) : State.SendsOne i s (s.outputWaiting i cell) := by
  unfold State.outputWaiting
  split
  · exact send s i cell
  · exact sendFill s i

theorem outputAlertWait (s : State) (i : Slot) (cell : StreamCell) : State.SendsOne i s (s.outputAlertWait i cell) := by
  simp only [State.outputAlertWait]
  split
  · split
    · exact alertCut s i _ _ _
    · exact outputWaiting s i cell
  · exact outputWaiting s i cell

theorem outputAlert (s : State) (i : Slot) : State.SendsOne i s (s.outputAlert i) := by
  simp only [State.outputAlert]
  split
  · split
    · exact before (.modChan ⟨rfl, rfl, rfl⟩) (send _ i _)
    · exact sendFill s i
  · exact sendFill s i

/-- The output of every channel state sends one cell (R42). -/
theorem output (s : State) (i : Slot) (cell : StreamCell) : State.SendsOne i s (s.output i cell) := by
  unfold State.output
  split
  · exact send s i cell
  · exact outputCutWait s i cell
  · exact outputBreak s i cell
  · exact outputReturnWait s i cell
  · exact outputRejoinWait s i cell
  · exact outputAlertWait s i cell
  · exact outputAlert s i

end State.SendsOne

/-- Settles O13: the operations before the output send nothing, and the output sends one cell. -/
theorem oneOutputCellForEachSlotEvent : Obligations.OneOutputCellForEachSlotEvent := by
  intro t cell s i hreach
  have hexec := exec_networkCellArrival_of_reaches (t := t) hreach
  generalize hu : ((s.atTime t).modChan i fun c => { c with gateOpen := true }) = u at hexec
  have hi : u.chan i = { s.chan i with gateOpen := true } := by
    rw [← hu]
    exact State.modChan_chan_same ..
  have hother (j : Slot) (hj : j ≠ i) : u.chan j = s.chan j := by
    rw [← hu]
    exact State.modChan_chan_ne _ _ hj
  have hone : State.SendsOne i u (u.slotEvent i t cell) := .before (.beforeOutput u i t cell) (.output _ i cell)
  obtain ⟨⟨out, h1, h2, h3, h4, h5⟩, hn, hd, hg, ho⟩ := hone
  rw [hi] at h4 h5 hn
  rw [← hu] at h1 h3
  refine ⟨_, out, hexec, hu ▸ h1, h2, h3, h4, h5, hn, hd, ?_, fun j hj => ⟨?_, ?_⟩⟩
  · rw [hg i, hi]
  · rw [ho j hj, hother j hj]
  · rw [hg j, hother j hj]

end Sys2Proof.Machine
end

section
/-!
What a channel that gives up an alert comes to, and what it leaves of the other channels (R40, R41, R87, R106).
-/
namespace Sys2Proof.Machine

open Sys2Proof.Safety

/-! ## The other channels -/

/-- The channel is left as it is, but for the arbiter in NETWORK (R10). -/
structure Channel.Bystander (c c' : Channel) : Prop where
  active  : c'.active = c.active
  hold    : c'.hold = c.hold
  clock   : c'.clock = c.clock
  reader  : c'.reader = c.reader
  starved : c'.starved = c.starved
  stays   : c.state ≠ .network → c' = c

namespace Channel.Bystander

theorem refl (c : Channel) : c.Bystander c := ⟨rfl, rfl, rfl, rfl, rfl, fun _ => rfl⟩

theorem trans {c d e : Channel} (h : c.Bystander d) (k : d.Bystander e) : c.Bystander e :=
  ⟨k.active.trans h.active, k.hold.trans h.hold, k.clock.trans h.clock, k.reader.trans h.reader, k.starved.trans h.starved, fun hs =>
    (k.stays (by rwa [h.stays hs])).trans (h.stays hs)⟩

theorem of_eq {c d : Channel} (h : d = c) : c.Bystander d := h ▸ refl c

theorem releasePort (s : State) (i : Slot) (p : PortId) (j : Slot) : (s.chan j).Bystander ((s.releasePort i p).chan j) := by
  rcases s.releasePort_chan i p j with h | ⟨e, he, h⟩
  · exact of_eq h
  · rw [h]
    exact ⟨rfl, rfl, rfl, rfl, rfl, fun k => absurd (candidate_spec he).1 k⟩

theorem raiseBreak_releasePort (s : State) (i : Slot) (k : CutKind) (r : CutReason) (b : BreakRecord) (j : Slot) :
    (s.chan j).Bystander (((s.raiseBreak i k r b).releasePort i b.port).chan j) := by
  have h := releasePort (s.raiseBreak i k r b) i b.port j
  rwa [State.raiseBreak_chan] at h

end Channel.Bystander

/-! ## The channel that gives up the alert -/

theorem State.giveUp_of_held {s : State} {i : Slot} {id : Ident} (h : ∀ a, (s.chan i).active = some (.alert a) → a.alertId ≠ id) :
    s.giveUp id i = s.setChan i { s.chan i with hold := (s.chan i).hold.filter fun x => !x.refersTo id } := by
  refine if_neg fun k => ?_
  obtain ⟨a, ha, hid⟩ := active_of_refersTo k
  exact h a ha hid

theorem State.giveUp_of_active {s : State} {i : Slot} {a : AlertRef} (h : (s.chan i).active = some (.alert a)) :
    s.giveUp a.alertId i = s.releaseChannel i := if_pos (by simp [h, Record.refersTo])

theorem State.releaseChannel_of_nil {s : State} {i : Slot} (h : (s.chan i).hold = []) :
    s.releaseChannel i = s.setChan i { (s.chan i).dropActiveAlert with
      state := .returnWait, returnCondition := some .any, returnReport := none } := by
  simp only [State.releaseChannel]
  rw [h]
  exact State.modChan_modChan ..

theorem State.releaseChannel_of_alert {s : State} {i : Slot} {a : AlertRef} (h : (s.chan i).hold.getLast? = some (.alert a)) :
    s.releaseChannel i = s.setChan i ((s.chan i).dropActiveAlert.enterAlertWait a s.ring.newReader s.timer) := by
  simp only [State.releaseChannel]
  rw [h]
  exact State.modChan_modChan ..

theorem State.releaseChannel_of_break {s : State} {i : Slot} {b : BreakRecord} (h : (s.chan i).hold.getLast? = some (.brk b)) :
    s.releaseChannel i = (s.setChan i (s.chan i).dropActiveAlert).evaluateRejoin i b := by
  simp only [State.releaseChannel]
  rw [h]
  rfl

/-- The time that is left of a break, by the clock of the channel (R63, R87). -/
def remaining (s : State) (c : Channel) (b : BreakRecord) : Int :=
  signed b.returnPoint (c.clock.lastStamp + (s.timer - c.clock.lastTime))

theorem State.rejoinMinimum_eq (s : State) : s.rejoinMinimum = 100000 * (s.rejoinMinByte.toNat : Int) := by
  rw [State.rejoinMinimum, Nat.mul_comm]
  exact Int.natCast_mul ..

/-- A break fit to rejoin: its port goes live, and the channel waits to rejoin (R87). -/
theorem State.evaluateRejoin_of_fit {s : State} {i : Slot} {c : Channel} {b : BreakRecord}
    (h : 100000 * s.rejoinMinByte.toNat < remaining s c b) : (s.setChan i c).evaluateRejoin i b =
      (s.modPort b.port fun q => q.goLive i).setChan i { c with active := some (.brk b), state := .rejoinWait, rejoinWaitTime := s.timer } := by
  have hc : (s.setChan i c).chan i = c := State.setChan_chan_same ..
  have hmin : (s.setChan i c).rejoinMinimum = 100000 * (s.rejoinMinByte.toNat : Int) := State.rejoinMinimum_eq _
  simp only [State.evaluateRejoin]
  rw [hc, hmin]
  refine (if_pos (show 100000 * (s.rejoinMinByte.toNat : Int) < remaining s c b from h)).trans ?_
  exact State.modChan_of_setChan (u := (s.setChan i c).modPort b.port fun q => q.goLive i) rfl _

/-- A break that is not fit to rejoin is reported, and its port freed (R87). -/
theorem State.evaluateRejoin_of_unfit {s : State} {i : Slot} {c : Channel} {b : BreakRecord}
    (h : remaining s c b ≤ 100000 * s.rejoinMinByte.toNat) : (s.setChan i c).evaluateRejoin i b =
      (((s.setChan i c).raiseBreak i .cutOut (if remaining s c b ≤ 0 then .expiredInHold else .rejoinTooShort) b).releasePort i b.port).modChan
        i fun c => { c.enterReturnWait (.afterPoint b.returnPoint) none with active := none } := by
  have hc : (s.setChan i c).chan i = c := State.setChan_chan_same ..
  have hmin : (s.setChan i c).rejoinMinimum = 100000 * (s.rejoinMinByte.toNat : Int) := State.rejoinMinimum_eq _
  simp only [State.evaluateRejoin]
  rw [hc, hmin]
  exact if_neg (not_lt.mpr (show remaining s c b ≤ 100000 * (s.rejoinMinByte.toNat : Int) from h))

/-! ## A release in the words of the statement -/

/-- The record of a channel whose alert has ended, by its hold stack (R40, R41, R87). -/
structure AfterRelease (s : State) (c c' : Channel) : Prop where
  hold    : c'.hold = c.hold.dropLast
  starved : c'.starved = false
  state   : c'.state ≠ .network
  bare    : c.hold = [] → c'.state = .returnWait ∧ c'.returnCondition = some .any ∧ c'.returnReport = none ∧ c'.active = none ∧
    c'.reader = none
  beneath : ∀ below, c.hold.getLast? = some (.alert below) → c'.state = .alertWait ∧
    c'.active = some (.alert { below with offset := none }) ∧ c'.alertWaitTime = s.timer ∧ c'.reader = some s.ring.newReader
  fit     : ∀ b, c.hold.getLast? = some (.brk b) → 100000 * s.rejoinMinByte.toNat < remaining s c b → c'.state = .rejoinWait ∧
    c'.active = some (.brk b) ∧ c'.rejoinWaitTime = s.timer ∧ c'.reader = none
  unfit   : ∀ b, c.hold.getLast? = some (.brk b) → remaining s c b ≤ 100000 * s.rejoinMinByte.toNat → c'.state = .returnWait ∧
    c'.returnCondition = some (.afterPoint b.returnPoint) ∧ c'.active = none ∧ c'.reader = none

theorem State.releaseChannel_released (s : State) (i : Slot) : AfterRelease s (s.chan i) ((s.releaseChannel i).chan i) := by
  cases hh : (s.chan i).hold.getLast? with
  | none =>
    have hnil := List.getLast?_eq_none_iff.mp hh
    rw [State.releaseChannel_of_nil hnil, State.setChan_chan_same]
    exact ⟨rfl, rfl, by simp, fun _ => ⟨rfl, rfl, rfl, rfl, rfl⟩, by simp [hh], by simp [hh], by simp [hh]⟩
  | some r =>
    have hne : (s.chan i).hold ≠ [] := fun k => by simp [k] at hh
    cases r with
    | alert a =>
      rw [State.releaseChannel_of_alert hh, State.setChan_chan_same]
      refine ⟨rfl, rfl, by simp [Channel.enterAlertWait], fun k => absurd k hne, fun below k => ?_, by simp [hh], by simp [hh]⟩
      obtain rfl : a = below := by simpa [hh] using k
      exact ⟨rfl, rfl, rfl, rfl⟩
    | brk b =>
      have hdrop : remaining s (s.chan i).dropActiveAlert b = remaining s (s.chan i) b := rfl
      rw [State.releaseChannel_of_break hh]
      rcases lt_or_ge (100000 * (s.rejoinMinByte.toNat : Int)) (remaining s (s.chan i) b) with hrem | hrem
      · rw [State.evaluateRejoin_of_fit (by rw [hdrop]; exact hrem), State.setChan_chan_same]
        refine ⟨rfl, rfl, by simp, fun k => absurd k hne, by simp [hh], fun b' k _ => ?_, fun b' k hle => ?_⟩ <;>
          obtain rfl : b = b' := by simpa [hh] using k
        · exact ⟨rfl, rfl, rfl, rfl⟩
        · exact absurd hle (not_le.mpr hrem)
      · rw [State.evaluateRejoin_of_unfit (by rw [hdrop]; exact hrem), State.modChan_chan_same]
        have hby := Channel.Bystander.raiseBreak_releasePort (s.setChan i (s.chan i).dropActiveAlert) i .cutOut
          (if remaining s (s.chan i).dropActiveAlert b ≤ 0 then .expiredInHold else .rejoinTooShort) b i
        rw [State.setChan_chan_same] at hby
        refine ⟨hby.hold, hby.starved, by simp [Channel.enterReturnWait], fun k => absurd k hne, by simp [hh],
          fun b' k hlt => ?_, fun b' k _ => ?_⟩ <;>
          obtain rfl : b = b' := by simpa [hh] using k
        · exact absurd hrem (not_le.mpr hlt)
        · exact ⟨rfl, rfl, rfl, hby.reader⟩

/-- What a channel comes to that gives up the alert `id` (R106). -/
structure Yields (s : State) (id : Ident) (c c' : Channel) : Prop where
  held     : (∀ a, c.active = some (.alert a) → a.alertId ≠ id) → c'.active = c.active ∧ c'.hold = c.hold.filter fun x => !x.refersTo id
  released : ∀ a, c.active = some (.alert a) → a.alertId = id → AfterRelease s c c'

theorem State.giveUp_yields (s : State) (id : Ident) (i : Slot) : Yields s id (s.chan i) ((s.giveUp id i).chan i) := by
  refine ⟨fun h => ?_, fun a ha hid => ?_⟩
  · rw [State.giveUp_of_held h, State.setChan_chan_same]
    exact ⟨rfl, rfl⟩
  · rw [← hid, State.giveUp_of_active ha]
    exact s.releaseChannel_released i

theorem State.giveUp_bystander (s : State) (id : Ident) {i j : Slot} (hj : j ≠ i) : (s.chan j).Bystander ((s.giveUp id i).chan j) := by
  by_cases h : ∃ a, (s.chan i).active = some (.alert a) ∧ a.alertId = id
  · obtain ⟨a, ha, rfl⟩ := h
    rw [State.giveUp_of_active ha]
    cases hh : (s.chan i).hold.getLast? with
    | none =>
      rw [State.releaseChannel_of_nil (List.getLast?_eq_none_iff.mp hh), State.setChan_chan_ne _ _ hj]
      exact .refl _
    | some r =>
      cases r with
      | alert x =>
        rw [State.releaseChannel_of_alert hh, State.setChan_chan_ne _ _ hj]
        exact .refl _
      | brk b =>
        rw [State.releaseChannel_of_break hh]
        rcases lt_or_ge (100000 * (s.rejoinMinByte.toNat : Int)) (remaining s (s.chan i).dropActiveAlert b) with hrem | hrem
        · rw [State.evaluateRejoin_of_fit hrem, State.setChan_chan_ne _ _ hj]
          exact .refl _
        · rw [State.evaluateRejoin_of_unfit hrem, State.modChan_chan_ne _ _ hj]
          have hby := Channel.Bystander.raiseBreak_releasePort (s.setChan i (s.chan i).dropActiveAlert) i .cutOut
            (if remaining s (s.chan i).dropActiveAlert b ≤ 0 then .expiredInHold else .rejoinTooShort) b j
          rwa [State.setChan_chan_ne _ _ hj] at hby
  · rw [State.giveUp_of_held fun a ha hid => h ⟨a, ha, hid⟩, State.setChan_chan_ne _ _ hj]
    exact .refl _

/-! ## Every channel of the set (R106) -/

theorem AfterRelease.of_bystander {s : State} {c d e : Channel} (h : c.Bystander d) (k : AfterRelease s d e) : AfterRelease s c e := by
  obtain ⟨h1, h2, h3, h4, h5, h6, h7⟩ := k
  have hrem (b : BreakRecord) : remaining s d b = remaining s c b := by rw [remaining, h.clock]; rfl
  rw [h.hold] at h1 h4
  simp only [h.hold, hrem] at h5 h6 h7
  exact ⟨h1, h2, h3, h4, h5, h6, h7⟩

theorem Yields.of_bystander {s : State} {id : Ident} {c d e : Channel} (h : c.Bystander d) (k : Yields s id d e) : Yields s id c e := by
  refine ⟨fun ha => ?_, fun a ha hid => .of_bystander h (k.released a (h.active.trans ha) hid)⟩
  rw [← h.active, ← h.hold]
  exact k.held (by rwa [h.active])

theorem Yields.then_bystander {s : State} {id : Ident} {c d e : Channel} (h : Yields s id c d) (k : d.Bystander e) : Yields s id c e := by
  refine ⟨fun ha => ?_, fun a ha hid => ?_⟩
  · rw [k.active, k.hold]
    exact h.held ha
  · have hr := h.released a ha hid
    rwa [k.stays hr.state]

/-- The limits that a release reads are the same in both states. -/
theorem Yields.of_frame {s u : State} {id : Ident} {c d : Channel} (h1 : u.timer = s.timer) (h2 : u.ring = s.ring)
    (h3 : u.rejoinMinByte = s.rejoinMinByte) (h : Yields u id c d) : Yields s id c d := by
  have hrem (b : BreakRecord) : remaining u c b = remaining s c b := by rw [remaining, h1]; rfl
  refine ⟨h.held, fun a ha hid => ?_⟩
  obtain ⟨k1, k2, k3, k4, k5, k6, k7⟩ := h.released a ha hid
  rw [h1, h2] at k5
  rw [h3, h1] at k6
  rw [h3] at k7
  simp only [hrem] at k6 k7
  exact ⟨k1, k2, k3, k4, k5, k6, k7⟩

theorem State.giveUpAll_chan (s : State) (id : Ident) {slots : List Slot} (hn : slots.Nodup) (j : Slot) :
    (j ∈ slots → Yields s id (s.chan j) ((slots.foldl (fun s i => s.giveUp id i) s).chan j)) ∧
    (j ∉ slots → (s.chan j).Bystander ((slots.foldl (fun s i => s.giveUp id i) s).chan j)) := by
  induction slots generalizing s with
  | nil => exact ⟨fun h => by simp at h, fun _ => .refl _⟩
  | cons i slots ih =>
    obtain ⟨hi, hn⟩ := List.nodup_cons.mp hn
    obtain ⟨hin, hout⟩ := ih (s.giveUp id i) hn
    have hframe := (s.giveUp_moves id i).frame
    refine ⟨fun hj => ?_, fun hj => ?_⟩
    · by_cases e : j = i
      · subst e
        exact (s.giveUp_yields id j).then_bystander (hout hi)
      · have hyields := hin ((List.mem_cons.mp hj).resolve_left e)
        refine .of_bystander (s.giveUp_bystander id e) (.of_frame ?_ ?_ ?_ hyields) <;> rw [hframe]
    · have e : j ≠ i := fun e => hj (e ▸ List.mem_cons_self)
      exact (s.giveUp_bystander id e).trans (hout fun k => hj (List.mem_cons_of_mem _ k))

/-- Where no channel of the set holds a break, giving up moves no port and raises no report. -/
theorem State.giveUp_of_unbroken {s : State} {i : Slot} (h : ∀ x ∈ (s.chan i).hold, x.break? = none) (id : Ident) :
    ∃ c, s.giveUp id i = s.setChan i c := by
  by_cases hact : ∃ a, (s.chan i).active = some (.alert a) ∧ a.alertId = id
  · obtain ⟨a, ha, rfl⟩ := hact
    rw [State.giveUp_of_active ha]
    cases hh : (s.chan i).hold.getLast? with
    | none => exact ⟨_, State.releaseChannel_of_nil (List.getLast?_eq_none_iff.mp hh)⟩
    | some r =>
      cases r with
      | alert x => exact ⟨_, State.releaseChannel_of_alert hh⟩
      | brk b => exact absurd (h _ (List.mem_of_getLast? hh)) (by simp [Record.break?])
  · exact ⟨_, State.giveUp_of_held fun a ha hid => hact ⟨a, ha, hid⟩⟩

theorem State.giveUpAll_of_unbroken {s : State} (id : Ident) {slots : List Slot} (hn : slots.Nodup)
    (h : ∀ j ∈ slots, ∀ x ∈ (s.chan j).hold, x.break? = none) :
    (slots.foldl (fun s i => s.giveUp id i) s).ports = s.ports ∧ (slots.foldl (fun s i => s.giveUp id i) s).line = s.line := by
  induction slots generalizing s with
  | nil => exact ⟨rfl, rfl⟩
  | cons i slots ih =>
    obtain ⟨hi, hn⟩ := List.nodup_cons.mp hn
    obtain ⟨c, hc⟩ := State.giveUp_of_unbroken (h i List.mem_cons_self) id
    rw [List.foldl_cons, hc]
    refine ih hn fun j hj => ?_
    rw [State.setChan_chan_ne _ _ fun (e : j = i) => hi (e ▸ hj)]
    exact h j (List.mem_cons_of_mem _ hj)

end Sys2Proof.Machine
end

section
/-!
ALERT_OFF and ALERT_EXPIRY: the record leaves the table, and its channels give the alert up (R106 to R108).
-/
namespace Sys2Proof.Machine

open Sys2Proof.Safety

/-! ## The end of a record, for every channel set (R106) -/

/-- The record r has ended: what the table, the channels, the output and the line are then. -/
structure EndsAlert (s : State) (r : AlertRecord) (u : State) : Prop where
  alerts : u.alerts = s.alerts.filter fun x => x.alertId != r.alertId
  sout   : u.sout = s.sout
  timer  : u.timer = s.timer
  member : ∀ i, inMask r.channelSet i = true → Yields s r.alertId (s.chan i) (u.chan i)
  other  : ∀ i, inMask r.channelSet i = false → (s.chan i).Bystander (u.chan i)

theorem State.Reported.rx {s u : State} (h : s.Reported u) : u.line.rx = s.line.rx := by
  rw [State.Reported] at h
  rw [h]

theorem State.Reported.evaluateRejoin (s : State) (i : Slot) (b : BreakRecord) : s.Reported (s.evaluateRejoin i b) := by
  simp only [State.evaluateRejoin]
  split
  · exact (State.Reported.modPort s b.port _).trans (.modChan _ i _)
  · exact ((State.Reported.offer s _).trans (.releasePort _ i _)).trans (.modChan _ i _)

theorem State.Reported.giveUp (s : State) (id : Ident) (i : Slot) : s.Reported (s.giveUp id i) := by
  unfold State.giveUp
  split
  · simp only [State.releaseChannel]
    refine (State.Reported.modChan s i Channel.dropActiveAlert).trans ?_
    split
    · exact .modChan _ i _
    · exact .modChan _ i _
    · exact .evaluateRejoin _ i _
  · exact .modChan _ i _

/-- Before the record leaves the table, channels, ports and queued reports alone have changed. -/
theorem State.giveUpAll_reported (s : State) (id : Ident) (slots : List Slot) :
    s.Reported (slots.foldl (fun s i => s.giveUp id i) s) := .foldl (fun s i => .giveUp s id i) slots s

theorem State.endAlert_eq (s : State) (r : AlertRecord) (reason : AlertReason) :
    s.endAlert r reason = (((Config.slots.filter fun i => inMask r.channelSet i).foldl (fun s i => s.giveUp r.alertId i) s).dropAlert
      r.alertId).offer (.alert r.source r.alertId .cleared r.channelSet reason r.level) := rfl

theorem State.dropAlert_offer (s : State) (id : Ident) (r : Report) :
    (s.dropAlert id).offer r = { s with alerts := s.alerts.filter fun x => x.alertId != id, line := (s.offer r).line } := by
  have hline : ((s.dropAlert id).offer r).line = (s.offer r).line := State.offer_line_congr r rfl rfl
  rw [State.offer_eq, hline]
  rfl

theorem State.endAlert_ends (s : State) (r : AlertRecord) (reason : AlertReason) : EndsAlert s r (s.endAlert r reason) := by
  have hchan (j : Slot) : (s.endAlert r reason).chan j =
      ((Config.slots.filter fun i => inMask r.channelSet i).foldl (fun s i => s.giveUp r.alertId i) s).chan j := State.offer_chan ..
  have hall := s.giveUpAll_chan r.alertId (slots_nodup.filter fun i => inMask r.channelSet i)
  have hreported := s.giveUpAll_reported r.alertId (Config.slots.filter fun i => inMask r.channelSet i)
  have hoffer := State.Reported.offer (((Config.slots.filter fun i => inMask r.channelSet i).foldl (fun s i => s.giveUp r.alertId i) s).dropAlert
    r.alertId) (.alert r.source r.alertId .cleared r.channelSet reason r.level)
  rw [← State.endAlert_eq] at hoffer
  generalize s.endAlert r reason = u at hchan hoffer ⊢
  generalize (Config.slots.filter fun i => inMask r.channelSet i).foldl (fun s i => s.giveUp r.alertId i) s = w at *
  rw [State.Reported] at hoffer hreported
  refine ⟨?_, ?_, ?_, fun i hi => ?_, fun i hi => ?_⟩
  · rw [hoffer, hreported]
    rfl
  · rw [hoffer, hreported]
    rfl
  · rw [hoffer, hreported]
    rfl
  · rw [hchan]
    exact (hall i).1 (List.mem_filter.mpr ⟨mem_slots i, hi⟩)
  · rw [hchan]
    exact (hall i).2 fun k => by simp [hi] at k

theorem EndsAlert.answered {s u : State} {r : AlertRecord} (h : EndsAlert s r u) (type : ResponseType) (d : Decision) :
    EndsAlert s r (Safety.answered u s.timer type d) := ⟨h.alerts, h.sout, Eq.refl _, h.member, h.other⟩

theorem State.endAlert_rx (s : State) (r : AlertRecord) (reason : AlertReason) : (s.endAlert r reason).line.rx = s.line.rx := by
  have hreported := s.giveUpAll_reported r.alertId (Config.slots.filter fun i => inMask r.channelSet i)
  rw [State.endAlert_eq, State.dropAlert_offer]
  generalize (Config.slots.filter fun i => inMask r.channelSet i).foldl (fun s i => s.giveUp r.alertId i) s = w at *
  exact (State.Reported.offer w _).rx.trans hreported.rx

/-- Where no channel of the set holds a break, no port moves and CLEARED is the one report. -/
theorem State.endAlert_of_unbroken {s : State} {r : AlertRecord}
    (h : ∀ j, inMask r.channelSet j = true → ∀ x ∈ (s.chan j).hold, x.break? = none)
    (reason : AlertReason) : (s.endAlert r reason).ports = s.ports ∧
      (s.endAlert r reason).line = (s.offer (.alert r.source r.alertId .cleared r.channelSet reason r.level)).line := by
  obtain ⟨hports, hline⟩ := State.giveUpAll_of_unbroken r.alertId (slots_nodup.filter fun i => inMask r.channelSet i)
    fun j hj => h j (List.mem_filter.mp hj).2
  have hstation := s.giveUpAll_reported r.alertId (Config.slots.filter fun i => inMask r.channelSet i)
  rw [State.endAlert_eq]
  generalize (Config.slots.filter fun i => inMask r.channelSet i).foldl (fun s i => s.giveUp r.alertId i) s = w at *
  refine ⟨?_, State.offer_line_congr _ ?_ hline⟩
  · rw [State.offer_eq]
    exact hports
  · show w.station = s.station
    rw [hstation]

/-- A record of no channel leaves the table and is reported. -/
theorem State.endAlert_of_empty {s : State} {r : AlertRecord} (h : r.channelSet = 0) (reason : AlertReason) :
    s.endAlert r reason = { s with
      alerts := s.alerts.filter fun x => x.alertId != r.alertId
      line := (s.offer (.alert r.source r.alertId .cleared 0 reason r.level)).line } := by
  have hnone : Config.slots.filter (fun i => inMask r.channelSet i) = [] := by
    rw [h]
    decide
  rw [State.endAlert_eq, hnone, List.foldl_nil, h, State.dropAlert_offer]

/-! ## A record of one channel -/

theorem slots_filter_slotMask (i : Slot) : Config.slots.filter (fun j => inMask (slotMask i) j) = [i] := by
  revert i
  decide

/-- The record r of one channel has been cleared from the table and reported, with the state u as that channel leaves it. -/
def clearedFrom (u : State) (r : AlertRecord) (i : Slot) (reason : AlertReason) : State :=
  { u with
    alerts := u.alerts.filter fun x => x.alertId != r.alertId
    line := (u.offer (.alert r.source r.alertId .cleared (slotMask i) reason r.level)).line }

theorem State.endAlert_of_one {s : State} {r : AlertRecord} {i : Slot} (h : r.channelSet = slotMask i) (reason : AlertReason) :
    s.endAlert r reason = clearedFrom (s.giveUp r.alertId i) r i reason := by
  rw [State.endAlert_eq, h, slots_filter_slotMask, List.foldl_cons, List.foldl_nil, State.dropAlert_offer]
  rfl

theorem clearedFrom_atTime (u : State) (t : Time) (r : AlertRecord) (i : Slot) (reason : AlertReason) :
    clearedFrom (u.atTime t) r i reason = { clearedFrom u r i reason with timer := t } := by
  have hline : ((u.atTime t).offer (.alert r.source r.alertId .cleared (slotMask i) reason r.level)).line =
      (u.offer (.alert r.source r.alertId .cleared (slotMask i) reason r.level)).line := State.offer_line_congr _ rfl rfl
  unfold clearedFrom
  rw [hline]
  rfl

theorem clearedFrom_answered (u : State) (t : Time) (type : ResponseType) (d : Decision) (r : AlertRecord) (i : Slot) (reason : AlertReason) :
    clearedFrom (answered u t type d) r i reason = answered (clearedFrom u r i reason) t type d := by
  unfold clearedFrom
  rw [State.offer_answered]
  rfl

/-- At t, with a frame of the group on the line or without one, channel i gives the alert up and leaves the state u. -/
structure GivesUpAt (s : State) (t : Time) (id : Ident) (i : Slot) (u : State) : Prop where
  unframed : (s.atTime t).giveUp id i = u.atTime t
  framed   : (answered s t .groupList .silent).giveUp id i = answered u t .groupList .silent

/-- A break fit to rejoin, on top of the stack with its port in DRAIN (R87). -/
theorem State.releaseChannel_of_fit {s : State} {i : Slot} {b : BreakRecord} (hh : (s.chan i).hold.getLast? = some (.brk b))
    (ho : (s.port b.port).owner = some i) (hm : (s.port b.port).mode = .drain)
    (h : 100000 * s.rejoinMinByte.toNat < remaining s (s.chan i) b) : s.releaseChannel i =
      { s.setChan i { (s.chan i).dropActiveAlert with active := some (.brk b), state := .rejoinWait, rejoinWaitTime := s.timer } with
        ports := s.ports.set b.port { s.port b.port with mode := .live, seeking := true } } := by
  have hlive : (s.port b.port).goLive i = { s.port b.port with mode := .live, seeking := true } := by
    rw [InsertPort.goLive, if_pos ho, hm]
  rw [State.releaseChannel_of_break hh, State.evaluateRejoin_of_fit (c := (s.chan i).dropActiveAlert) h, State.modPort, hlive]
  rfl

/-- A break that is not fit to rejoin, on top of the stack with a port that no entry waits for (R87). -/
theorem State.releaseChannel_of_unfit {s : State} {i : Slot} {b : BreakRecord} (hh : (s.chan i).hold.getLast? = some (.brk b))
    (ho : (s.port b.port).owner = some i) (hm : (s.port b.port).mode = .drain) (hn : NoneWaits s b.port)
    (h : remaining s (s.chan i) b ≤ 100000 * s.rejoinMinByte.toNat) : s.releaseChannel i =
      { s.setChan i { (s.chan i).dropActiveAlert with
          state := .returnWait, returnCondition := some (.afterPoint b.returnPoint), returnReport := none } with
        ports := s.ports.set b.port (freed (s.port b.port))
        line := (s.offer (.cut (s.tagOf i) .cutOut b.cueId (if remaining s (s.chan i) b ≤ 0 then .expiredInHold else .rejoinTooShort)
          b.cutStamp 0)).line } := by
  have hmode : (s.port b.port).mode ≠ .free := by simp [hm]
  rw [State.releaseChannel_of_break hh, State.evaluateRejoin_of_unfit (c := (s.chan i).dropActiveAlert) h, State.setChan_scene,
    State.scene_raiseBreak,
    State.scene_releasePort s i (s.chan i).dropActiveAlert s.ports _ s.sout ho hmode hn (hn i), State.scene_modChan, State.lineAfter_own]
  rfl

end Sys2Proof.Machine
end

section
/-!
O32: the end of an alert record by its limit (R108) and by ALERT_OFF (R107).
-/
namespace Sys2Proof.Machine

open Sys2Proof.Safety

theorem exec_alertExpiry {s : State} (h : s.isHeld = false) (t : Time) (id : Ident) :
    exec (.alertExpiry t id) s = .next ((s.atTime t).judgeAlertLimit id t) := exec_running (c := .alertExpiry t id) rfl h

theorem exec_alertOff {s : State} {h : FrameHeader} (hear : Hears s) (group : ToGroup s h)
    (hs : s.station = .setup ∨ s.station = .active ∨ s.station = .clash) (t : Time) (p : BitVec 24) :
    exec (.alertOff t h p) s = .next ((answered s t .groupList .silent).considerAlertOff (word3 p) (last3 p).toNat) :=
  State.take_receive_ifAlerts hear group hs t .alertOff p _

theorem State.judgeAlertLimit_of_passed {s : State} {r : AlertRecord} {id : Ident} {t : Time} (hr : s.alertRecord id = some r)
    (h : r.limit < (t - r.limitStart).toNat) : s.judgeAlertLimit id t = s.endAlert r .expired := by
  rw [State.judgeAlertLimit, hr]
  exact if_pos ((limitPassed_iff ..).mpr h)

theorem State.judgeAlertLimit_of_limit {s : State} {r : AlertRecord} {id : Ident} {t : Time} (hr : s.alertRecord id = some r)
    (h : (t - r.limitStart).toNat ≤ r.limit) : s.judgeAlertLimit id t = s := by
  rw [State.judgeAlertLimit, hr]
  exact if_neg fun k => absurd ((limitPassed_iff ..).mp k) (not_lt.mpr h)

/-- Moves that leave the receive state lead to another state at the end-of-data of the same frame. -/
theorem answered_of_moves {s u : State} {t : Time} {type : ResponseType} {d : Decision} (h : Moves (answered s t type d) u)
    (hrx : u.line.rx = (answered s t type d).line.rx) : answered u t type d = u := by
  have hframe := h.frame
  rw [hrx] at hframe
  obtain ⟨c, p, a, o, q, n, e⟩ : ∃ c p a o q n, u = { answered s t type d with
      channels := c, ports := p, alerts := a, sout := o, line := { (answered s t type d).line with queue := q, drops := n } } :=
    ⟨_, _, _, _, _, _, hframe⟩
  rw [e]
  rfl

/-- An ALERT_OFF ends the record, and the station answers as it would have before it (R107). -/
theorem exec_alertOff_of_record {s : State} {h : FrameHeader} {p : BitVec 24} {r : AlertRecord} (hear : Hears s) (group : ToGroup s h)
    (hs : s.station = .setup ∨ s.station = .active ∨ s.station = .clash) (hr : s.alertRecord (word3 p) = some r) (t : Time) :
    exec (.alertOff t h p) s = .next (answered ((answered s t .groupList .silent).endAlert r .alertOff) t .groupList
      (numberAbove s (last3 p).toNat (s.station ≠ .clash))) := by
  have hrecord : (answered s t .groupList .silent).alertRecord (word3 p) = some r := hr
  have hself := answered_of_moves ((answered s t .groupList .silent).endAlert_moves r .alertOff)
    ((answered s t .groupList .silent).endAlert_rx r .alertOff)
  have hframe := ((answered s t .groupList .silent).endAlert_moves r .alertOff).frame
  have hnumber : numberAbove ((answered s t .groupList .silent).endAlert r .alertOff) (last3 p).toNat
      (((answered s t .groupList .silent).endAlert r .alertOff).station ≠ .clash) =
        numberAbove s (last3 p).toNat (s.station ≠ .clash) := by
    rw [hframe]
    rfl
  rw [exec_alertOff hear group hs, State.considerAlertOff, hrecord]
  dsimp only
  conv_lhs => rw [← hself]
  rw [State.answerAlert_answered, hnumber]

/-- The statement's words for a record that has ended. -/
theorem EndsAlert.given {s u : State} {r : AlertRecord} (h : EndsAlert s r u) :
    u.alerts = s.alerts.filter (fun x => x.alertId != r.alertId) ∧ u.sout = s.sout ∧ u.timer = s.timer ∧
      ∀ i : Slot,
        (inMask r.channelSet i = false → (u.chan i).active = (s.chan i).active ∧ (u.chan i).hold = (s.chan i).hold) ∧
        (inMask r.channelSet i = true → (∀ a, (s.chan i).active = some (.alert a) → a.alertId ≠ r.alertId) →
          (u.chan i).active = (s.chan i).active ∧ (u.chan i).hold = (s.chan i).hold.filter (fun x => !x.refersTo r.alertId)) ∧
        (∀ a, inMask r.channelSet i = true → (s.chan i).active = some (.alert a) → a.alertId = r.alertId →
          (u.chan i).hold = (s.chan i).hold.dropLast ∧ (u.chan i).starved = false ∧
          ((s.chan i).hold = [] → (u.chan i).state = .returnWait ∧ (u.chan i).returnCondition = some .any ∧
            (u.chan i).returnReport = none ∧ (u.chan i).active = none ∧ (u.chan i).reader = none) ∧
          (∀ below, (s.chan i).hold.getLast? = some (.alert below) → (u.chan i).state = .alertWait ∧
            (u.chan i).active = some (.alert { below with offset := none }) ∧ (u.chan i).alertWaitTime = s.timer ∧
            (u.chan i).reader = some s.ring.newReader) ∧
          (∀ b, (s.chan i).hold.getLast? = some (.brk b) →
            (100000 * s.rejoinMinByte.toNat < remaining s (s.chan i) b → (u.chan i).state = .rejoinWait ∧
              (u.chan i).active = some (.brk b) ∧ (u.chan i).rejoinWaitTime = s.timer ∧ (u.chan i).reader = none) ∧
            (remaining s (s.chan i) b ≤ 100000 * s.rejoinMinByte.toNat → (u.chan i).state = .returnWait ∧
              (u.chan i).returnCondition = some (.afterPoint b.returnPoint) ∧ (u.chan i).active = none ∧
              (u.chan i).reader = none))) := by
  refine ⟨h.alerts, h.sout, h.timer, fun i => ⟨fun hi => ⟨(h.other i hi).active, (h.other i hi).hold⟩, fun hi => (h.member i hi).held,
    fun a hi ha hid => ?_⟩⟩
  obtain ⟨hhold, hstarved, _, hbare, hbeneath, hfit, hunfit⟩ := (h.member i hi).released a ha hid
  exact ⟨hhold, hstarved, hbare, hbeneath, fun b hb => ⟨hfit b hb, hunfit b hb⟩⟩

/-- A record of one channel ends, by its limit and by ALERT_OFF, as that channel gives the alert up. -/
theorem GivesUpAt.becomes {s u : State} {t : Time} {h : FrameHeader} {p : BitVec 24} {r : AlertRecord} {i : Slot} (held : s.isHeld = false)
    (hr : s.alertRecord r.alertId = some r) (hset : r.channelSet = slotMask i) (hu : GivesUpAt s t r.alertId i u) :
    (r.limit < (t - r.limitStart).toNat → exec (.alertExpiry t r.alertId) s = .next { clearedFrom u r i .expired with timer := t }) ∧
    (Hears s → ToGroup s h → s.station = .setup ∨ s.station = .active ∨ s.station = .clash → word3 p = r.alertId →
      exec (.alertOff t h p) s = .next (answered (clearedFrom u r i .alertOff) t .groupList
        (numberAbove s (last3 p).toNat (s.station ≠ .clash)))) := by
  refine ⟨fun hlim => ?_, fun hear group hs hid => ?_⟩
  · rw [exec_alertExpiry held, State.judgeAlertLimit_of_passed (by exact hr) hlim, State.endAlert_of_one hset, hu.unframed, clearedFrom_atTime]
  · rw [exec_alertOff_of_record hear group hs (hid ▸ hr), State.endAlert_of_one hset, hu.framed, clearedFrom_answered]
    rfl

/-! ## What one channel gives up, in the words of the statement -/

section
variable {s : State} {t : Time} {id : Ident} {i : Slot}

theorem GivesUpAt.held (h : ∀ a, (s.chan i).active = some (.alert a) → a.alertId ≠ id) :
    GivesUpAt s t id i (s.setChan i { s.chan i with hold := (s.chan i).hold.filter fun x => !x.refersTo id }) :=
  ⟨State.giveUp_of_held (s := s.atTime t) h, State.giveUp_of_held (s := answered s t .groupList .silent) h⟩

variable {a : AlertRef} (ha : (s.chan i).active = some (.alert a)) (hid : a.alertId = id)
include ha hid

/-- The alert is on air or awaited: the channel releases. -/
theorem GivesUpAt.active {u : State} (h1 : (s.atTime t).releaseChannel i = u.atTime t)
    (h2 : (answered s t .groupList .silent).releaseChannel i = answered u t .groupList .silent) : GivesUpAt s t id i u := by
  subst hid
  exact ⟨(State.giveUp_of_active (s := s.atTime t) ha).trans h1, (State.giveUp_of_active (s := answered s t .groupList .silent) ha).trans h2⟩

theorem GivesUpAt.bare (hh : (s.chan i).hold = []) : GivesUpAt s t id i (s.setChan i { (s.chan i).dropActiveAlert with
    state := .returnWait, returnCondition := some .any, returnReport := none }) :=
  .active ha hid (State.releaseChannel_of_nil (s := s.atTime t) hh) (State.releaseChannel_of_nil (s := answered s t .groupList .silent) hh)

theorem GivesUpAt.beneath {below : AlertRef} (hh : (s.chan i).hold.getLast? = some (.alert below)) :
    GivesUpAt s t id i (s.setChan i ((s.chan i).dropActiveAlert.enterAlertWait below s.ring.newReader t)) :=
  .active ha hid (State.releaseChannel_of_alert (s := s.atTime t) hh)
    (State.releaseChannel_of_alert (s := answered s t .groupList .silent) hh)

variable {b : BreakRecord} (hh : (s.chan i).hold.getLast? = some (.brk b)) (ho : (s.port b.port).owner = some i)
  (hm : (s.port b.port).mode = .drain)
include hh ho hm

theorem GivesUpAt.fit (h : 100000 * s.rejoinMinByte.toNat < remaining (s.atTime t) (s.chan i) b) : GivesUpAt s t id i
    { s.setChan i { (s.chan i).dropActiveAlert with active := some (.brk b), state := .rejoinWait, rejoinWaitTime := t } with
      ports := s.ports.set b.port { s.port b.port with mode := .live, seeking := true } } :=
  .active ha hid (State.releaseChannel_of_fit (s := s.atTime t) hh ho hm h)
    (State.releaseChannel_of_fit (s := answered s t .groupList .silent) hh ho hm h)

theorem GivesUpAt.unfit (hn : NoneWaits s b.port) (h : remaining (s.atTime t) (s.chan i) b ≤ 100000 * s.rejoinMinByte.toNat) :
    GivesUpAt s t id i
      { s.setChan i { (s.chan i).dropActiveAlert with
          state := .returnWait, returnCondition := some (.afterPoint b.returnPoint), returnReport := none } with
        ports := s.ports.set b.port (freed (s.port b.port))
        line := (s.offer (.cut (s.tagOf i) .cutOut b.cueId
          (if remaining (s.atTime t) (s.chan i) b ≤ 0 then .expiredInHold else .rejoinTooShort) b.cutStamp 0)).line } := by
  have halone := State.releaseChannel_of_unfit (s := s.atTime t) hh ho hm hn h
  have hframed := State.releaseChannel_of_unfit (s := answered s t .groupList .silent) hh ho hm hn h
  have hline (r : Report) : ((s.atTime t).offer r).line = (s.offer r).line := State.offer_line_congr r rfl rfl
  rw [hline] at halone
  rw [State.offer_answered] at hframed
  exact .active ha hid halone hframed

end

/-- Settles O32: the end of a record, for every channel set and, in full, for a set of one channel. -/
theorem endedAlertLeavesTheTableAndItsChannels : Obligations.EndedAlertLeavesTheTableAndItsChannels := by
  intro t h p s id held c given unbroken
  refine ⟨fun r hr => ?_, fun hnone => ?_, fun r i hr hset => ?_⟩
  · obtain rfl : r.alertId = id := by simpa using List.find?_some hr
    refine ⟨fun hlim => ?_, fun hlim => ?_, fun hear group hs hid => ?_⟩
    · rw [exec_alertExpiry held, State.judgeAlertLimit_of_limit (by exact hr) hlim]
      rfl
    · refine ⟨(s.atTime t).endAlert r .expired, ?_, ((s.atTime t).endAlert_ends r .expired).given,
        (s.atTime t).endAlert_rx r .expired, fun hun => ?_, fun hempty => ?_⟩
      · rw [exec_alertExpiry held, State.judgeAlertLimit_of_passed (by exact hr) hlim]
      · obtain ⟨hports, hline⟩ := State.endAlert_of_unbroken (s := s.atTime t) hun .expired
        exact ⟨hports, hline.trans (State.offer_line_congr _ rfl rfl)⟩
      · have hline : ((s.atTime t).offer (.alert r.source r.alertId .cleared 0 .expired r.level)).line =
            (s.offer (.alert r.source r.alertId .cleared 0 .expired r.level)).line := State.offer_line_congr _ rfl rfl
        rw [State.endAlert_of_empty hempty, hline]
        rfl
    · refine ⟨_, exec_alertOff_of_record hear group hs (hid ▸ hr) t, ?_, rfl, fun hun => ?_, fun hempty => ?_⟩
      · exact (((answered s t .groupList .silent).endAlert_ends r .alertOff).answered .groupList _).given
      · obtain ⟨hports, hline⟩ := State.endAlert_of_unbroken (s := answered s t .groupList .silent) hun .alertOff
        rw [State.offer_answered] at hline
        have hqueue := congrArg LineInterface.queue hline
        have hdrops := congrArg LineInterface.drops hline
        exact ⟨hports, hqueue, hdrops⟩
      · rw [State.endAlert_of_empty hempty, State.offer_answered]
        rfl
  · have hrecord := alertRecord_of_new hnone
    refine ⟨?_, fun hear group hs hid => ?_⟩
    · rw [exec_alertExpiry held, State.judgeAlertLimit, show (s.atTime t).alertRecord id = none from hrecord]
      rfl
    · rw [exec_alertOff hear group hs, State.considerAlertOff, hid, show (answered s t .groupList .silent).alertRecord id = none from hrecord]
  · intro cleared becomes left
    obtain rfl : r.alertId = id := by simpa using List.find?_some hr
    have reaches {u : State} (halerts : u.alerts = s.alerts) (hu : GivesUpAt s t r.alertId i u) : becomes u := by
      have hcleared (reason : AlertReason) : clearedFrom u r i reason = cleared reason u := by rw [clearedFrom, halerts]
      have := hu.becomes (h := h) (p := p) held hr hset
      rwa [hcleared, hcleared] at this
    refine ⟨fun hother => reaches rfl (.held hother), fun a ha hid => ⟨fun hh => reaches rfl (.bare ha hid hh), fun below hh =>
      reaches rfl (.beneath ha hid hh), fun b hh ho hm => ?_⟩⟩
    exact ⟨fun hfit => reaches rfl (.fit ha hid hh ho hm hfit), fun hunfit hn => reaches rfl (.unfit ha hid hh ho hm hn hunfit)⟩

end Sys2Proof.Machine
end

section
/-!
An alert that is offered to the channels of a window: what it leaves of a channel that it is not offered to, and what it makes of one that
it is (R98, R100, R101).
-/
namespace Sys2Proof.Machine

open Sys2Proof.Safety

/-! ## A channel that the alert is not offered to -/

/-- Channel i stands but for the arbiter, its ports stand, and it has neither joined nor left a channel set. -/
structure State.Spares (i : Slot) (s u : State) : Prop where
  chan : (s.chan i).Bystander (u.chan i)
  port : ∀ p, (s.port p).owner = some i → u.port p = s.port p
  sets : ∀ r ∈ u.alerts, ∃ x ∈ s.alerts, x.alertId = r.alertId ∧ inMask r.channelSet i = inMask x.channelSet i

namespace State.Spares

variable {i j : Slot} {s u v : State}

theorem refl (i : Slot) (s : State) : State.Spares i s s := ⟨.refl _, fun _ _ => Eq.refl _, fun r hr => ⟨r, hr, Eq.refl _, Eq.refl _⟩⟩

theorem trans (h : State.Spares i s u) (k : State.Spares i u v) : State.Spares i s v := by
  refine ⟨h.chan.trans k.chan, fun p hp => (k.port p (by rwa [h.port p hp])).trans (h.port p hp), fun r hr => ?_⟩
  obtain ⟨x, hx, hid, hset⟩ := k.sets r hr
  obtain ⟨y, hy, hid', hset'⟩ := h.sets x hx
  exact ⟨y, hy, hid'.trans hid, hset.trans hset'⟩

theorem foldl {α : Type} {f : State → α → State} {l : List α} (hf : ∀ (s : State), ∀ a ∈ l, State.Spares i s (f s a)) (s : State) :
    State.Spares i s (l.foldl f s) :=
  foldl_keeps (P := fun u => State.Spares i s u) l (refl i s) fun u hu a ha => hu.trans (hf u a ha)

theorem of_alerts (h1 : (s.chan i).Bystander (u.chan i)) (h2 : ∀ p, (s.port p).owner = some i → u.port p = s.port p)
    (h3 : u.alerts = s.alerts) : State.Spares i s u := ⟨h1, h2, fun r hr => ⟨r, h3 ▸ hr, Eq.refl _, Eq.refl _⟩⟩

theorem modChan (hj : i ≠ j) (s : State) (f : Channel → Channel) : State.Spares i s (s.modChan j f) :=
  of_alerts (.of_eq (State.modChan_chan_ne _ _ hj)) (fun _ _ => Eq.refl _) (Eq.refl _)

theorem setHold (hj : i ≠ j) (s : State) (hold : List Record) : State.Spares i s (s.setHold j hold) := modChan hj s _

theorem offer (i : Slot) (s : State) (r : Report) : State.Spares i s (s.offer r) := by
  rw [State.offer_eq]
  exact of_alerts (.refl _) (fun _ _ => Eq.refl _) (Eq.refl _)

theorem releasePort (hj : i ≠ j) (s : State) (p : PortId) : State.Spares i s (s.releasePort j p) := by
  refine of_alerts (.releasePort s j p i) (fun q hq => ?_) (State.releasePort_alerts s j p)
  unfold State.releasePort
  split
  next h =>
    have hp : q ≠ p := by
      rintro rfl
      rw [InsertPort.releases, hq] at h
      simp [hj] at h
    have harbitrate (u : State) : (u.arbitrate p).port q = u.port q := by
      unfold State.arbitrate
      split
      next k e _ => exact u.modPort_port_ne (fun q => q.grant k) hp
      · exact Eq.refl _
    rw [harbitrate, State.modPort_port_ne _ _ hp]
  next => exact Eq.refl _

theorem drainPort (hj : i ≠ j) (s : State) (p : PortId) : State.Spares i s (s.drainPort j p) := by
  refine of_alerts (.refl _) (fun q hq => ?_) (Eq.refl _)
  by_cases hp : q = p
  · subst hp
    have hdrains : (s.port q).drains j = false := by
      rw [InsertPort.drains, hq]
      simp [hj]
    rw [State.drainPort, State.modPort_port_same, InsertPort.drain, hdrains]
    simp
  · exact State.modPort_port_ne _ _ hp

theorem leaveSet (hj : i ≠ j) (s : State) (id : Ident) : State.Spares i s (s.leaveSet j id) := by
  refine ⟨.refl _, fun _ _ => Eq.refl _, fun r hr => ?_⟩
  obtain ⟨x, hx, ⟨_, rfl⟩ | ⟨_, rfl⟩⟩ := mem_changeRecord.mp hr
  · exact ⟨x, hx, Eq.refl _, by simp [inMask_leave, hj]⟩
  · exact ⟨r, hx, Eq.refl _, Eq.refl _⟩

theorem joinSet (hj : i ≠ j) (s : State) (id : Ident) : State.Spares i s (s.joinSet j id) := by
  refine ⟨.refl _, fun _ _ => Eq.refl _, fun r hr => ?_⟩
  obtain ⟨x, hx, ⟨_, rfl⟩ | ⟨_, rfl⟩⟩ := mem_changeRecord.mp hr
  · exact ⟨x, hx, Eq.refl _, by simp [inMask_join, hj]⟩
  · exact ⟨r, hx, Eq.refl _, Eq.refl _⟩

theorem shed (hj : i ≠ j) (s : State) (r : Record) : State.Spares i s (s.shed j r) := by
  cases r with
  | brk b => exact (offer i s _).trans (releasePort hj _ b.port)
  | alert a => exact leaveSet hj s a.alertId

theorem place (hj : i ≠ j) (s : State) (r : Record) : State.Spares i s (s.place j r).2 := by
  unfold State.place
  split
  · exact setHold hj s _
  split
  · split
    · exact (setHold hj s _).trans (shed hj _ _)
    · exact refl i s
  · exact refl i s

theorem missEntry (hj : i ≠ j) (s : State) (r : CutReason) (e : CueEntry) : State.Spares i s (s.missEntry j r e) := by
  unfold State.missEntry State.leaveEntry
  refine (trans ?_ ((modChan hj _ _).trans (offer i _ _))).trans (modChan hj _ _)
  split
  · exact (modChan hj s _).trans (releasePort hj _ e.port)
  · exact refl i s

theorem setAside (hj : i ≠ j) (s : State) : State.Spares i s (s.setAside j) := by
  rcases s.setAside_cases j with k | ⟨e, _, k⟩ | ⟨b, _, k⟩ | ⟨b, _, k⟩ | ⟨x, _, k⟩ <;> rw [k]
  · exact refl i s
  · exact missEntry hj s _ e
  · exact (((modChan hj s _).trans (place hj _ _)).trans (drainPort hj _ _)).trans (offer i _ _)
  · simp only [State.preemptReturnWait]
    refine trans ?_ (modChan hj _ _)
    split
    · exact (offer i s _).trans (releasePort hj _ b.port)
    · exact releasePort hj s b.port
  · exact (modChan hj s _).trans (place hj _ _)

theorem offerAlert (hj : i ≠ j) (s : State) (a : AlertRef) : State.Spares i s (s.offerAlert a j) := by
  unfold State.offerAlert
  split
  · exact ((setAside hj s).trans (modChan hj _ _)).trans (joinSet hj _ _)
  · dsimp only
    split
    · exact (place hj s _).trans (joinSet hj _ _)
    · exact place hj s _

end State.Spares

/-! ## The channel that the alert is offered to -/

theorem inMask_joined {i : Slot} {id : Ident} {l : List AlertRecord} {r : AlertRecord}
    (hr : r ∈ changeRecord id (fun r => { r with channelSet := r.channelSet ||| slotMask i }) l) (hid : r.alertId = id) :
    inMask r.channelSet i = true := by
  obtain ⟨y, _, _, h⟩ := inMask_joinTable hr
  rw [h, hid]
  simp

/-- The channel i pre-empts for the alert, and joins its set. -/
theorem State.offerAlert_of_outranks {s : State} {a : AlertRef} {i : Slot} (h : s.outranks i a = true) :
    (s.offerAlert a i).chan i = ((s.setAside i).chan i).enterAlertWait a s.ring.newReader s.timer ∧
      ∀ r ∈ (s.offerAlert a i).alerts, r.alertId = a.alertId → inMask r.channelSet i = true := by
  rw [State.offerAlert, if_pos h]
  exact ⟨s.preempt_chan i a, fun r hr hid => inMask_joined hr hid⟩

theorem State.place_alert (s : State) (i : Slot) (r : Record) :
    (¬ (s.chan i).hold.length < 3 ∧ s.place i r = (false, s)) ∨
      (s.place i r).1 = true ∧ ∃ hold, r ∈ hold ∧ ({ s.chan i with hold := hold } : Channel).Bystander ((s.place i r).2.chan i) := by
  unfold State.place
  split
  · exact .inr ⟨rfl, _, State.mem_insertRecord.mpr (.inl rfl), .of_eq (State.modChan_chan_same ..)⟩
  next hlen =>
    split
    next bottom rest hh =>
      split
      · refine .inr ⟨rfl, s.insertRecord r rest, State.mem_insertRecord.mpr (.inl rfl), ?_⟩
        have hset : (s.setHold i (s.insertRecord r rest)).chan i = { s.chan i with hold := s.insertRecord r rest } :=
          State.modChan_chan_same ..
        rw [← hset]
        cases bottom with
        | brk b => exact .raiseBreak_releasePort _ i _ _ b i
        | alert a => exact .refl _
      · exact .inl ⟨hlen, rfl⟩
    · exact .inl ⟨hlen, rfl⟩

/-- The channel i has an alert of greater key on air, and holds the new one beneath while it can. -/
theorem State.offerAlert_of_not_outranks {s : State} {a : AlertRef} {i : Slot} (h : s.outranks i a = false) :
    (¬ (s.chan i).hold.length < 3 ∧ s.offerAlert a i = s) ∨
      (∃ hold, .alert a ∈ hold ∧ ({ s.chan i with hold := hold } : Channel).Bystander ((s.offerAlert a i).chan i)) ∧
        ∀ r ∈ (s.offerAlert a i).alerts, r.alertId = a.alertId → inMask r.channelSet i = true := by
  rw [State.offerAlert, if_neg (by simp [h])]
  dsimp only
  rcases s.place_alert i (.alert a) with ⟨hlen, hp⟩ | ⟨hp, hold⟩
  · rw [hp]
    exact .inl ⟨hlen, rfl⟩
  · rw [if_pos hp]
    exact .inr ⟨hold, fun r hr hid => inMask_joined hr hid⟩

/-- The break on air or waiting to rejoin is held in a drained port (R100). -/
theorem State.offerAlert_of_break {s : State} {a : AlertRef} {i : Slot} {b : BreakRecord} (hs : (s.chan i).state.OnAir)
    (hb : (s.chan i).active = some (.brk b)) (hh : (s.chan i).hold = []) (ho : (s.port b.port).owner = some i)
    (hm : (s.port b.port).mode = .live) (h : s.outranks i a = true) :
    ((s.offerAlert a i).chan i).hold = [.brk b] ∧ (s.offerAlert a i).port b.port = drained (s.port b.port) := by
  have hnil : ((s.modChan i fun c => { c with active := none }).chan i).hold = [] := by rw [State.modChan_chan_same]; exact hh
  have haside : s.setAside i = (((s.modChan i fun c => { c with active := none }).setHold i [.brk b]).drainPort i b.port).raiseBreak i
      .held .preempted b := by rw [State.setAside_onAir hs hb, State.holdBreak, place_brk_of_nil hnil]
  refine ⟨?_, ?_⟩
  · rw [(State.offerAlert_of_outranks h).1, haside, State.raiseBreak_chan]
    show ((((s.modChan i fun c => { c with active := none }).setHold i [.brk b])).chan i).hold = _
    rw [State.setHold, State.modChan_chan_same]
  · rw [State.offerAlert, if_pos h]
    show (s.setAside i).port b.port = _
    rw [haside, State.raiseBreak, State.raiseCut, State.offer_port]
    show ((s.modPort b.port fun q => q.drain i).port b.port) = _
    rw [State.modPort_port_same, portDrain_eq ho hm]

end Sys2Proof.Machine
end

section
/-!
An OVERRIDE alert that is offered to every channel of its window's set: what becomes of each channel, and of the record (R98).
-/
namespace Sys2Proof.Machine

open Sys2Proof.Safety

/-! ## The receive state and the cells sent -/

theorem State.Reported.missEntry (s : State) (i : Slot) (r : CutReason) (e : CueEntry) : s.Reported (s.missEntry i r e) := by
  unfold State.missEntry State.leaveEntry
  refine State.Reported.trans ?_ (((State.Reported.modChan _ i _).trans (.offer _ _)).trans (.modChan _ i _))
  split
  · exact (State.Reported.modChan s i _).trans (.releasePort _ i e.port)
  · exact .refl s

/-- The receive state and the cells sent stand. -/
def State.SameFront (s u : State) : Prop := u.line.rx = s.line.rx ∧ u.sout = s.sout

theorem State.SameFront.trans {s u v : State} (h : s.SameFront u) (k : u.SameFront v) : s.SameFront v :=
  ⟨k.1.trans h.1, k.2.trans h.2⟩

theorem State.Reported.sameFront {s u : State} (h : s.Reported u) : s.SameFront u := by
  rw [State.Reported] at h
  exact ⟨by rw [h], by rw [h]⟩

theorem State.shed_sameFront (s : State) (i : Slot) (r : Record) : s.SameFront (s.shed i r) := by
  cases r with
  | brk b => exact ((State.Reported.offer s _).trans (.releasePort _ i b.port)).sameFront
  | alert a => exact ⟨rfl, rfl⟩

theorem State.place_sameFront (s : State) (i : Slot) (r : Record) : s.SameFront (s.place i r).2 := by
  unfold State.place
  split
  · exact ⟨rfl, rfl⟩
  split
  · split
    · exact State.shed_sameFront ..
    · exact ⟨rfl, rfl⟩
  · exact ⟨rfl, rfl⟩

theorem State.setAside_sameFront (s : State) (i : Slot) : s.SameFront (s.setAside i) := by
  rcases s.setAside_cases i with k | ⟨e, _, k⟩ | ⟨b, _, k⟩ | ⟨b, _, k⟩ | ⟨x, _, k⟩ <;> rw [k]
  · exact ⟨rfl, rfl⟩
  · exact (State.Reported.missEntry s i _ e).sameFront
  · exact State.SameFront.trans (State.place_sameFront (s.modChan i fun c => { c with active := none }) i (.brk b))
      (State.Reported.sameFront ((State.Reported.modPort _ b.port _).trans (.offer _ _)))
  · simp only [State.preemptReturnWait]
    refine State.Reported.sameFront ?_
    split
    · exact ((State.Reported.offer s _).trans (.releasePort _ i b.port)).trans (.modChan _ i _)
    · exact (State.Reported.releasePort s i b.port).trans (.modChan _ i _)
  · exact State.place_sameFront _ i _

theorem State.offerAlert_sameFront (s : State) (a : AlertRef) (i : Slot) : s.SameFront (s.offerAlert a i) := by
  unfold State.offerAlert
  split
  · exact s.setAside_sameFront i
  · dsimp only
    split
    · exact s.place_sameFront i _
    · exact s.place_sameFront i _

/-! ## The table -/

theorem State.offerAlert_skeleton (s : State) (a : AlertRef) (i : Slot) : skeleton (s.offerAlert a i).alerts = skeleton s.alerts := by
  obtain ⟨o, h | h⟩ := s.offerAlert_alerts a i <;> rw [h]
  · exact shedTable_skeleton i o s.alerts
  · exact (changeRecord_skeleton (joinSet_keepsKey i) _ _).trans (shedTable_skeleton i o s.alerts)

theorem State.offerAll_skeleton (s : State) (a : AlertRef) (slots : List Slot) :
    skeleton (slots.foldl (fun s i => s.offerAlert a i) s).alerts = skeleton s.alerts :=
  foldl_keeps (P := fun u => skeleton u.alerts = skeleton s.alerts) slots rfl fun u hu i _ => (u.offerAlert_skeleton a i).trans hu

/-- Every record of a table is one of another, but for its channel set. -/
def SetsAlone (l l' : List AlertRecord) : Prop := ∀ r ∈ l', ∃ x ∈ l, r = { x with channelSet := r.channelSet }

theorem SetsAlone.refl (l : List AlertRecord) : SetsAlone l l := fun r hr => ⟨r, hr, rfl⟩

theorem SetsAlone.trans {l m n : List AlertRecord} (h : SetsAlone l m) (k : SetsAlone m n) : SetsAlone l n := by
  intro r hr
  obtain ⟨x, hx, e⟩ := k r hr
  obtain ⟨y, hy, e'⟩ := h x hx
  rw [e'] at e
  exact ⟨y, hy, e⟩

theorem SetsAlone.changeRecord (id : Ident) (f : AlertRecord → ChanMask) (l : List AlertRecord) :
    SetsAlone l (Machine.changeRecord id (fun r => { r with channelSet := f r }) l) := by
  intro r hr
  obtain ⟨x, hx, ⟨_, rfl⟩ | ⟨_, rfl⟩⟩ := mem_changeRecord.mp hr
  · exact ⟨x, hx, Eq.refl _⟩
  · exact ⟨r, hx, Eq.refl _⟩

theorem SetsAlone.shedTable (i : Slot) (o : Option Record) (l : List AlertRecord) : SetsAlone l (Machine.shedTable i o l) := by
  unfold Machine.shedTable
  split
  · exact .changeRecord _ _ l
  · exact .refl l
  · exact .refl l

theorem State.offerAll_setsAlone (s : State) (a : AlertRef) (slots : List Slot) :
    SetsAlone s.alerts (slots.foldl (fun s i => s.offerAlert a i) s).alerts := by
  refine foldl_keeps (P := fun u => SetsAlone s.alerts u.alerts) slots (.refl _) fun u hu i _ => hu.trans ?_
  obtain ⟨o, h | h⟩ := u.offerAlert_alerts a i <;> rw [h]
  · exact .shedTable i o _
  · exact (SetsAlone.shedTable i o _).trans (.changeRecord _ _ _)

/-! ## The turn of one channel -/

/-- The alert is offered to channel i at the state v, between channels before and after that spare it. -/
structure OfferedAt (s : State) (a : AlertRef) (i : Slot) (v u : State) : Prop where
  before   : State.Spares i s v
  skeleton : skeleton v.alerts = skeleton s.alerts
  timer    : v.timer = s.timer
  ring     : v.ring = s.ring
  after    : State.Spares i (v.offerAlert a i) u

theorem State.offerAll_at (s : State) (a : AlertRef) {i : Slot} {slots : List Slot} (hn : slots.Nodup) (hi : i ∈ slots) :
    ∃ v, OfferedAt s a i v (slots.foldl (fun s i => s.offerAlert a i) s) := by
  obtain ⟨before, after, rfl⟩ := List.append_of_mem hi
  have hbefore : i ∉ before := fun k => (List.nodup_append.mp hn).2.2 i k i List.mem_cons_self rfl
  have hafter : i ∉ after := (List.nodup_cons.mp (List.nodup_append.mp hn).2.1).1
  have hframe := (Moves.foldl _ (fun s i => s.offerAlert_moves a i) before s).frame
  have hskel := s.offerAll_skeleton a before
  have hspares : State.Spares i s (before.foldl (fun s i => s.offerAlert a i) s) :=
    .foldl (fun s j hj => .offerAlert (fun (k : i = j) => hbefore (k ▸ hj)) s a) s
  refine ⟨before.foldl (fun s i => s.offerAlert a i) s, hspares, hskel, ?_, ?_, ?_⟩
  · rw [hframe]
  · rw [hframe]
  · rw [List.foldl_append, List.foldl_cons]
    exact .foldl (fun s j hj => .offerAlert (fun (k : i = j) => hafter (k ▸ hj)) s a) _

theorem State.offerAll_spares (s : State) (a : AlertRef) {i : Slot} {slots : List Slot} (hi : i ∉ slots) :
    State.Spares i s (slots.foldl (fun s i => s.offerAlert a i) s) := .foldl (fun s j hj => .offerAlert (fun (k : i = j) => hi (k ▸ hj)) s a) s

/-- Every record of this alert names channel i. -/
def Names (u : State) (id : Ident) (i : Slot) : Prop := ∀ r ∈ u.alerts, r.alertId = id → inMask r.channelSet i = true

/-- No record of this alert names channel i. -/
def NamesNot (u : State) (id : Ident) (i : Slot) : Prop := ∀ r ∈ u.alerts, r.alertId = id → inMask r.channelSet i = false

theorem State.Spares.names {i : Slot} {s u : State} (h : State.Spares i s u) {id : Ident} (k : Names s id i) : Names u id i := by
  intro r hr hid
  obtain ⟨x, hx, hid', hset⟩ := h.sets r hr
  rw [hset]
  exact k x hx (hid'.trans hid)

theorem State.Spares.namesNot {i : Slot} {s u : State} (h : State.Spares i s u) {id : Ident} (k : NamesNot s id i) : NamesNot u id i := by
  intro r hr hid
  obtain ⟨x, hx, hid', hset⟩ := h.sets r hr
  rw [hset]
  exact k x hx (hid'.trans hid)

theorem Channel.Bystander.records {c c' : Channel} (h : c.Bystander c') : Safety.records c' = Safety.records c := by
  unfold Safety.records
  rw [h.active, h.hold]

namespace OfferedAt

variable {s v u : State} {a : AlertRef} {i : Slot} (h : OfferedAt s a i v u)
include h

theorem outranks : v.outranks i a = s.outranks i a := by
  have hkey := State.keyGreater_congr (skeleton_ids h.skeleton)
  unfold State.outranks
  rw [h.before.chan.active]
  simp only [hkey]

/-- The alert pre-empts the channel (R101). -/
theorem chan_of_outranks (ho : s.outranks i a = true) : ∃ c : Channel, u.chan i = c.enterAlertWait a s.ring.newReader s.timer := by
  obtain ⟨hc, _⟩ := State.offerAlert_of_outranks (h.outranks.trans ho)
  refine ⟨(v.setAside i).chan i, ?_⟩
  rw [h.after.chan.stays (by rw [hc]; simp [Channel.enterAlertWait]), hc, h.timer, h.ring]

theorem names_of_outranks (ho : s.outranks i a = true) : Names u a.alertId i :=
  h.after.names (State.offerAlert_of_outranks (h.outranks.trans ho)).2

/-- An alert of greater key stays on air (R98). -/
theorem stands_of_not_outranks (ho : s.outranks i a = false) : (u.chan i).active = (s.chan i).active ∧
    ((s.chan i).state ≠ .network → (u.chan i).state = (s.chan i).state) ∧
    ((s.chan i).hold.length < 3 → .alert a ∈ (u.chan i).hold ∧ Names u a.alertId i) := by
  rcases State.offerAlert_of_not_outranks (h.outranks.trans ho) with ⟨hlen, e⟩ | ⟨⟨hold, hmem, hby⟩, hnames⟩
  · have hspares : State.Spares i s u := h.before.trans (e ▸ h.after)
    rw [h.before.chan.hold] at hlen
    exact ⟨hspares.chan.active, fun k => by rw [hspares.chan.stays k], fun k => absurd k hlen⟩
  · have hall := hby.trans h.after.chan
    refine ⟨hall.active.trans h.before.chan.active, fun k => ?_, fun _ => ⟨?_, h.after.names hnames⟩⟩
    · have hv := h.before.chan.stays k
      rw [hall.stays (show (v.chan i).state ≠ .network by rwa [hv])]
      show (v.chan i).state = _
      rw [hv]
    · rw [hall.hold]
      exact hmem

/-- The record names the channel exactly when the channel holds the alert, where it did not hold it before (R105). -/
theorem refers (hs : NamesNot s a.alertId i) (hnew : ∀ x ∈ records (s.chan i), x.refersTo a.alertId = false) :
    Names u a.alertId i ∧ (records (u.chan i)).any (Record.refersTo a.alertId) = true ∨
      NamesNot u a.alertId i ∧ (records (u.chan i)).any (Record.refersTo a.alertId) = false := by
  have holds {x : Record} (hx : x ∈ records (u.chan i)) (hr : x.refersTo a.alertId = true) :
      (records (u.chan i)).any (Record.refersTo a.alertId) = true := List.any_eq_true.mpr ⟨x, hx, hr⟩
  cases ho : s.outranks i a with
  | true =>
    obtain ⟨c, hc⟩ := h.chan_of_outranks ho
    refine .inl ⟨h.names_of_outranks ho, holds (x := .alert { a with offset := none }) ?_ (by simp [Record.refersTo])⟩
    rw [hc]
    exact List.mem_append_left _ (by simp [Channel.enterAlertWait])
  | false =>
    rcases State.offerAlert_of_not_outranks (h.outranks.trans ho) with ⟨_, e⟩ | ⟨⟨hold, hmem, hby⟩, hnames⟩
    · have hspares : State.Spares i s u := h.before.trans (e ▸ h.after)
      rw [hspares.chan.records]
      exact .inr ⟨hspares.namesNot hs, List.any_eq_false.mpr fun x hx => by simp [hnew x hx]⟩
    · refine .inl ⟨h.after.names hnames, holds (x := .alert a) ?_ (by simp [Record.refersTo])⟩
      refine List.mem_append_right _ ?_
      rw [(hby.trans h.after.chan).hold]
      exact hmem

/-- A break on air or waiting to rejoin is held in a drained port (R100). -/
theorem holds_break {b : BreakRecord} (hs : (s.chan i).state.OnAir) (hb : (s.chan i).active = some (.brk b)) (hh : (s.chan i).hold = [])
    (hp : (s.port b.port).owner = some i) (hm : (s.port b.port).mode = .live) (ho : s.outranks i a = true) :
    (u.chan i).hold = [.brk b] ∧ u.port b.port = drained (s.port b.port) := by
  have hne : (s.chan i).state ≠ .network := by rcases hs with hs | hs <;> simp [hs]
  have hv := h.before.chan.stays hne
  have hport := h.before.port b.port hp
  obtain ⟨h1, h2⟩ := State.offerAlert_of_break (s := v) (a := a) (by rwa [hv]) (by rwa [hv]) (by rwa [hv]) (by rwa [hport]) (by rwa [hport])
    (h.outranks.trans ho)
  rw [hport] at h2
  refine ⟨h.after.chan.hold.trans h1, (h.after.port b.port ?_).trans h2⟩
  rw [h2]
  exact hp

end OfferedAt

end Sys2Proof.Machine
end

section
/-!
An alert that is offered to one channel, in full: by what the channel was doing (R37, R38, R100, R101).
-/
namespace Sys2Proof.Machine

open Sys2Proof.Safety

section
variable (s : State) (i : Slot) (c : Channel) (ports : Vector InsertPort 4) (line : LineInterface) (out : List StreamCell)

theorem State.scene_self : s = s.scene i (s.chan i) s.ports s.line s.sout := (s.setChan_self i).symm

theorem State.scene_awaitAlert (a : AlertRef) : (s.scene i c ports line out).awaitAlert i a =
    s.scene i (c.enterAlertWait a s.ring.newReader s.timer) ports line out := State.scene_modChan ..

/-! ## A full hold stack (R38) -/

theorem State.scene_shed_break {b : BreakRecord} (hs : c.state ≠ .network) (ho : ports[b.port].owner = some i)
    (hm : ports[b.port].mode ≠ .free) (hn : NoneWaits s b.port) : (s.scene i c ports line out).shed i (.brk b) =
      s.scene i c (ports.set b.port (freed ports[b.port])) (s.lineAfter line (.cut (s.tagOf i) .shed b.cueId .holdFull b.cutStamp 0)) out := by
  rw [State.shed, State.scene_raiseBreak, State.scene_releasePort s i c ports _ out ho hm hn fun k => absurd k hs]

theorem State.scene_shed_alert (a : AlertRef) : (s.scene i c ports line out).shed i (.alert a) =
    (s.leaveSet i a.alertId).scene i c ports line out := rfl

end

theorem State.place_of_nil {s : State} {i : Slot} (hh : (s.chan i).hold = []) (r : Record) : s.place i r = (true, s.setHold i [r]) := by
  simp [State.place, hh, holdLimit, State.insertRecord]

theorem State.place_of_full {s : State} {i : Slot} {bottom x y : Record} (hh : (s.chan i).hold = [bottom, x, y]) {r : Record}
    (hk : s.keyGreater r bottom = true) : s.place i r = (true, (s.setHold i (s.insertRecord r [x, y])).shed i bottom) := by
  simp [State.place, hh, holdLimit, hk]

theorem State.place_of_low {s : State} {i : Slot} {bottom x y : Record} (hh : (s.chan i).hold = [bottom, x, y]) {r : Record}
    (hk : s.keyGreater r bottom = false) : s.place i r = (false, s) := by
  simp [State.place, hh, holdLimit, hk]

theorem State.keyGreater_of_level {s : State} {a b : Record} (h : b.level < a.level) : s.keyGreater a b = true :=
  State.keyGreater_iff.mpr (.inl h)

theorem State.not_keyGreater_of_level {s : State} {a b : Record} (h : a.level < b.level) : s.keyGreater a b = false := by
  rw [← Bool.not_eq_true, State.keyGreater_iff]
  omega

theorem State.insertRecord_above {s : State} {r x y : Record} (hx : x.level < r.level) (hy : y.level < r.level) :
    s.insertRecord r [x, y] = [x, y, r] := by
  simp [State.insertRecord, State.keyGreater_of_level hx, State.keyGreater_of_level hy]

theorem State.insertRecord_below {s : State} {r x y : Record} (hx : r.level < x.level) : s.insertRecord r [x, y] = [r, x, y] := by
  simp [State.insertRecord, State.not_keyGreater_of_level hx]

/-! ## What is set aside (R100) -/

section
variable {s : State} {i : Slot}

theorem State.setAside_of_idle (hs : (s.chan i).state = .network ∨ (s.chan i).state = .returnWait) (ha : (s.chan i).active = none) :
    s.setAside i = s := by
  rcases hs with hs | hs
  · simp only [State.setAside, hs]
  · have hb := activeBreak_of_not_brk (c := s.chan i) (by simp [ha])
    simp only [State.setAside, hs, hb]

theorem State.setAside_cutWait_eq {e : CueEntry} (hs : (s.chan i).state = .cutWait) (hp : (s.chan i).pendingEntry = some e.cueId)
    (he : (s.chan i).entry e.cueId = some e) (hstate : e.state = .cutWait) (ho : (s.port e.port).owner = some i)
    (hm : (s.port e.port).mode ≠ .free) (hn : NoneWaits s e.port) (hx : ∀ x ∈ (s.chan i).cues, x.waitsFor e.port = false) :
    s.setAside i = s.scene i { s.chan i with
        cues := (s.chan i).cues.filter fun x => x.cueId != e.cueId, pendingEntry := none, state := .network
        missCount := bumped (s.chan i).missCount }
      (s.ports.set e.port (freed (s.port e.port))) (s.offer (.cut (s.tagOf i) .missed e.cueId .preempted 0 0)).line s.sout := by
  have hcut : (s.chan i).cutWaitEntry = some e := by simp [Channel.cutWaitEntry, hp, he]
  rw [State.setAside_cutWait hs hcut]
  conv_lhs => rw [s.scene_self i]
  rw [State.scene_missEntry_of_cutWait s i (s.chan i) s.ports s.line s.sout hstate hs ho hm hn hx]
  rfl

theorem State.setAside_onAir_eq {b : BreakRecord} (hs : (s.chan i).state.OnAir) (hb : (s.chan i).active = some (.brk b))
    (hh : (s.chan i).hold = []) (ho : (s.port b.port).owner = some i) (hm : (s.port b.port).mode = .live) :
    s.setAside i = s.scene i { s.chan i with active := none, hold := [.brk b] } (s.ports.set b.port (drained (s.port b.port)))
      (s.offer (.cut (s.tagOf i) .held b.cueId .preempted b.cutStamp 0)).line s.sout := by
  rw [State.setAside_onAir hs hb, State.holdBreak]
  conv_lhs => rw [s.scene_self i]
  rw [State.scene_modChan, State.place_of_nil (by rw [State.scene_chan]; exact hh), State.setHold, State.scene_modChan,
    State.scene_drainPort s i _ s.ports s.line s.sout ho hm, State.scene_raiseBreak]
  rfl

theorem State.setAside_returnWait_eq {b : BreakRecord} (hs : (s.chan i).state = .returnWait) (hb : (s.chan i).active = some (.brk b))
    (ho : (s.port b.port).owner = some i) (hm : (s.port b.port).mode ≠ .free) (hn : NoneWaits s b.port) :
    s.setAside i = s.scene i { s.chan i with active := none } (s.ports.set b.port (freed (s.port b.port)))
      (if (s.chan i).returnReport = none then s.line else (s.offer (.cut (s.tagOf i) .cutOut b.cueId .preempted b.cutStamp 0)).line)
      s.sout := by
  have release (line : LineInterface) := State.scene_releasePort s i (s.chan i) s.ports line s.sout ho hm hn fun k => by simp [hs] at k
  rw [State.setAside_returnWait hs hb]
  simp only [State.preemptReturnWait]
  split
  next hr =>
    conv_lhs => rw [s.scene_self i]
    rw [State.scene_raiseBreak, release, State.scene_modChan, if_neg (by simp [hr])]
    rfl
  next hr =>
    conv_lhs => rw [s.scene_self i]
    rw [release, State.scene_modChan, if_pos hr]
    rfl

/-- A full stack on which a record is placed above the bottom one, which is shed: a break, with its port (R38). -/
theorem State.place_sheds_break {c : Channel} {b : BreakRecord} {x y r : Record} {hold : List Record} (hs : c.state ≠ .network)
    (hh : c.hold = [.brk b, x, y]) (hk : s.keyGreater r (.brk b) = true) (hi : s.insertRecord r [x, y] = hold)
    (ho : (s.port b.port).owner = some i) (hm : (s.port b.port).mode ≠ .free) (hn : NoneWaits s b.port) :
    (s.scene i c s.ports s.line s.sout).place i r = (true, s.scene i { c with hold := hold } (s.ports.set b.port (freed (s.port b.port)))
      (s.offer (.cut (s.tagOf i) .shed b.cueId .holdFull b.cutStamp 0)).line s.sout) := by
  have hfull := State.place_of_full (s := s.scene i c s.ports s.line s.sout) (i := i) (by rw [State.scene_chan]; exact hh) (r := r) hk
  rw [hfull, show (s.scene i c s.ports s.line s.sout).insertRecord r [x, y] = hold from hi, State.setHold, State.scene_modChan,
    State.scene_shed_break s i { c with hold := hold } s.ports s.line s.sout hs ho hm hn]
  rfl

/-- A full stack on which a record is placed above the bottom one, which is shed: an alert, with its set (R38). -/
theorem State.place_sheds_alert {c : Channel} {lost : AlertRef} {x y r : Record} {hold : List Record} (hh : c.hold = [.alert lost, x, y])
    (hk : s.keyGreater r (.alert lost) = true) (hi : s.insertRecord r [x, y] = hold) :
    (s.scene i c s.ports s.line s.sout).place i r =
      (true, (s.leaveSet i lost.alertId).scene i { c with hold := hold } s.ports s.line s.sout) := by
  have hfull := State.place_of_full (s := s.scene i c s.ports s.line s.sout) (i := i) (by rw [State.scene_chan]; exact hh) (r := r) hk
  rw [hfull, show (s.scene i c s.ports s.line s.sout).insertRecord r [x, y] = hold from hi, State.setHold, State.scene_modChan,
    State.scene_shed_alert]

section
variable {a : AlertRef} (hs : (s.chan i).state.Alerted) (ha : (s.chan i).active = some (.alert a))
include hs ha

/-- The alert of lower level goes beneath (R100). -/
theorem State.setAside_alerted_eq : s.setAside i =
    ((s.scene i { s.chan i with active := none, reader := none } s.ports s.line s.sout).place i (.alert { a with offset := none })).2 :=
  State.setAside_alerted hs ha

theorem State.setAside_alerted_of_nil (hh : (s.chan i).hold = []) : s.setAside i =
    s.scene i { s.chan i with active := none, reader := none, hold := [.alert { a with offset := none }] } s.ports s.line s.sout := by
  rw [State.setAside_alerted_eq hs ha, State.place_of_nil (by rw [State.scene_chan]; exact hh), State.setHold, State.scene_modChan]

variable {x y : Record} (hx : x.level < a.level) (hy : y.level < a.level)
include hx hy

theorem State.setAside_alerted_of_break {b : BreakRecord} (hh : (s.chan i).hold = [.brk b, x, y]) (hk : Record.level (.brk b) < a.level)
    (ho : (s.port b.port).owner = some i) (hm : (s.port b.port).mode ≠ .free) (hn : NoneWaits s b.port) : s.setAside i =
      s.scene i { s.chan i with active := none, reader := none, hold := [x, y, .alert { a with offset := none }] }
        (s.ports.set b.port (freed (s.port b.port))) (s.offer (.cut (s.tagOf i) .shed b.cueId .holdFull b.cutStamp 0)).line s.sout := by
  have hne : (s.chan i).state ≠ .network := by rcases hs with hs | hs <;> simp [hs]
  rw [State.setAside_alerted_eq hs ha, State.place_sheds_break (c := { s.chan i with active := none, reader := none }) 
    (r := .alert { a with offset := none }) hne hh (State.keyGreater_of_level hk) (State.insertRecord_above hx hy) ho hm hn]

theorem State.setAside_alerted_of_alert {lost : AlertRef} (hh : (s.chan i).hold = [.alert lost, x, y]) (hk : lost.level < a.level) :
    s.setAside i = (s.leaveSet i lost.alertId).scene i
      { s.chan i with active := none, reader := none, hold := [x, y, .alert { a with offset := none }] } s.ports s.line s.sout := by
  rw [State.setAside_alerted_eq hs ha, State.place_sheds_alert (c := { s.chan i with active := none, reader := none }) 
    (r := .alert { a with offset := none }) hh (State.keyGreater_of_level hk) (State.insertRecord_above hx hy)]

end

end

/-! ## The alert is taken -/

/-- A pre-emption after the work of the channel has been set aside (R101). -/
theorem State.offerAlert_of_setAside {s w : State} {a : AlertRef} {i : Slot} {c : Channel} {ports : Vector InsertPort 4}
    {line : LineInterface} {out : List StreamCell} (ho : s.outranks i a = true) (hset : s.setAside i = w.scene i c ports line out) :
    s.offerAlert a i = (w.joinSet i a.alertId).scene i (c.enterAlertWait a w.ring.newReader w.timer) ports line out := by
  rw [State.offerAlert, if_pos ho, State.preempt, hset, State.scene_awaitAlert]
  rfl

/-- A reference that is held beneath an alert of greater key (R98). -/
theorem State.offerAlert_of_placed {s u : State} {a : AlertRef} {i : Slot} (ho : s.outranks i a = false)
    (hp : s.place i (.alert a) = (true, u)) : s.offerAlert a i = u.joinSet i a.alertId := by
  rw [State.offerAlert, if_neg (by simp [ho])]
  simp only [hp, if_true]

theorem State.offerAlert_of_refused {s : State} {a : AlertRef} {i : Slot} (ho : s.outranks i a = false)
    (hp : s.place i (.alert a) = (false, s)) : s.offerAlert a i = s := by
  rw [State.offerAlert, if_neg (by simp [ho])]
  simp [hp]

end Sys2Proof.Machine
end

section
/-!
O31: an OVERRIDE alert of a window (R98), for every channel set and, in full, for a set of one channel.
-/
namespace Sys2Proof.Machine

open Sys2Proof.Safety

/-! ## The frame, its record and the channels of its window -/

/-- A frame of an alert that the station takes as a new OVERRIDE alert by the window w (R94). -/
structure TakesOver (s : State) (h : FrameHeader) (f : AlertOnFields) (w : RegionWindow) : Prop where
  hears    : Hears s
  group    : ToGroup s h
  station  : s.station = .setup ∨ s.station = .active ∨ s.station = .clash
  intact   : f.intact = true
  fresh    : ∀ x ∈ s.alerts, x.alertId ≠ f.alertId
  governed : s.governing f.region f.scope = some w
  room     : s.alerts.length < 8
  override : w.mode = .override

/-- The reference of a new alert. -/
def newRef (f : AlertOnFields) : AlertRef := { alertId := f.alertId, level := f.level, offset := none }

/-- The record of a new OVERRIDE alert with this channel set. -/
def takenRecord (f : AlertOnFields) (source : Byte) (t : Time) (set : ChanMask) : AlertRecord :=
  { alertId := f.alertId, level := f.level, scope := f.scope, region := f.region, mode := .override,
    channelSet := set, limitStart := t, limit := 1000000 * (if f.duration = 0 ∨ 3600 < f.duration then 3600 else f.duration), source := source }

theorem toRecord_override (f : AlertOnFields) (source : Byte) (t : Time) : f.toRecord .override source t = takenRecord f source t 0 := by
  rw [AlertOnFields.toRecord, alertLimit_eq]
  rfl

/-- The state in which the alert is offered to the first channel. -/
def beforeOffers (s : State) (t : Time) (h : FrameHeader) (f : AlertOnFields) : State :=
  (answered s t .groupList .silent).addAlert (takenRecord f h.source t 0)

/-- The alert has been offered to every channel of the window's set. -/
def afterOffers (s : State) (t : Time) (h : FrameHeader) (f : AlertOnFields) (w : RegionWindow) : State :=
  (Config.slots.filter fun i => inMask w.channelSet i).foldl (fun s i => s.offerAlert (newRef f) i) (beforeOffers s t h f)

theorem afterOffers_moves (s : State) (t : Time) (h : FrameHeader) (f : AlertOnFields) (w : RegionWindow) :
    Moves (answered s t .groupList .silent) (afterOffers s t h f w) :=
  (Moves.start.table _).trans (Moves.foldl _ (fun s i => s.offerAlert_moves (newRef f) i) _ _)

theorem afterOffers_sameFront (s : State) (t : Time) (h : FrameHeader) (f : AlertOnFields) (w : RegionWindow) :
    (answered s t .groupList .silent).SameFront (afterOffers s t h f w) :=
  foldl_keeps (P := fun u => (answered s t .groupList .silent).SameFront u) _ ⟨rfl, rfl⟩
    fun u hu i _ => hu.trans (u.offerAlert_sameFront (newRef f) i)

theorem exec_alertOn_override {s : State} {h : FrameHeader} {p : BitVec 88} {w : RegionWindow} (k : TakesOver s h (alertOnFields p) w)
    (t : Time) : exec (.alertOn t h p) s = .next (answered
      ((afterOffers s t h (alertOnFields p) w).offer (.alert h.source (alertOnFields p).alertId .taken
        ((afterOffers s t h (alertOnFields p) w).channelSetOf (alertOnFields p).alertId) .none (alertOnFields p).level))
      t .groupList (numberAbove s (alertOnFields p).floor (s.station ≠ .clash))) := by
  have hmoves := afterOffers_moves s t h (alertOnFields p) w
  have hself := answered_of_moves hmoves (afterOffers_sameFront s t h (alertOnFields p) w).1
  have hnew : (answered s t .groupList .silent).alertRecord (alertOnFields p).alertId = none := alertRecord_of_new k.fresh
  have hgoverning : (answered s t .groupList .silent).governing (alertOnFields p).region (alertOnFields p).scope = some w := k.governed
  have hoverride : (answered s t .groupList .silent).overrideAlert (alertOnFields p) h.source w =
      ((afterOffers s t h (alertOnFields p) w).offer (.alert h.source (alertOnFields p).alertId .taken
        ((afterOffers s t h (alertOnFields p) w).channelSetOf (alertOnFields p).alertId) .none (alertOnFields p).level)).answerAlert
          (alertOnFields p).floor := by
    rw [State.overrideAlert, toRecord_override]
    rfl
  rw [exec_alertOn k.hears k.group k.station, State.considerAlertOn, if_pos k.intact, hnew]
  dsimp only
  rw [State.newAlert, hgoverning]
  dsimp only
  rw [if_neg (by exact not_le.mpr k.room), k.override]
  dsimp only
  rw [hoverride]
  generalize (afterOffers s t h (alertOnFields p) w).channelSetOf (alertOnFields p).alertId = set
  generalize afterOffers s t h (alertOnFields p) w = u at hmoves hself ⊢
  have hframe := hmoves.frame
  have hoffer : u.offer (.alert h.source (alertOnFields p).alertId .taken set .none (alertOnFields p).level) =
      answered (u.offer (.alert h.source (alertOnFields p).alertId .taken set .none (alertOnFields p).level)) t .groupList .silent := by
    conv_lhs => rw [← hself]
    rw [State.offer_answered, ← State.offer_eq]
  have hnumber : numberAbove (u.offer (.alert h.source (alertOnFields p).alertId .taken set .none (alertOnFields p).level))
      (alertOnFields p).floor ((u.offer (.alert h.source (alertOnFields p).alertId .taken set .none (alertOnFields p).level)).station ≠ .clash) =
        numberAbove s (alertOnFields p).floor (s.station ≠ .clash) := by
    rw [State.offer_eq, hframe]
    rfl
  conv_lhs => rw [hoffer]
  rw [State.answerAlert_answered, hnumber]

/-! ## Keys of the new alert (R36) -/

section
variable {s : State} {t : Time} {h : FrameHeader} {f : AlertOnFields} {i : Slot}

theorem outranks_none (ha : (s.chan i).active = none) : (beforeOffers s t h f).outranks i (newRef f) = true := by
  rw [State.outranks, show ((beforeOffers s t h f).chan i).active = none from ha]

theorem outranks_break {b : BreakRecord} (hf : f.intact = true) (ha : (s.chan i).active = some (.brk b)) :
    (beforeOffers s t h f).outranks i (newRef f) = true := by
  rw [State.outranks, show ((beforeOffers s t h f).chan i).active = some (.brk b) from ha]
  exact State.keyGreater_alert_brk _ (AlertOnFields.level_ranked hf).1 b

theorem outranks_lower {a : AlertRef} (ha : (s.chan i).active = some (.alert a)) (hl : a.level < f.level) :
    (beforeOffers s t h f).outranks i (newRef f) = true := by
  rw [State.outranks, show ((beforeOffers s t h f).chan i).active = some (.alert a) from ha]
  exact State.keyGreater_of_level hl

theorem not_outranks_higher {a : AlertRef} (ha : (s.chan i).active = some (.alert a)) (hl : f.level < a.level) :
    (beforeOffers s t h f).outranks i (newRef f) = false := by
  rw [State.outranks, show ((beforeOffers s t h f).chan i).active = some (.alert a) from ha]
  exact State.not_keyGreater_of_level hl

/-- An older alert of the same level has the greater key. -/
theorem not_outranks_older {a : AlertRef} (hnew : ∀ x ∈ s.alerts, x.alertId ≠ f.alertId) (ha : (s.chan i).active = some (.alert a))
    (hl : f.level ≤ a.level) (hold : ∃ x ∈ s.alerts, x.alertId = a.alertId) :
    (beforeOffers s t h f).outranks i (newRef f) = false := by
  have hage : s.ageOf a.alertId < s.alerts.length := by
    obtain ⟨x, hx, hid⟩ := hold
    exact List.findIdx_lt_length_of_exists ⟨x, hx, by simp [hid]⟩
  have holder : (beforeOffers s t h f).ageOf a.alertId = s.ageOf a.alertId := State.ageOf_addAlert (s := answered s t .groupList .silent) hold _
  have hyoung : s.alerts.length ≤ (beforeOffers s t h f).ageOf f.alertId := by
    have hnone : s.alerts.findIdx (fun r => r.alertId == f.alertId) = s.alerts.length :=
      List.findIdx_eq_length_of_false fun x hx => by simpa using hnew x hx
    show s.alerts.length ≤ (s.alerts ++ [takenRecord f h.source t 0]).findIdx _
    rw [List.findIdx_append, if_neg (by omega)]
    omega
  rw [State.outranks, show ((beforeOffers s t h f).chan i).active = some (.alert a) from ha]
  dsimp only
  rw [← Bool.not_eq_true, State.keyGreater_iff]
  simp only [Record.level, State.recordAge, newRef, holder]
  omega

end

/-! ## The record of the new alert -/

section
variable {s : State} {h : FrameHeader} {f : AlertOnFields} (hnew : ∀ x ∈ s.alerts, x.alertId ≠ f.alertId) (t : Time)
include hnew

theorem beforeOffers_record {r : AlertRecord} (hr : r ∈ (beforeOffers s t h f).alerts) (hid : r.alertId = f.alertId) :
    r = takenRecord f h.source t 0 := by
  rcases List.mem_append.mp hr with hr | hr
  · exact absurd hid (hnew r hr)
  · exact List.mem_singleton.mp hr

theorem beforeOffers_namesNot (i : Slot) : NamesNot (beforeOffers s t h f) f.alertId i := by
  intro r hr hid
  rw [beforeOffers_record hnew t hr hid]
  exact BitVec.getLsbD_zero

/-- The record stands in the table with a channel set. -/
theorem afterOffers_record (w : RegionWindow) : ∃ r, (afterOffers s t h f w).alerts.find? (fun x => x.alertId == f.alertId) = some r ∧
    r = takenRecord f h.source t r.channelSet := by
  have hskel : skeleton (afterOffers s t h f w).alerts = skeleton (beforeOffers s t h f).alerts :=
    State.offerAll_skeleton (beforeOffers s t h f) (newRef f) _
  have hsets : SetsAlone (beforeOffers s t h f).alerts (afterOffers s t h f w).alerts :=
    State.offerAll_setsAlone (beforeOffers s t h f) (newRef f) _
  have hin : (f.alertId, f.level, AlertMode.override) ∈ skeleton (afterOffers s t h f w).alerts := by
    rw [hskel]
    exact mem_skeleton.mpr ⟨_, List.mem_append_right _ (List.mem_singleton.mpr rfl), rfl, rfl, rfl⟩
  obtain ⟨y, hy, hid, _⟩ := mem_skeleton.mp hin
  cases hr : (afterOffers s t h f w).alerts.find? (fun x => x.alertId == f.alertId) with
  | none => exact absurd hid (by simpa using List.find?_eq_none.mp hr y hy)
  | some r =>
    have hrid : r.alertId = f.alertId := by simpa using List.find?_some hr
    obtain ⟨x, hx, e⟩ := hsets r (List.mem_of_find?_eq_some hr)
    refine ⟨r, rfl, ?_⟩
    have hxid : x.alertId = f.alertId := (congrArg AlertRecord.alertId e).symm.trans hrid
    rw [beforeOffers_record hnew t hx hxid] at e
    exact e

end

end Sys2Proof.Machine
end

section
/-!
O31: an OVERRIDE alert takes the channels of its window.
-/
namespace Sys2Proof.Machine

open Sys2Proof.Safety

/-! ## Every channel of the window, for every channel set -/

section
variable {s : State} {t : Time} {h : FrameHeader} {f : AlertOnFields} {w : RegionWindow} {i : Slot}

theorem afterOffers_spares (hi : inMask w.channelSet i = false) : State.Spares i (beforeOffers s t h f) (afterOffers s t h f w) :=
  State.offerAll_spares _ _ fun k => by simp [hi] at k

theorem afterOffers_at (hi : inMask w.channelSet i = true) : ∃ v, OfferedAt (beforeOffers s t h f) (newRef f) i v (afterOffers s t h f w) :=
  State.offerAll_at _ _ (slots_nodup.filter _) (List.mem_filter.mpr ⟨mem_slots i, hi⟩)

/-- The channel set of the record names the channels that hold the alert (R105). -/
theorem afterOffers_refers (hnew : ∀ x ∈ s.alerts, x.alertId ≠ f.alertId) {r : AlertRecord} (hr : r ∈ (afterOffers s t h f w).alerts)
    (hid : r.alertId = f.alertId) (hi : ∀ x ∈ records (s.chan i), x.refersTo f.alertId = false) :
    inMask r.channelSet i = (records ((afterOffers s t h f w).chan i)).any (Record.refersTo f.alertId) := by
  have hnot := beforeOffers_namesNot (h := h) hnew t i
  cases hm : inMask w.channelSet i with
  | false =>
    have hspares := afterOffers_spares (s := s) (t := t) (h := h) (f := f) hm
    rw [hspares.namesNot hnot r hr hid, hspares.chan.records]
    exact (List.any_eq_false.mpr fun x hx => by simp [hi x hx]).symm
  | true =>
    obtain ⟨v, hv⟩ := afterOffers_at (s := s) (t := t) (h := h) (f := f) hm
    rcases hv.refers hnot hi with ⟨h1, h2⟩ | ⟨h1, h2⟩
    · exact (h1 r hr hid).trans h2.symm
    · exact (h1 r hr hid).trans h2.symm

end

/-! ## One channel -/

theorem modAlert_joined {i : Slot} {f : AlertOnFields} {l : List AlertRecord} (h : ∀ x ∈ l, x.alertId ≠ f.alertId) (source : Byte)
    (t : Time) :
    changeRecord f.alertId (fun r => { r with channelSet := r.channelSet ||| slotMask i }) (l ++ [takenRecord f source t 0]) =
      l ++ [takenRecord f source t (slotMask i)] := by
  have hl : l.map (fun r => if r.alertId = f.alertId then { r with channelSet := r.channelSet ||| slotMask i } else r) = l :=
    (List.map_congr_left (g := id) fun x hx => if_neg (h x hx)).trans (List.map_id l)
  have hz : (0 : ChanMask) ||| slotMask i = slotMask i := BitVec.zero_or
  rw [changeRecord, List.map_append, hl, List.map_singleton, if_pos (by rfl)]
  exact congrArg (fun m => l ++ [takenRecord f source t m]) hz

theorem modAlert_left (i : Slot) (f : AlertOnFields) (id : Ident) (l : List AlertRecord) (source : Byte) (t : Time) :
    changeRecord id (fun r => { r with channelSet := r.channelSet &&& ~~~ slotMask i }) (l ++ [takenRecord f source t 0]) =
      changeRecord id (fun r => { r with channelSet := r.channelSet &&& ~~~ slotMask i }) l ++ [takenRecord f source t 0] := by
  have hz : (0 : ChanMask) &&& ~~~ slotMask i = 0 := BitVec.zero_and
  rw [changeRecord, List.map_append, List.map_singleton]
  refine congrArg (fun r => List.map _ l ++ [r]) ?_
  split
  · exact congrArg (takenRecord f source t) hz
  · rfl

/-- A table without this alert is without it when channel i has left another. -/
theorem fresh_left {l : List AlertRecord} {new : Ident} (h : ∀ x ∈ l, x.alertId ≠ new) (i : Slot) (id : Ident) :
    ∀ x ∈ changeRecord id (fun r => { r with channelSet := r.channelSet &&& ~~~ slotMask i }) l, x.alertId ≠ new := by
  intro x hx
  obtain ⟨y, hy, ⟨_, rfl⟩ | ⟨_, rfl⟩⟩ := mem_changeRecord.mp hx
  · exact h y hy
  · exact h x hy

/-- The state u, without the new record, is where the alert leaves the one channel of its window, with this set. -/
def LeavesAt (s : State) (t : Time) (h : FrameHeader) (f : AlertOnFields) (i : Slot) (u : State) (set : ChanMask) : Prop :=
  (beforeOffers s t h f).offerAlert (newRef f) i = answered (u.addAlert (takenRecord f h.source t set)) t .groupList .silent

theorem LeavesAt.takes {s u : State} {t : Time} {h : FrameHeader} {p : BitVec 88} {w : RegionWindow} {i : Slot} {set : ChanMask}
    (k : TakesOver s h (alertOnFields p) w) (hw : w.channelSet = slotMask i) (hu : LeavesAt s t h (alertOnFields p) i u set)
    (hfresh : ∀ x ∈ u.alerts, x.alertId ≠ (alertOnFields p).alertId) :
    exec (.alertOn t h p) s = .next (answered { u with
      alerts := u.alerts ++ [takenRecord (alertOnFields p) h.source t set]
      line := (u.offer (.alert h.source (alertOnFields p).alertId .taken set .none (alertOnFields p).level)).line } t .groupList
      (numberAbove s (alertOnFields p).floor (s.station ≠ .clash))) := by
  have hafter : afterOffers s t h (alertOnFields p) w =
      answered (u.addAlert (takenRecord (alertOnFields p) h.source t set)) t .groupList .silent := by
    rw [afterOffers, hw, slots_filter_slotMask, List.foldl_cons, List.foldl_nil]
    exact hu
  have hset : (afterOffers s t h (alertOnFields p) w).channelSetOf (alertOnFields p).alertId = set := by
    have hfind : (u.alerts ++ [takenRecord (alertOnFields p) h.source t set]).find? (fun r => r.alertId == (alertOnFields p).alertId) =
        some (takenRecord (alertOnFields p) h.source t set) := by
      rw [List.find?_append, List.find?_eq_none.mpr fun x hx => by simpa using hfresh x hx]
      simp [takenRecord]
    rw [hafter]
    show ((List.find? _ (u.alerts ++ [takenRecord (alertOnFields p) h.source t set])).map (·.channelSet)).getD 0 = set
    rw [hfind]
    rfl
  have hline (r : Report) : ((u.addAlert (takenRecord (alertOnFields p) h.source t set)).offer r).line = (u.offer r).line :=
    State.offer_line_congr r rfl rfl
  rw [exec_alertOn_override k, hset, hafter, State.offer_answered, hline]
  rfl

section
variable {s : State} {t : Time} {h : FrameHeader} {f : AlertOnFields} {i : Slot} (hnew : ∀ x ∈ s.alerts, x.alertId ≠ f.alertId)

theorem beforeOffers_offer (r : Report) : ((beforeOffers s t h f).offer r).line =
    (answered { s with line := (s.offer r).line } t .groupList .silent).line := by
  rw [State.offer_line_congr (s := answered s t .groupList .silent) (u := beforeOffers s t h f) r rfl rfl, State.offer_answered]

include hnew

theorem beforeOffers_joinSet : (beforeOffers s t h f).joinSet i f.alertId =
    (answered s t .groupList .silent).addAlert (takenRecord f h.source t (slotMask i)) :=
  congrArg (fun l => ({ answered s t .groupList .silent with alerts := l } : State)) (modAlert_joined hnew h.source t)

/-- Channel i leaves the set of an alert that it shed, and joins that of the new one. -/
theorem beforeOffers_leaveSet (id : Ident) : ((beforeOffers s t h f).leaveSet i id).joinSet i f.alertId =
    (answered { s with alerts := changeRecord id (fun r => { r with channelSet := r.channelSet &&& ~~~ slotMask i }) s.alerts } t
      .groupList .silent).addAlert (takenRecord f h.source t (slotMask i)) := by
  have htable := (congrArg (changeRecord f.alertId fun r => { r with channelSet := r.channelSet ||| slotMask i })
    (modAlert_left i f id s.alerts h.source t)).trans (modAlert_joined (fresh_left hnew i id) h.source t)
  exact congrArg (fun l => ({ answered s t .groupList .silent with alerts := l } : State)) htable

variable {c : Channel} {ports : Vector InsertPort 4}

/-- A pre-emption without a report. -/
theorem LeavesAt.silent (ho : (beforeOffers s t h f).outranks i (newRef f) = true)
    (hset : (beforeOffers s t h f).setAside i = (beforeOffers s t h f).scene i c ports (beforeOffers s t h f).line s.sout) :
    LeavesAt s t h f i { s.setChan i (c.enterAlertWait (newRef f) s.ring.newReader t) with ports := ports } (slotMask i) := by
  rw [LeavesAt, State.offerAlert_of_setAside ho hset, show (newRef f).alertId = f.alertId from rfl, beforeOffers_joinSet hnew]
  rfl

/-- A pre-emption with a report. -/
theorem LeavesAt.reporting {r : Report} (ho : (beforeOffers s t h f).outranks i (newRef f) = true)
    (hset : (beforeOffers s t h f).setAside i = (beforeOffers s t h f).scene i c ports ((beforeOffers s t h f).offer r).line s.sout) :
    LeavesAt s t h f i { s.setChan i (c.enterAlertWait (newRef f) s.ring.newReader t) with ports := ports, line := (s.offer r).line }
      (slotMask i) := by
  rw [LeavesAt, State.offerAlert_of_setAside ho hset, show (newRef f).alertId = f.alertId from rfl, beforeOffers_joinSet hnew,
    beforeOffers_offer]
  rfl

/-- A pre-emption that sheds an alert. -/
theorem LeavesAt.shedding {lost : Ident} (ho : (beforeOffers s t h f).outranks i (newRef f) = true)
    (hset : (beforeOffers s t h f).setAside i = ((beforeOffers s t h f).leaveSet i lost).scene i c ports (beforeOffers s t h f).line s.sout) :
    LeavesAt s t h f i { s.setChan i (c.enterAlertWait (newRef f) s.ring.newReader t) with
      ports := ports
      alerts := changeRecord lost (fun r => { r with channelSet := r.channelSet &&& ~~~ slotMask i }) s.alerts } (slotMask i) := by
  rw [LeavesAt, State.offerAlert_of_setAside ho hset, show (newRef f).alertId = f.alertId from rfl, beforeOffers_leaveSet hnew]
  rfl

/-- A reference held beneath, in place of a break that is shed. -/
theorem LeavesAt.beneathBreak {r : Report} (ho : (beforeOffers s t h f).outranks i (newRef f) = false)
    (hp : (beforeOffers s t h f).place i (.alert (newRef f)) =
      (true, (beforeOffers s t h f).scene i c ports ((beforeOffers s t h f).offer r).line s.sout)) :
    LeavesAt s t h f i { s.setChan i c with ports := ports, line := (s.offer r).line } (slotMask i) := by
  rw [LeavesAt, State.offerAlert_of_placed ho hp]
  show ((beforeOffers s t h f).joinSet i f.alertId).scene i c ports ((beforeOffers s t h f).offer r).line s.sout = _
  rw [beforeOffers_joinSet hnew, beforeOffers_offer]
  rfl

/-- A reference held beneath, in place of an alert that is shed. -/
theorem LeavesAt.beneathAlert {lost : Ident} (ho : (beforeOffers s t h f).outranks i (newRef f) = false)
    (hp : (beforeOffers s t h f).place i (.alert (newRef f)) =
      (true, ((beforeOffers s t h f).leaveSet i lost).scene i c ports (beforeOffers s t h f).line s.sout)) :
    LeavesAt s t h f i { s.setChan i c with
      ports := ports
      alerts := changeRecord lost (fun r => { r with channelSet := r.channelSet &&& ~~~ slotMask i }) s.alerts } (slotMask i) := by
  rw [LeavesAt, State.offerAlert_of_placed ho hp]
  show (((beforeOffers s t h f).leaveSet i lost).joinSet i f.alertId).scene i c ports (beforeOffers s t h f).line s.sout = _
  rw [beforeOffers_leaveSet hnew]
  rfl

end

end Sys2Proof.Machine
end

section
/-!
O31: the general part over the window's channels, and the exact part by what the one channel was doing (sections 6.4, 6.5).
-/
namespace Sys2Proof.Machine

open Sys2Proof.Safety

/-- Settles O31: the channels of a window one after another, and a window of one channel in full. -/
theorem overrideAlertTakesTheChannelsOfItsWindow : Obligations.OverrideAlertTakesTheChannelsOfItsWindow := by
  intro t h p s w hear group f ref hs hi hnew hw hroom hmode
  have k : TakesOver s h f w := ⟨hear, group, hs, hi, hnew, hw, hroom, hmode⟩
  refine ⟨?_, fun i hset => ?_⟩
  · obtain ⟨r, hfind, hr⟩ := afterOffers_record (h := h) hnew t w
    have hexec := exec_alertOn_override k t
    have hskel : skeleton (afterOffers s t h f w).alerts = skeleton (beforeOffers s t h f).alerts :=
      State.offerAll_skeleton (beforeOffers s t h f) (newRef f) _
    have hrmem := List.mem_of_find?_eq_some hfind
    have hrid : r.alertId = f.alertId := by simpa using List.find?_some hfind
    have hsout : (afterOffers s t h f w).sout = s.sout := (afterOffers_sameFront s t h f w).2
    rw [State.offer_eq] at hexec
    refine ⟨_, r, hexec, hsout, rfl, rfl, ?_, hfind, ?_, ?_, ?_, ?_, fun i => ⟨fun hm => ?_, fun hunknown => ?_, fun hm =>
      ⟨fun hlow => ?_, fun a hst ha hle hin => ?_, fun b hst hb hh ho hlive => ?_⟩⟩⟩
    · exact hskel.trans (List.map_append ..)
    · rw [hr]
      rfl
    · rw [hr]
      rfl
    · rw [hr]
      rfl
    · rw [hr]
      rfl
    · have hspares := afterOffers_spares (s := s) (t := t) (h := h) (f := f) hm
      exact ⟨hspares.chan.active, hspares.chan.hold, hspares.namesNot (beforeOffers_namesNot hnew t i) r hrmem hrid⟩
    · exact afterOffers_refers hnew hrmem hrid hunknown
    · obtain ⟨v, hv⟩ := afterOffers_at (s := s) (t := t) (h := h) (f := f) hm
      have hrank : (beforeOffers s t h f).outranks i (newRef f) = true := by
        rcases hlow with ha | ⟨b, ha⟩ | ⟨a, ha, hl⟩
        · exact outranks_none ha
        · exact outranks_break hi ha
        · exact outranks_lower ha hl
      obtain ⟨c, hc⟩ := hv.chan_of_outranks hrank
      have hc : (afterOffers s t h f w).chan i = c.enterAlertWait (newRef f) s.ring.newReader t := hc
      refine ⟨?_, ?_, ?_, ?_, ?_, hv.names_of_outranks hrank r hrmem hrid⟩
      · exact congrArg Channel.state hc
      · exact congrArg Channel.active hc
      · exact congrArg Channel.alertWaitTime hc
      · exact congrArg Channel.starved hc
      · exact congrArg Channel.reader hc
    · obtain ⟨v, hv⟩ := afterOffers_at (s := s) (t := t) (h := h) (f := f) hm
      obtain ⟨hactive, hstate, hhold⟩ := hv.stands_of_not_outranks (not_outranks_older hnew ha hle hin)
      exact ⟨hactive, hstate (by rcases hst with hst | hst <;> simp [show ((beforeOffers s t h f).chan i).state = _ from hst]), fun hlen =>
        ⟨(hhold hlen).1, (hhold hlen).2 r hrmem hrid⟩⟩
    · obtain ⟨v, hv⟩ := afterOffers_at (s := s) (t := t) (h := h) (f := f) hm
      exact hv.holds_break hst hb hh ho hlive (outranks_break hi hb)
  · intro c waiting takes freeing reporting mine leaving
    have reaches {u : State} {set : ChanMask} (hfresh : ∀ x ∈ u.alerts, x.alertId ≠ f.alertId) (hu : LeavesAt s t h f i u set) :
        takes u set := hu.takes k hset hfresh
    refine ⟨fun hst ha => ?_, fun e hst ha hp he hstate hmine hx => ?_, fun b hst hb hh ho hlive => ?_,
      fun b hst hb hmine => ⟨fun hr => ?_, fun hr => ?_⟩,
      fun a hst ha hl => ?_, fun a bottom x y hst ha hl hh => ?_⟩
    · have hidle := State.setAside_of_idle (s := beforeOffers s t h f) hst ha
      exact reaches hnew (LeavesAt.silent hnew (outranks_none ha) (hidle.trans (State.scene_self _ i)) :)
    · obtain ⟨ho, hm, hn⟩ := hmine
      exact reaches hnew (LeavesAt.reporting hnew (outranks_none ha)
        (State.setAside_cutWait_eq (s := beforeOffers s t h f) hst hp he hstate ho hm hn hx) :)
    · exact reaches hnew (LeavesAt.reporting hnew (outranks_break hi hb)
        (State.setAside_onAir_eq (s := beforeOffers s t h f) hst hb hh ho hlive) :)
    · obtain ⟨ho, hm, hn⟩ := hmine
      have haside := State.setAside_returnWait_eq (s := beforeOffers s t h f) hst hb ho hm hn
      rw [if_pos (by exact hr)] at haside
      exact reaches hnew (LeavesAt.silent hnew (outranks_break hi hb) haside :)
    · obtain ⟨ho, hm, hn⟩ := hmine
      have haside := State.setAside_returnWait_eq (s := beforeOffers s t h f) hst hb ho hm hn
      rw [if_neg (by exact hr)] at haside
      exact reaches hnew (LeavesAt.reporting hnew (outranks_break hi hb) haside :)
    · intro beneath
      refine ⟨fun hh => ?_, fun bottom x y hh h1 h2 h3 => ?_⟩
      · exact reaches hnew (LeavesAt.silent hnew (outranks_lower ha hl)
          (State.setAside_alerted_of_nil (s := beforeOffers s t h f) hst ha hh) :)
      · intro u
        refine ⟨fun b hb hmine => ?_, fun lost hlost => ?_⟩
        · subst hb
          obtain ⟨ho, hm, hn⟩ := hmine
          exact reaches hnew (LeavesAt.reporting hnew (outranks_lower ha hl)
            (State.setAside_alerted_of_break (s := beforeOffers s t h f) hst ha h2 h3 hh h1 ho hm hn) :)
        · subst hlost
          exact reaches (fresh_left hnew i lost.alertId) (LeavesAt.shedding hnew (outranks_lower ha hl)
            (State.setAside_alerted_of_alert (s := beforeOffers s t h f) hst ha h2 h3 hh h1) :)
    · intro u
      have hrank := not_outranks_higher (t := t) (h := h) ha hl
      have hne : c.state ≠ .network := by rcases hst with hst | hst <;> simp [hst]
      refine ⟨fun hlow => ?_, fun h1 h2 => ⟨fun b hb hmine => ?_, fun lost hlost => ?_⟩⟩
      · refine reaches hnew ?_
        exact State.offerAlert_of_refused hrank (State.place_of_low (s := beforeOffers s t h f) (r := .alert (newRef f)) hh
          (State.not_keyGreater_of_level hlow))
      · subst hb
        obtain ⟨ho, hm, hn⟩ := hmine
        refine reaches hnew (.beneathBreak hnew hrank ?_)
        conv_lhs => rw [State.scene_self (beforeOffers s t h f) i]
        exact State.place_sheds_break (s := beforeOffers s t h f) (c := s.chan i) hne hh (State.keyGreater_of_level h1)
          (State.insertRecord_below h2) ho hm hn
      · subst hlost
        refine reaches (fresh_left hnew i lost.alertId) (.beneathAlert hnew hrank ?_)
        conv_lhs => rw [State.scene_self (beforeOffers s t h f) i]
        exact State.place_sheds_alert (s := beforeOffers s t h f) (c := s.chan i) hh (State.keyGreater_of_level h1)
          (State.insertRecord_below h2)

end Sys2Proof.Machine
end
